-- ==== Sys2Proof/Word.lean ====
section
/-! DEFINITION. The word types of the module (R8, R11): bytes, 32-bit and 64-bit words. -/

namespace Sys2Proof

/-- One byte of a record or of memory (R8). -/
abbrev Byte := BitVec 8

/-- A 32-bit lane, handle or word. -/
abbrev W32 := BitVec 32

/-- A 64-bit register (R11). -/
abbrev W64 := BitVec 64

end Sys2Proof
end

