-- ==== Sys2Proof/Syntax.lean ====
section
/-! DEFINITION. The commands of the block: one constructor per row of spec/opcode_table.json, with the
operands the row needs. What the surroundings decide (a self-test result, a meter reading, a received packet) is an operand. -/

namespace Sys2Proof

/-- Who sends a request to a cache slice, in the order of sources of R226; a run-ahead request names its queue. -/
inductive Requester where
  | core (c : Nat) | dma (c : Nat) | estuary | ford | codec | delta
  | runAhead (q : Nat) | updateEngine (p : Nat) | gauge
  deriving DecidableEq, Repr

/-- What an ARRIVE header tells of one rank (R323), as START's rank table carries it on (R332). -/
structure RankInfo where
  rank : Nat
  arrived : Bool
  tideCount : Nat
  phaseNs : Nat
  throttle : Nat
  throttleUs : Nat
  vote : Nat
  tideState : Nat
  deriving DecidableEq, Repr

/-- The header of a ford flit as it arrives (R340): its channel, its sequence and acknowledge numbers, the credits it returns, and its CRC field. TYPE is
the row's own, LEN the length of the payload the row gives. -/
structure FlitHdr where
  vc : Nat
  seq : Nat
  ack : Nat
  creditVc : Nat
  creditN : Nat
  crc : BitVec 32
  deriving DecidableEq, Repr

/-- What stage 3 finds of one vertical lane group that is not whole (R15, R16): the interface it belongs to, and how many of its 64 data lanes
and of its 4 spare lanes do not train. -/
structure LaneTraining where
  shoal : Bool
  inst : Nat
  group : Nat
  dead : Nat
  deadSpares : Nat
  deriving DecidableEq, Repr

/-- What an Announce message carries for master selection (R63): its sender's port identity, the grandmaster's data set, and the announce interval as
a power of two seconds. -/
structure Announce where
  sender : Nat
  priority1 : Nat
  clockClass : Nat
  accuracy : Nat
  variance : Nat
  priority2 : Nat
  grandmaster : Nat
  stepsRemoved : Nat
  logInterval : Int
  deriving DecidableEq, Repr

/-- What the check codes find in one read (R219, R240): how many errors they correct, the addresses of sectors or bursts they cannot correct, and
whether the channel read is found failing in service. -/
structure ReadErrs where
  corrected : Nat
  bad : List Nat
  channelFails : Bool
  deriving DecidableEq, Repr

/-- A firmware bank of the configuration flash (R411). -/
inductive Bank where
  | A | B
  deriving DecidableEq, Repr

/-- The instructions a TAP can be given (R455). -/
inductive JtagOp where
  | bypass | idcode | sample | other
  deriving DecidableEq, Repr

/-- One row of a manifest's image table (R412). -/
structure ImageEntry where
  offset : Nat
  len : Nat
  version : BitVec 32
  sha : List Byte
  deriving DecidableEq, Repr

/-- A signed configuration manifest (R412). `hwMask` has bit h set when the bank serves HW_REVISION h; a licence limit
of R3 is the largest setting the manifest allows; `raw` is the manifest with its signature field zero. -/
structure Manifest where
  hwMask : Nat
  images : List ImageEntry
  coreLimit : Nat
  portLimit : Nat
  fp64Allowed : Bool
  hormiAllowed : Bool
  pairedAllowed : Bool
  scaleHeadroom : Nat
  lrScaleMax : Nat
  calibration : List Byte
  config : List (Nat × W64)
  configSig : List Byte
  operatorKey : List Byte
  mac : BitVec 48
  ipv4 : BitVec 32
  ipv4Len : Nat
  ipv6 : BitVec 128
  pairKey : W64
  side : Bool
  mirrorBase : Nat
  raw : List Byte
  sig : List Byte
  deriving DecidableEq, Repr

/-- One firmware bank: its manifest, the SHA-256 its stored images have, and its tested-bundle list (R411, R427). -/
structure BankImage where
  manifest : Manifest
  imageSha : List (List Byte)
  listVersion : Nat
  listEntries : List (W64 × Nat)
  listRaw : List Byte
  listSig : List Byte
  deriving DecidableEq, Repr

/-- The signed flash copy of the oxbow map (R424): the 128 site words, the 128 cluster entries, the signature. -/
structure OxbowCopy where
  header : List Byte
  sites : List W64
  clusters : List (W64 × W64)
  sig : List Byte
  deriving DecidableEq, Repr

/-- What headwater reads of the configuration flash (R411, R414), and the stack's HW_REVISION strap (R58). -/
structure FlashImage where
  hwRevision : Nat
  golden : Bank
  trial : Option Bank
  tries : Nat
  bankA : BankImage
  bankB : BankImage
  licenceArea : List (List Byte)
  oxbow : Option OxbowCopy
  deriving DecidableEq, Repr

/-- The commands, one per row of the table of operations and events. -/
inductive Instr where
  /-- RDMA_WRITE, R304. -/
  | rdmaWrite (pkey qpn rkey psn va : Nat) (data : List Byte)
  /-- RDMA_READ, R304. -/
  | rdmaRead (pkey qpn rkey psn va len : Nat)
  /-- SEND, R303. -/
  | send (pkey qpn psn : Nat) (data : List Byte)
  /-- UNSUPPORTED_REQUEST, R302. -/
  | unsupportedRequest (pkey qpn psn : Nat)
  /-- NAK_RECEIVED, R314. -/
  | nakReceived (qpn psn : Nat)
  /-- ACK_TIMEOUT, R315. -/
  | ackTimeout (qpn : Nat)
  /-- CE_PACKET, R312. -/
  | cePacket (qpn : Nat)
  /-- CNP_RECEIVED, R313. -/
  | cnpReceived (qpn : Nat)
  /-- RATE_TIMER, R313. -/
  | rateTimer (qpn : Nat)
  /-- ARP_REQUEST, R301. -/
  | arpRequest (target sender : BitVec 32) (mac : BitVec 48)
  /-- NEIGHBOR_SOLICITATION, R301. -/
  | neighborSolicitation (target sender : BitVec 128) (mac : BitVec 48)
  /-- PAUSE_FRAME, R298. -/
  | pauseFrame (pfc : Bool)
  /-- CM_REQ, R302. -/
  | cmReq (pkey commId : Nat) (peer : Bool) (mtu rqpn rkey : Nat) (raddr : BitVec 128)
  /-- CM_RTU, R302. -/
  | cmRtu (commId : Nat)
  /-- CM_DREQ, R302. -/
  | cmDreq (commId : Nat)
  /-- LINK_DOWN, R300. -/
  | linkDown
  /-- LINK_RETRAIN_TIMER, R300. -/
  | linkRetrainTimer
  /-- PORT_ATTEMPT_TIMEOUT, R299. -/
  | portAttemptTimeout (failedLanes : List Nat)
  /-- FRAME_DECODE, R53. -/
  | frameDecode (queue : Nat)
  /-- COMMAND_REACH, R37. -/
  | commandReach (queue : Nat)
  /-- COMMAND_COMPLETE, R46. -/
  | commandComplete (queue seq : Nat)
  /-- NOP, R38. -/
  | nop (queue seq : Nat)
  /-- FENCE, R38. -/
  | fence (queue seq : Nat)
  /-- WEIR_ARM, R50. -/
  | weirArm (queue seq : Nat)
  /-- WEIR_ARRIVE, R50. -/
  | weirArrive (queue seq : Nat)
  /-- CAPS, R58. -/
  | caps (queue seq : Nat)
  /-- TELEMETRY, R311. -/
  | telemetry (queue seq : Nat)
  /-- GEMM, R81. -/
  | gemm (queue seq : Nat)
  /-- GEMM_FP32X3, R103. -/
  | gemmFp32x3 (queue seq : Nat)
  /-- GEMM_FP64S, R107. -/
  | gemmFp64s (queue seq : Nat)
  /-- GEMM_HORMI, R160. -/
  | gemmHormi (queue seq : Nat)
  /-- GEMM_REF, R163. -/
  | gemmRef (queue seq : Nat)
  /-- ATTN_BLOCK, R198. -/
  | attnBlock (queue seq : Nat)
  /-- VPROG, R168. -/
  | vprog (queue seq : Nat)
  /-- DMA_CHAIN, R255. -/
  | dmaChain (queue seq : Nat)
  /-- COPY, R264. -/
  | copy (queue seq : Nat)
  /-- ROUTE, R205. -/
  | route (queue seq : Nat)
  /-- DISPATCH, R209. -/
  | dispatch (queue seq : Nat)
  /-- COMBINE, R210. -/
  | combine (queue seq : Nat)
  /-- ALLREDUCE, R324. -/
  | allreduce (queue seq : Nat)
  /-- REDUCE_SCATTER, R326. -/
  | reduceScatter (queue seq : Nat)
  /-- ALLGATHER, R326. -/
  | allgather (queue seq : Nat)
  /-- BROADCAST, R326. -/
  | broadcast (queue seq : Nat)
  /-- UPDATE, R276. -/
  | update (queue seq : Nat)
  /-- COMMIT_STEP, R281. -/
  | commitStep (queue seq : Nat)
  /-- SET_STATE, R284. -/
  | setState (queue seq : Nat)
  /-- RESTORE_EST, R284. -/
  | restoreEst (queue seq : Nat)
  /-- DERIVE, R288. -/
  | derive (queue seq : Nat) (misses : List Nat)
  /-- EXPORT, R290. -/
  | exportShard (queue seq : Nat)
  /-- SNAPSHOT, R292. -/
  | snapshot (queue seq : Nat)
  /-- WEIR_ARRIVE_WRITE, R52. -/
  | weirArriveWrite (core : Nat) (value : BitVec 64)
  /-- WEIR_ARM_WRITE, R50. -/
  | weirArmWrite (core : Nat) (value : BitVec 64)
  /-- REGISTER_WRITE, R12. -/
  | registerWrite (addr : Nat) (value : BitVec 64)
  /-- UNMAPPED_ACCESS, R26. -/
  | unmappedAccess (addr : Nat) (write : Bool)
  /-- TIDE_MARK, R77. -/
  | tideMark
  /-- PTP_SYNC, R74. -/
  | ptpSync (domain src : Nat) (logInterval : Int) (seqId : Nat) (twoStep : Bool) (origin rx : Nat)
  /-- PTP_FOLLOW_UP, R63. -/
  | ptpFollowUp (domain src seqId origin : Nat)
  /-- PTP_ANNOUNCE, R63. -/
  | ptpAnnounce (domain : Nat) (data : Announce)
  /-- PTP_DELAY_RESP, R63. -/
  | ptpDelayResp (domain src seqId masterRx : Nat)
  /-- SYNC_LOSS_TIMEOUT, R70. -/
  | syncLossTimeout
  /-- ANNOUNCE_RECEIPT_TIMEOUT, R70. -/
  | announceReceiptTimeout
  /-- TIDE_PPS_PULSE, R65. -/
  | tidePpsPulse (offset : Int)
  /-- PPS_ABSENT_TIMEOUT, R65. -/
  | ppsAbsentTimeout
  /-- HOLDOVER_TIMEOUT, R69. -/
  | holdoverTimeout
  /-- TIDE_LOCK_TIMEOUT, R73. -/
  | tideLockTimeout
  /-- ROW_LAND, R93. -/
  | rowLand (core slot : Nat) (mismatch : Bool)
  /-- GROUP_OPEN, R124. -/
  | groupOpen (core slot queue seq tile : Nat)
  /-- DRAIN_START, R125. -/
  | drainStart (core : Nat)
  /-- VNOP, R177. -/
  | vnop (core : Nat) (w : BitVec 64) (re : Nat)
  /-- VADD, R175. -/
  | vadd (core : Nat) (w : BitVec 64) (re : Nat)
  /-- VSUB, R175. -/
  | vsub (core : Nat) (w : BitVec 64) (re : Nat)
  /-- VMUL, R175. -/
  | vmul (core : Nat) (w : BitVec 64) (re : Nat)
  /-- VFMA, R175. -/
  | vfma (core : Nat) (w : BitVec 64) (re : Nat)
  /-- VFNMA, R175. -/
  | vfnma (core : Nat) (w : BitVec 64) (re : Nat)
  /-- VMIN, R176. -/
  | vmin (core : Nat) (w : BitVec 64) (re : Nat)
  /-- VMAX, R176. -/
  | vmax (core : Nat) (w : BitVec 64) (re : Nat)
  /-- VABS, R176. -/
  | vabs (core : Nat) (w : BitVec 64) (re : Nat)
  /-- VNEG, R176. -/
  | vneg (core : Nat) (w : BitVec 64) (re : Nat)
  /-- VDIV, R175. -/
  | vdiv (core : Nat) (w : BitVec 64) (re : Nat)
  /-- VSQRT, R175. -/
  | vsqrt (core : Nat) (w : BitVec 64) (re : Nat)
  /-- VRCP, R175. -/
  | vrcp (core : Nat) (w : BitVec 64) (re : Nat)
  /-- VRSQRT, R175. -/
  | vrsqrt (core : Nat) (w : BitVec 64) (re : Nat)
  /-- VEXP2, R175. -/
  | vexp2 (core : Nat) (w : BitVec 64) (re : Nat)
  /-- VLOG2, R175. -/
  | vlog2 (core : Nat) (w : BitVec 64) (re : Nat)
  /-- VCVT, R177. -/
  | vcvt (core : Nat) (w : BitVec 64) (re : Nat)
  /-- VCMP, R177. -/
  | vcmp (core : Nat) (w : BitVec 64) (re : Nat)
  /-- VSEL, R177. -/
  | vsel (core : Nat) (w : BitVec 64) (re : Nat)
  /-- VAND, R177. -/
  | vand (core : Nat) (w : BitVec 64) (re : Nat)
  /-- VOR, R177. -/
  | vor (core : Nat) (w : BitVec 64) (re : Nat)
  /-- VXOR, R177. -/
  | vxor (core : Nat) (w : BitVec 64) (re : Nat)
  /-- VSHL, R177. -/
  | vshl (core : Nat) (w : BitVec 64) (re : Nat)
  /-- VSHR, R177. -/
  | vshr (core : Nat) (w : BitVec 64) (re : Nat)
  /-- VSRA, R177. -/
  | vsra (core : Nat) (w : BitVec 64) (re : Nat)
  /-- VIADD, R177. -/
  | viadd (core : Nat) (w : BitVec 64) (re : Nat)
  /-- VISUB, R177. -/
  | visub (core : Nat) (w : BitVec 64) (re : Nat)
  /-- VIMUL, R177. -/
  | vimul (core : Nat) (w : BitVec 64) (re : Nat)
  /-- VMOV, R177. -/
  | vmov (core : Nat) (w : BitVec 64) (re : Nat)
  /-- VBCAST, R177. -/
  | vbcast (core : Nat) (w : BitVec 64) (re : Nat)
  /-- VIDX, R177. -/
  | vidx (core : Nat) (w : BitVec 64) (re : Nat)
  /-- VPERM, R177. -/
  | vperm (core : Nat) (w : BitVec 64) (re : Nat)
  /-- VSLIDE, R177. -/
  | vslide (core : Nat) (w : BitVec 64) (re : Nat)
  /-- VHSUM, R190. -/
  | vhsum (core : Nat) (w : BitVec 64) (re : Nat)
  /-- VHMAX, R190. -/
  | vhmax (core : Nat) (w : BitVec 64) (re : Nat)
  /-- MLOGIC, R177. -/
  | mlogic (core : Nat) (w : BitVec 64) (re : Nat)
  /-- MFIRST, R177. -/
  | mfirst (core : Nat) (w : BitVec 64) (re : Nat)
  /-- VLD, R178. -/
  | vld (core : Nat) (w : BitVec 64)
  /-- VLOAD_RETURN, R181. -/
  | vloadReturn (core vd : Nat)
  /-- VST, R180. -/
  | vst (core : Nat) (w : BitVec 64)
  /-- VGATHER, R178. -/
  | vgather (core : Nat) (w : BitVec 64)
  /-- VSCATTER, R180. -/
  | vscatter (core : Nat) (w : BitVec 64)
  /-- SLPOP, R186. -/
  | slpop (core : Nat) (w : BitVec 64)
  /-- SLINFO, R186. -/
  | slinfo (core : Nat) (w : BitVec 64)
  /-- RACC, R188. -/
  | racc (core : Nat) (w : BitVec 64)
  /-- RGET, R189. -/
  | rget (core : Nat) (w : BitVec 64)
  /-- RCLR, R188. -/
  | rclr (core : Nat) (w : BitVec 64)
  /-- RNORM, R189. -/
  | rnorm (core : Nat) (w : BitVec 64)
  /-- SLI, R177. -/
  | sli (core : Nat) (w : BitVec 64)
  /-- SLIH, R177. -/
  | slih (core : Nat) (w : BitVec 64)
  /-- SADD, R177. -/
  | sadd (core : Nat) (w : BitVec 64)
  /-- SADDI, R177. -/
  | saddi (core : Nat) (w : BitVec 64)
  /-- SSUB, R177. -/
  | ssub (core : Nat) (w : BitVec 64)
  /-- SMUL, R177. -/
  | smul (core : Nat) (w : BitVec 64)
  /-- SSHLI, R177. -/
  | sshli (core : Nat) (w : BitVec 64)
  /-- SSHRI, R177. -/
  | sshri (core : Nat) (w : BitVec 64)
  /-- SAND, R177. -/
  | sand (core : Nat) (w : BitVec 64)
  /-- SLT, R177. -/
  | slt (core : Nat) (w : BitVec 64)
  /-- SEQ, R177. -/
  | seqEq (core : Nat) (w : BitVec 64)
  /-- SMOVV, R177. -/
  | smovv (core : Nat) (w : BitVec 64)
  /-- BNZ, R177. -/
  | bnz (core : Nat) (w : BitVec 64)
  /-- BZ, R177. -/
  | bz (core : Nat) (w : BitVec 64)
  /-- VEND, R171. -/
  | vend (core : Nat) (w : BitVec 64)
  /-- SFLAGS, R177. -/
  | sflags (core : Nat) (w : BitVec 64)
  /-- VEC_ILLEGAL, R177. -/
  | vecIllegal (core : Nat) (w : BitVec 64)
  /-- INSN_LIMIT_HIT, R171. -/
  | insnLimitHit (core : Nat)
  /-- LLC_READ, R225. -/
  | llcRead (src : Requester) (addr len : Nat) (pin : Bool) (errs : ReadErrs)
  /-- LLC_WRITE, R224. -/
  | llcWrite (src : Requester) (addr : Nat) (data : List Byte) (pin : Bool)
  /-- LLC_FILL, R225. -/
  | llcFill (line : Nat)
  /-- SLAB_ACCESS, R218. -/
  | slabAccess (owner requester off len : Nat) (data : Option (List Byte))
  /-- PIN, R231. -/
  | rangePin (line count : Nat)
  /-- UNPIN, R231. -/
  | rangeUnpin (line count : Nat)
  /-- DEAD, R233. -/
  | rangeDead (line count : Nat)
  /-- CLEAN, R231. -/
  | rangeClean (line count : Nat)
  /-- RANGE_OP_DONE, R232. -/
  | rangeOpDone
  /-- SCRUB_PASS, R219. -/
  | scrubPass (level inst corrected : Nat) (bad : List Nat)
  /-- ERROR_RING_WRITE, R394. -/
  | errorRingWrite
  /-- LOG_FLASH_WRITE, R442. -/
  | logFlashWrite
  /-- DMA_CH_START, R244. -/
  | dmaChStart (core ch : Nat) (addr : BitVec 64)
  /-- DMA_RUN_START, R250. -/
  | dmaRunStart (core : Nat)
  /-- DMA_COPY, R248. -/
  | dmaCopy (core : Nat)
  /-- DMA_FILL, R247. -/
  | dmaFill (core : Nat)
  /-- DMA_PIN, R247. -/
  | dmaPin (core : Nat)
  /-- DMA_UNPIN, R247. -/
  | dmaUnpin (core : Nat)
  /-- DMA_DEAD, R247. -/
  | dmaDead (core : Nat)
  /-- DMA_CLEAN, R247. -/
  | dmaClean (core : Nat)
  /-- DMA_NOP, R247. -/
  | dmaNop (core : Nat)
  /-- DMA_DESC_COMPLETE, R252. -/
  | dmaDescComplete (core : Nat)
  /-- COUNTDOWN_EXPIRE, R249. -/
  | countdownExpire (core ch : Nat)
  /-- ARRIVE, R322. -/
  | collArrive (group collSeq : Nat) (info : RankInfo)
  /-- START, R322. -/
  | collStart (group collSeq : Nat) (members : List Nat) (vote elems : Nat) (table : List RankInfo)
  /-- DATA, R327. -/
  | collData (group collSeq chunk : Nat) (gather : Bool) (off : Nat) (data : List Byte)
  /-- RESULT, R329. -/
  | collResult (group collSeq off : Nat) (data : List Byte)
  /-- FP, R335. -/
  | fpMsg (src : Nat) (rows : List (Nat × BitVec 64))
  /-- BISECT, R337. -/
  | bisect (src row first len : Nat) (fps : List (BitVec 64))
  /-- STRAGGLER_DEADLINE, R322. -/
  | stragglerDeadline (group collSeq : Nat)
  /-- PEER_LOST_DEADLINE, R331. -/
  | peerLostDeadline (group collSeq : Nat)
  /-- HELLO, R339. -/
  | fordHello (hdr : FlitHdr) (pairKey : BitVec 64) (side : Bool)
  /-- WRITE, R343. -/
  | fordWrite (hdr : FlitHdr) (addr : Nat) (data : List Byte)
  /-- WAKE, R343. -/
  | fordWake (hdr : FlitHdr) (entry : List Byte)
  /-- FLAGS, R343. -/
  | fordFlags (hdr : FlitHdr) (row : Nat) (flags : BitVec 8)
  /-- VOTE, R343. -/
  | fordVote (hdr : FlitHdr) (result : Nat)
  /-- ACK, R341. -/
  | fordAck (hdr : FlitHdr)
  /-- COLL, R340. -/
  | fordColl (hdr : FlitHdr) (data : List Byte)
  /-- GOODBYE, R342. -/
  | fordGoodbye (hdr : FlitHdr)
  /-- IDLE, R342. -/
  | fordIdle (hdr : FlitHdr)
  /-- FORD_REPLAY_TIMEOUT, R341. -/
  | fordReplayTimeout
  /-- FORD_IDLE_TIMER, R342. -/
  | fordIdleTimer
  /-- FORD_SILENCE_TIMEOUT, R342. -/
  | fordSilenceTimeout
  /-- FORD_RETRAIN_TIMER, R342. -/
  | fordRetrainTimer (trained : Bool)
  /-- METER_SAMPLE, R349. -/
  | meterSample (energy coreMilliamps : Nat)
  /-- DVFS_STEP_IN_FORCE, R356. -/
  | dvfsStepInForce
  /-- DROOP_DETECT, R358. -/
  | droopDetect
  /-- DROOP_RELEASE, R358. -/
  | droopRelease
  /-- TEMP_SAMPLE, R439. -/
  | tempSample (junction memory : List Int)
  /-- RAIL_SAMPLE, R440. -/
  | railSample (readings : List (Nat × Nat))
  /-- THERMAL_TRIP, R360. -/
  | thermalTrip (point : Nat)
  /-- SLACK_ENTRY_DONE, R364. -/
  | slackEntryDone
  /-- SLACK_WAKE_END, R365. -/
  | slackWakeEnd (resends : Nat) (late : List (Nat × Nat))
  /-- FLOW_OK_DEASSERT, R366. -/
  | flowOkDeassert
  /-- COOLANT_HOLD_TIMEOUT, R366. -/
  | coolantHoldTimeout
  /-- COOLANT_RESUME, R367. -/
  | coolantResume (resends : Nat) (late : List (Nat × Nat))
  /-- LEDGER_RECORD_WRITE, R379. -/
  | ledgerRecordWrite
  /-- TXN_WATCHDOG_EXPIRE, R398. -/
  | txnWatchdogExpire (unit inst addr : Nat)
  /-- LIVENESS_TIMEOUT, R398. -/
  | livenessTimeout (unit inst : Nat)
  /-- VLANE_FAIL, R399. -/
  | vlaneFail (shoal : Bool) (inst group lane : Nat)
  /-- OXBOW_RESET_DEADLINE, R401. -/
  | oxbowResetDeadline (partition : Nat)
  /-- WAKE_LOG_REPLAY, R405. -/
  | wakeLogReplay (queue seq : Nat)
  /-- CORE_RESET, R430. -/
  | coreReset (core : Nat)
  /-- CLUSTER_RESET, R430. -/
  | clusterReset (cluster : Nat)
  /-- PARTITION_RESET, R433. -/
  | partitionReset (partition : Nat)
  /-- SUBSYSTEM_RESET, R435. -/
  | subsystemReset (unit inst : Nat)
  /-- WARM_RESET, R434. -/
  | warmReset
  /-- COLD_RESET, R434. -/
  | coldReset
  /-- RESET_COMPLETE, R436. -/
  | resetComplete (level inst : Nat)
  /-- HEADWATER, R428. -/
  | headwater (flash : FlashImage)
  /-- RAILS_AND_CLOCKS, R408. -/
  | railsAndClocks (failedRails inputMv : Nat)
  /-- BASE_DIE, R223. -/
  | baseDie (disabled : List (Nat × Nat)) (repairs : Nat) (failUnit : Option Nat)
  /-- VERTICAL_LINKS, R16. -/
  | verticalLinks (groups : List LaneTraining)
  /-- COMPUTE_AND_SHOAL, R18. -/
  | computeAndShoal (failedCores : List Nat)
  /-- MEMORY, R239. -/
  | memoryStage (nearFailed deepFailed : List Nat)
  /-- FRESHET, R422. -/
  | freshet (resends : Nat) (late : List (Nat × Nat))
  /-- ETHERNET_AND_TIDE, R299. -/
  | ethernetAndTide (deadLanes fordDead : List Nat)
  /-- LICENCES, R416. -/
  | licences
  /-- FRESHET_BEGIN, R422. -/
  | freshetBegin (core chunks : Nat) (hash : List Byte)
  /-- FRESHET_CHUNK, R422. -/
  | freshetChunk (core index : Nat) (crc : BitVec 32) (data : List Byte)
  /-- GAUGE_WDOG_EXPIRE, R438. -/
  | gaugeWdogExpire
  /-- I3C_DAA, R444. -/
  | i3cDaa (addr : Nat)
  /-- SET_ENDPOINT_ID, R444. -/
  | setEndpointId (eid : BitVec 8)
  /-- GET_ENDPOINT_ID, R444. -/
  | getEndpointId
  /-- GET_ENDPOINT_UUID, R444. -/
  | getEndpointUuid
  /-- GET_MCTP_VERSION_SUPPORT, R444. -/
  | getMctpVersionSupport (msgType : Nat)
  /-- GET_MESSAGE_TYPE_SUPPORT, R444. -/
  | getMessageTypeSupport
  /-- GET_TID, R444. -/
  | getTid
  /-- GET_PLDM_VERSION, R444. -/
  | getPldmVersion (pldmType : Nat)
  /-- GET_PLDM_TYPES, R444. -/
  | getPldmTypes
  /-- GET_PLDM_COMMANDS, R444. -/
  | getPldmCommands (pldmType : Nat)
  /-- GET_SENSOR_READING, R444. -/
  | getSensorReading (sensor : Nat)
  /-- GET_PDR, R444. -/
  | getPdr (handle : Nat)
  /-- GET_PDR_REPOSITORY_INFO, R444. -/
  | getPdrRepositoryInfo
  /-- POLL_FOR_PLATFORM_EVENT_MESSAGE, R444. -/
  | pollForPlatformEventMessage
  /-- GET_FRU_RECORD_TABLE_METADATA, R444. -/
  | getFruRecordTableMetadata
  /-- GET_FRU_RECORD_TABLE, R444. -/
  | getFruRecordTable
  /-- REQUEST_UPDATE, R448. -/
  | requestUpdate
  /-- PASS_COMPONENT_TABLE, R444. -/
  | passComponentTable (components : List Nat)
  /-- UPDATE_COMPONENT, R444. -/
  | updateComponent (component : Nat)
  /-- REQUEST_FIRMWARE_DATA, R447. -/
  | requestFirmwareData (off : Nat) (data : List Byte)
  /-- TRANSFER_COMPLETE, R444. -/
  | transferComplete (result : Nat)
  /-- VERIFY_COMPLETE, R444. -/
  | verifyComplete (result : Nat)
  /-- APPLY_COMPLETE, R444. -/
  | applyComplete (result : Nat)
  /-- ACTIVATE_FIRMWARE, R429. -/
  | activateFirmware
  /-- GET_STATUS, R448. -/
  | getStatus
  /-- CANCEL_UPDATE, R444. -/
  | cancelUpdate
  /-- CANCEL_UPDATE_COMPONENT, R444. -/
  | cancelUpdateComponent
  /-- GET_ATTESTATION, R451. -/
  | getAttestation (nonce : List Byte)
  /-- GET_CHALLENGE, R453. -/
  | getChallenge
  /-- DEBUG_UNLOCK, R454. -/
  | debugUnlock (token : List Byte)
  /-- RESET, R446. -/
  | sbReset (level inst : Nat)
  /-- SLACK, R364. -/
  | sbSlack (wake : Bool)
  /-- READ_LOG, R445. -/
  | readLog (logSeq : Nat)
  /-- READ_STAGE, R420. -/
  | readStage (stage : Nat)
  /-- UPDATE_FROM_STAGING, R447. -/
  | updateFromStaging (len : Nat) (sha : List Byte)
  /-- UPDATE_PROGRAM_DONE, R448. -/
  | updateProgramDone (image : BankImage) (packageOk : Bool)
  /-- CHALLENGE_EXPIRE, R453. -/
  | challengeExpire
  /-- JTAG_INSTRUCTION, R455. -/
  | jtagInstruction (op : JtagOp)
  /-- PWR_SENSE_MAKE, R466. -/
  | pwrSenseMake
  /-- PWR_SENSE_BREAK, R465. -/
  | pwrSenseBreak
  /-- ENABLE_ASSERT, R456. -/
  | enableAssert
  /-- ENABLE_DEASSERT, R468. -/
  | enableDeassert
  /-- INPUT_UNDERVOLTAGE, R465. -/
  | inputUndervoltage
  /-- INPUT_OVERVOLTAGE, R465. -/
  | inputOvervoltage
  /-- INPUT_OVERCURRENT, R465. -/
  | inputOvercurrent
  /-- INPUT_RECOVERED, R465. -/
  | inputRecovered
  /-- P3V3_AUX_LOSS, R470. -/
  | p3v3AuxLoss
  /-- FORD_LINK_DOWN, R347. -/
  | fordLinkDown
  /-- LINK_UP, R300. -/
  | linkUp
  /-- FLOW_OK_ASSERT, R467. -/
  | flowOkAssert
  /-- RDMA_ACK_RECEIVED, R315. -/
  | rdmaAckReceived (qpn psn : Nat)
  /-- RDMA_READ_RESPONSE, R337. -/
  | rdmaReadResponse (qpn psn : Nat) (data : List Byte)
  /-- GAUGE_RESTART_DONE, R438. -/
  | gaugeRestartDone
  deriving DecidableEq, Repr

end Sys2Proof
end

