-- ==== Sys2Proof/Decode.lean ====
section
/-! DEFINITION. Words of the opcode table. The table gives no row of this block any bits: its rows are commands with operands of their own,
so no word spells a command. -/

namespace Sys2Proof

/-- The command a word spells by the table's bits: none, for no row has bits. (DESIGN CHOICE: notes/assumptions/4) -/
def decodeTableWord (nbits w : Nat) : Option Instr :=
  let _ := nbits
  let _ := w
  none

end Sys2Proof
end

