-- ==== Sys2Proof/Config.lean ====
section
/-! DEFINITION. What one machine fixes or the manual leaves open: the free values (opaque: no proof sees a value of
them) and the secrets of one device. -/

namespace Sys2Proof.Config

/-- A free natural number: a cycle count or a choice the manual leaves open. The machine applies it to a counter it advances. (DESIGN CHOICE: notes/assumptions/7) -/
opaque freeNat : Nat → Nat

/-- A free 64-bit word: a key, an R_Key or a byte string of the random source. (DESIGN CHOICE: notes/assumptions/7) -/
opaque freeWord : Nat → W64

/-- The 256-bit device root of R449, reconstructed at each cold boot; the same at every boot of one device. (DEDUCED: notes/assumptions/8) -/
opaque deviceRoot : Nat → Nat

/-- Signature check under a trust key of R450 (0 manifest, 1 licence, 2 debug) or the enrolled operator key (3, with the
key's bytes): the key values are not in the manual. Arguments: key number, key bytes, message, signature. (DEDUCED: notes/assumptions/8) -/
opaque keyVerify : Nat → List Byte → List Byte → List Byte → Bool

/-- The filter of the tide servo over the measured offsets, newest first (R70, TIDE_OFFSET); the manual does not give it. (DESIGN CHOICE: notes/assumptions/45) -/
opaque tideFilter : List Int → Int

/-- The frequency correction in ppb that the tide servo takes from its measured offsets, newest first (R74); the manual does not give it. (DESIGN CHOICE: notes/assumptions/45) -/
opaque tideDiscipline : List Int → Int

/-- HELPER data and certificate bytes of the gauge's identity area (R441). (DESIGN CHOICE: notes/assumptions/61) -/
opaque identityArea : Nat → Byte

/-- The fixed PCS latency in ns subtracted from a hardware timestamp, by trained port width in lanes (R64). (DESIGN CHOICE: notes/assumptions/45) -/
opaque portLatency : Nat → Nat

end Sys2Proof.Config
end

