-- ==== Sys2Proof/Machine/State.lean ====
section
/-! DEFINITION. The state of the module as plain data: every register, memory, queue and pin the manual names, the queue
of waiting commands, and the state after reset. Numbered things (weirs, cores, rows, slots) are tables: a list of
(number, value) pairs, numbers rising, no entry equal to the value an unlisted number has. -/

namespace Sys2Proof.Machine

open Sys2Proof

/-- No command of this block is a fault of the model: the manual gives every command an effect (R26, R59). (DESIGN CHOICE: notes/assumptions/64) -/
inductive Fault where
  /-- Raised by nobody. Safe. -/
  | none
  deriving DecidableEq, Repr

/-- Reasons a command has no meaning. (DESIGN CHOICE: notes/assumptions/64) -/
inductive Refusal where
  /-- Raised only by an arm of exec whose command is not modelled yet. Safe. -/
  | notModelled (mnemonic : String)
  deriving DecidableEq, Repr

/-- A table in canonical form: numbers strictly rising, no default value listed. -/
abbrev Tbl (α : Type) := List (Nat × α)

/-- A dyadic value m × 2^(-k), kept with m odd or k = 0: the exact rate and weight of R313. -/
structure Dyad where
  m : Nat
  k : Nat
  deriving DecidableEq, Repr

/-- One weir (R49). -/
structure Weir where
  target : Nat
  arrived : Nat
  gen : Nat
  deriving DecidableEq, Repr

/-- What has reached one weir in the bed-die cycle under way (R52): one more than its local time, the weir before it, the arms by their place in R52's
order with their targets, and the arrivals. -/
structure WeirOps where
  at' : Nat
  was : Weir
  arms : List (Nat × Nat)
  arrivals : Nat
  deriving DecidableEq, Repr

/-- A tensor descriptor after its clamps (R42, R60), with the version's handle. `isNull` covers the null tensor and every
clamp to null; `winEnd` is the end of BASE's window; the silt tensor of SILT_HANDLE is kept as handle and base. -/
structure TDesc where
  handle : Nat
  isNull : Bool
  base : Nat
  winEnd : Nat
  fmt : Nat
  rank : Nat
  zbMap : Bool
  sparse : Bool
  grad : Bool
  stream : Bool
  pin : Bool
  layer : Nat
  dims : List Nat
  strides : List Nat
  silt : Nat
  siltBase : Nat
  siltStrides : List Nat
  scaleBase : Nat
  metaBase : Nat
  deriving DecidableEq, Repr

/-- A group descriptor (R317) after the clamps of R333; one entry per rank: local QPN and whether it is the ford partner. -/
structure GroupDesc where
  gid : Nat
  myRank : Nat
  policy : Nat
  lateLimitUs : Nat
  lostLimitMs : Nat
  entries : List (Nat × Bool)
  deriving DecidableEq, Repr

/-- A decoded command: the frame's fields after their clamps (R35, R36, R60) and the versions of everything it names. `predicted` is
a ROUTE's prediction, each expert with the address ranges prefetched for it (R212); `watch` the address and length of every descriptor, program,
feeder frame and group descriptor read at decode (R45, R169, R170, R317). -/
structure Cmd where
  queue : Nat
  seq : Nat
  opcode : Nat
  waitEn : Bool
  signalEn : Bool
  resultEn : Bool
  ordered : Bool
  tideStart : Bool
  slot : Nat
  waitWeir : Nat
  waitGen : Nat
  signalWeir : Nat
  coreFirst : Nat
  coreCount : Nat
  tideMark : Nat
  tag : W64
  params : List Byte
  tensors : List TDesc
  extras : List TDesc
  prog : List W64
  feeder : Option (Nat × List TDesc × List Byte)
  group : Option GroupDesc
  frame : List Byte
  selfOverlap : Bool
  predicted : Option (List (Nat × List (Nat × Nat)))
  watch : List (Nat × Nat)
  deriving DecidableEq, Repr

/-- What a command will give the norm table when it completes (R270): a sum-of-squares contribution (row, field 0 TAP 1 PASS
2 WSQ, exact sum in units of 2^-2148 or none when non-finite, elements), a NONFINITE flag, a scale observation
(row, G entry?, binade), UPDATED, or HELD with a reason. -/
inductive RowEffect where
  | sumSq (row field : Nat) (sum : Option Nat) (count : Nat)
  | nonfinite (row : Nat)
  | observe (row : Nat) (gEntry : Bool) (binade : Int)
  | updated (row : Nat)
  | held (row reason : Nat)
  | lrK (row k : Nat)
  | fingerprint (row handle : Nat) (x : W64) (pending : TDesc)
  | clearW (row : Nat)
  deriving DecidableEq, Repr

/-- A scale-estimate entry (R148). -/
structure EstEntry where
  est : Int
  set : Bool
  deriving DecidableEq, Repr

/-- What an UPDATE read of its row when it was reached (R275). -/
structure GuardRow where
  nonfinite : Bool
  held : Bool
  tapSq : Nat
  tapN : Nat
  deriving DecidableEq, Repr

/-- A wake-log entry (R402): a reached command, the inputs' versions read at reach, and what its execution has produced so
far. `phase` is STATE; `reachNs` the local time from which its occupancy is unbooked; `ran` says the work is done and completion
may follow; `ended` that a reset ended it; `reachedAt` the local time of its last reach; `tiles` the v3 values of the tiles its cores have drained (R128); `planes` the INT32 totals of the slice pairs
that have drained to the vector engine, each with its basin tile and whether it is poisoned (R121); `stored` the stretches its vector
stores have written into tensors whose elements overlap: handle, row, first element, length (R44); `guard` what an UPDATE read of its row at reach;
`voted` the vote result of a collective, and its members (R330). -/
structure WakeEntry where
  wakeSeq : Nat
  cmd : Cmd
  phase : Nat
  replays : Nat
  noReplay : Bool
  reachMark : Nat
  reachNs : Nat
  reachedAt : Nat
  step : W64
  seed : W64
  collSeq : Nat
  epochs : List (Nat × Bool)
  ests : List (Nat × EstEntry × EstEntry)
  started : Bool
  ran : Bool
  ended : Bool
  late : Bool
  code : Nat
  result : List Byte
  effects : List RowEffect
  tiles : List (Nat × List (List W64))
  planes : List (Nat × Bool × List (List W32))
  stored : List (Nat × Nat × Nat × Nat)
  guard : GuardRow
  voted : Option (Bool × List Nat)
  deriving DecidableEq, Repr

/-- One command queue (R33, R56): expected number, clamp tally, ring entries that arrived (entry, SEQ), decoded frames,
the tide count at the last ring-status rewrite, and one more than the SEQ of the last reached command. -/
structure QueueSt where
  expected : Nat
  tally : Nat
  arrived : List (Nat × Nat)
  decoded : List Cmd
  statusMark : Nat
  statusExpected : Nat
  reached : Nat
  deriving DecidableEq, Repr

/-- One sequencer (SEQ_ registers, R53 to R56, R402); `turn` is the queue of the partition whose turn comes first in the round robin of R37. -/
structure SeqSt where
  depth : Nat
  expertPf : Bool
  raUsed : Nat
  raDiscarded : Nat
  descLate : Nat
  nextWake : Nat
  wake : List WakeEntry
  turn : Nat
  deriving DecidableEq, Repr

/-- A result slot (R308); `phase` 0 EMPTY, 1 PENDING, 2 READY. -/
structure Slot where
  tag : W64
  phase : Nat
  code : Nat
  queue : Nat
  cmdTag : W64
  mark : Nat
  data : List Byte
  deriving DecidableEq, Repr

/-- A foreign master in the configured domain (R63): its port, its last Announce, and when its last two came, newest first. -/
structure Foreign where
  sender : Nat
  data : Announce
  heard : List Nat
  deriving DecidableEq, Repr

/-- The tide unit (TIDE_ registers, R62 to R75), with its servo: measured offsets newest first, the Sync awaiting its
Follow_Up, the last Sync's receive time less its origin, the Delay_Req sent and its time, the measured path delay, the foreign masters and the one
selected, the frequency correction, and the correction under way; `stepped` says that stage 7's step to the source has been made (R73), `rest` that steps
3 to 6 of R77 wait for a COMMIT. -/
structure TideSt where
  source : Nat
  periodUs : Nat
  domain : Nat
  st : Nat
  ptpOk : Bool
  ppsOk : Bool
  slewing : Bool
  paused : Bool
  count : Nat
  phaseNs : Nat
  offsetNs : Int
  steps : Nat
  ppsReject : Nat
  unsyncMarks : Nat
  offsets : List Int
  good : Nat
  bad : Nat
  ppsSeen : Bool
  everLocked : Bool
  syncSeq : Option (Nat × Nat)
  delayReq : Option (Nat × Nat)
  pathDelay : Int
  masters : List Foreign
  master : Option Nat
  stepped : Bool
  freqPpb : Int
  stepTo : Option Nat
  slewNs : Int
  syncDelta : Int
  intervalStep : Bool
  intervalUnsync : Bool
  heartbeatDue : Bool
  rest : Bool
  deriving DecidableEq, Repr

/-- MX_ registers of one core. -/
structure MxSt where
  busy : Bool
  fmtA : Nat
  fmtB : Nat
  sparsity : Nat
  slices : Nat
  zbSkipEn : Bool
  checkEn : Bool
  passes : Nat
  passesSkipped : Nat
  rowsIssued : Nat
  rowsSkipped : Nat
  stallOperand : Nat
  stallPlane : Nat
  checkMismatch : Nat
  activeCycles : Nat
  deriving DecidableEq, Repr

/-- One column group's partial (R114): the shared exponent and eight signed magnitudes; absent when empty. -/
structure Part where
  x : Int
  q : List Int
  deriving DecidableEq, Repr

/-- One basin row: 32 totals (binary32 or INT32 bits), four partials, and for each column the IEEE sum of the interval's
non-finite products (0 none, 1 +∞, 2 −∞, 3 NaN; R118). -/
structure RowAcc where
  t : List W32
  parts : List (Option Part)
  nf : List Nat
  deriving DecidableEq, Repr

/-- An open accumulation group (R124): its bank, the command and tile, the next pass and row to land, the bank's rows, how
often the tile was replayed and whether a checksum mismatch is pending (R396). -/
structure OpenGroup where
  bank : Nat
  queue : Nat
  seq : Nat
  tile : Nat
  pass : Nat
  row : Nat
  rows : List RowAcc
  replays : Nat
  mismatch : Bool
  deriving DecidableEq, Repr

/-- A backwater bank waiting for the drain (R125). `started` says its tile has begun to drain; `pushed` is how many of its rows
the sluice has taken (R184). -/
structure DrainItem where
  bank : Nat
  queue : Nat
  seq : Nat
  tile : Nat
  rows : List RowAcc
  poisoned : Bool
  started : Bool
  pushed : Nat
  deriving DecidableEq, Repr

/-- BSN_ registers and the basin of one core. -/
structure BsnSt where
  banks : List Nat
  groups : List (Option OpenGroup)
  drain : List DrainItem
  rerun : Nat
  promotions : Nat
  earlyPromotions : Nat
  alignInexact : Nat
  stallBank : Nat
  stallSluice : Nat
  drainRows : Nat
  recomputes : Nat
  saturatedTiles : Nat
  intSaturated : Nat
  deriving DecidableEq, Repr

/-- A reduction accumulator (R188). -/
structure RedAcc where
  s : W64
  q : W64
  mx : W64
  n : W64
  mean : W64
  m2 : W64
  poison : Bool
  deriving DecidableEq, Repr

/-- The vector engine of one core (R167, VEC_ registers). `prog` is the resident program with the base and length it was
loaded under; `loads` holds load data not yet returned: register, value, poisoned lanes; `share` is the command core whose
share runs, `sharesLeft` the further shares this core runs for withdrawn ones (R401). -/
structure VecSt where
  running : Bool
  feedActive : Bool
  pc : Nat
  residueEn : Bool
  flags : BitVec 7
  v : Tbl (BitVec 2048)
  vPoison : Tbl (BitVec 64)
  s : Tbl W64
  m : Tbl W64
  r : Tbl RedAcc
  prog : List W64
  progBase : Nat
  queue : Nat
  seq : Nat
  retired : Nat
  loads : List (Nat × BitVec 2048 × BitVec 64)
  poisonOut : Bool
  issueV : Nat
  issueS : Nat
  paired : Nat
  lastV : Bool
  stallDep : Nat
  stallMem : Nat
  stallSluice : Nat
  illegal : Nat
  reissue : Nat
  limitHit : Nat
  progLoads : Nat
  mxRetries : Nat
  share : Nat
  sharesLeft : List Nat
  deriving DecidableEq, Repr

/-- An occupied sluice slot (R185): its number, header fields, rows and their poison. `filledNs` is the local time at which its last row
entered: FILLING at that time, READY after it until the first pop, then POPPING. -/
structure SluiceSlot where
  slot : Nat
  tile : Nat
  index : Nat
  cols : Nat
  pops : Nat
  rows : List (List W32)
  marks : List (List Bool)
  filledNs : Nat
  deriving DecidableEq, Repr

/-- Are the slot's rows still entering (R185). (DEDUCED: notes/assumptions/84) -/
def SluiceSlot.filling (x : SluiceSlot) (now : Nat) : Bool := decide (now ≤ x.filledNs)

/-- SLC_ registers and the sluice of one core, oldest slot first. `tilesLeft` is how many feeder tiles are undelivered. -/
structure SlcSt where
  slots : List SluiceSlot
  tilesLeft : Nat
  rowsIn : Nat
  rowsPopped : Nat
  rowsDiscarded : Nat
  refusedCycles : Nat
  popEmpty : Nat
  deriving DecidableEq, Repr

/-- A DMA descriptor after its clamps (R245, R256), with the number of its clamped fields. -/
structure DmaDesc where
  addr : Nat
  src : W64
  dst : W64
  rowBytes : Nat
  rows : Nat
  srcStride : Nat
  dstStride : Nat
  op : Nat
  barrier : Bool
  signalEn : Bool
  trigger : Nat
  codecDir : Nat
  codecFmt : Nat
  codecStream : Nat
  signalWeir : Nat
  trigValue : W64
  next : Nat
  moves : Bool
  clamps : Nat
  deriving DecidableEq, Repr

/-- A chain head: where it came from, a DMA_CHAIN command (queue, seq) or a runtime write; the request its events belong to
(queue, REQ_ID; R375), and since when its occupancy is unbooked (R376). -/
structure ChainHead where
  addr : Nat
  owner : Option (Nat × Nat)
  detached : Bool
  req : Option (Nat × Nat)
  since : Nat
  deriving DecidableEq, Repr

/-- One DMA channel (R244, R249): the active chain and its next or running descriptor, when its trigger fired, the FIFO and
the DONE count. -/
structure DmaCh where
  active : Option ChainHead
  desc : Option DmaDesc
  fired : Option Nat
  fifo : List ChainHead
  doneCount : Nat
  bad : Bool
  deriving DecidableEq, Repr

/-- DMA_ registers of one core. `run` is the channel of the run in progress; `moved` the outcome of the running
descriptor's operation once executed: bytes written, BAD cause, and the LLC_RANGE_DONE it waits for (R247). `fires` numbers the events at which
triggers fire: those of one number fired together (R250); `share` is the place of a waiting share of a COPY in that order, and its command (R476). -/
structure DmaSt where
  ch : Tbl DmaCh
  run : Option Nat
  moved : Option (Nat × Nat × Nat)
  fires : Nat
  share : Option (Nat × Nat × Nat)
  descDone : Nat
  descBad : Nat
  bytes : Nat
  clamps : Nat
  trigLate : Nat
  deriving DecidableEq, Repr

/-- One logical core. `scratchPoison` lists the poisoned 32-byte sectors of its scratch (R219, R254); `holder` is the command that holds it (R37). -/
structure CoreSt where
  mx : MxSt
  bsn : BsnSt
  vec : VecSt
  slc : SlcSt
  dma : DmaSt
  scratch : List Host.Cell
  scratchPoison : List Nat
  holder : Option (Nat × Nat)
  deriving DecidableEq, Repr

/-- One line of the last-level cache (R224); `prov` names the queue whose run-ahead fetched it; `alloc` says that a read miss allocated the line and
no byte of it is valid yet (R225). -/
structure LLine where
  tag : Nat
  data : BitVec 1024
  valid : BitVec 128
  dirty : BitVec 128
  poison : BitVec 4
  pinned : Bool
  prov : Option Nat
  dead : Bool
  alloc : Bool
  deriving DecidableEq, Repr

/-- LLC_ counters of one slice and the open interval of R235. -/
structure SliceSt where
  waysOff : Nat
  accesses : Nat
  misses : Nat
  dupMisses : Nat
  unpinnedAccesses : Nat
  unpinnedMisses : Nat
  pinDemoted : Nat
  deadDropped : Nat
  readAfterDead : Nat
  writebacks : Nat
  uncached : Nat
  ce : Nat
  ue : Nat
  rate : Nat
  intervalAccesses : Nat
  intervalMisses : Nat
  deriving DecidableEq, Repr

/-- A queued range operation (R231). -/
structure RangeOp where
  op : Nat
  line : Nat
  count : Nat
  deriving DecidableEq, Repr

/-- An outstanding miss (R225): its line and requester, whether its data go to the requester alone (a DEAD operation overtook it, or no way was
free), and the errors its memory read meets. -/
structure Miss where
  line : Nat
  src : Requester
  discard : Bool
  errs : ReadErrs
  deriving DecidableEq, Repr

/-- The last-level cache. -/
structure LlcSt where
  lines : Tbl LLine
  plru : Tbl Nat
  slices : Tbl SliceSt
  misses : List Miss
  rangeQueue : List RangeOp
  rangeStalled : List RangeOp
  rangeDone : Nat
  pinQuota : Nat
  strictDead : Bool
  thrashPct : Nat
  thrashMarks : Nat
  thrash : Bool
  thrashRun : Nat
  wideRate : Nat
  deriving DecidableEq, Repr

/-- One NT_ or DT_ instance. -/
structure MemCtl where
  trained : Nat
  scrubHours : Nat
  reads : Nat
  writes : Nat
  rmw : Nat
  ce : Nat
  ue : Nat
  scrubPasses : Nat
  poisonWrites : Nat
  deriving DecidableEq, Repr

/-- COD_ registers. -/
structure CodSt where
  busyEngines : Nat
  inBytes : Nat
  outBytes : Nat
  expIn : Nat
  expOut : Nat
  rawBlocks : Nat
  zeroBlocks : Nat
  streamBad : Nat
  cutSegments : Nat
  deriving DecidableEq, Repr

/-- An entry of the expert history (R211). -/
structure HistEntry where
  layer : Nat
  counts : List Nat
  deriving DecidableEq, Repr

/-- The provisional lines of one predicted expert (R212, R213): the ROUTE that asked for them, the expert, its two weight handles, where its lines
lie, and whether that ROUTE has completed. -/
structure PfOwned where
  queue : Nat
  seq : Nat
  expert : Nat
  handles : List Nat
  ranges : List (Nat × Nat)
  done : Bool
  deriving DecidableEq, Repr

/-- What the ROUTE in the router leaves when it completes (R211, R215): its history entry, the fields of DLT_LAST_ROUTE, its counts, the accepted
counts of its experts. A ROUTE with nothing to route leaves no entry. -/
structure RouteEnd where
  queue : Nat
  seq : Nat
  hist : Option HistEntry
  experts : Nat
  topk : Nat
  imbalance : Nat
  choices : Nat
  dropped : Nat
  moved : Nat
  spilled : Nat
  nonfinite : Nat
  accepted : List Nat
  deriving DecidableEq, Repr

/-- DLT_ registers, the expert history, the expert lines prefetched and not yet claimed, and the ROUTE that has run and not completed. -/
structure DltSt where
  pfEn : Bool
  pfBudgetMib : Nat
  history : Tbl (Option HistEntry)
  busyQueue : Option Nat
  pfActive : Bool
  lastExperts : Nat
  lastTopk : Nat
  lastLayer : Nat
  lastImbalance : Nat
  routes : Nat
  choices : Nat
  dropped : Nat
  moved : Nat
  spilled : Nat
  pfPredicted : Nat
  pfHits : Nat
  pfWrong : Nat
  pfUnpredicted : Nat
  pfLines : Nat
  pfLinesDiscarded : Nat
  pfBudgetCut : Nat
  badEntries : Nat
  nonfinite : Nat
  owned : List PfOwned
  ending : Option RouteEnd
  deriving DecidableEq, Repr

/-- One row of the norm table (R269), its sums exact in units of 2^-2148 (R270), and its fingerprints (R334): `fps` lists the masters
an UPDATE wrote in this step, by MASTER0 handle, with tensor fingerprint and pending copy. -/
structure NormRow where
  tapSq : Nat
  tapN : Nat
  passSq : Nat
  passN : Nat
  wsq : Nat
  wn : Nat
  estG : EstEntry
  estN : EstEntry
  estGC : EstEntry
  estNC : EstEntry
  peakG : Option Int
  peakN : Option Int
  nonfinite : Bool
  updated : Bool
  held : Bool
  epoch : Bool
  lrK : Nat
  holdReason : Nat
  stepFlipped : W64
  fps : List (Nat × W64 × TDesc)
  fpCommitted : W64
  deriving DecidableEq, Repr

/-- One update engine (UPD_ counters, R274): the running command and its row. -/
structure UpdSt where
  running : Option (Nat × Nat)
  layer : Nat
  prepass : Bool
  commands : Nat
  elements : Nat
  held : Nat
  late : Nat
  deriveChecked : Nat
  deriveMismatch : Nat
  exportBytes : Nat
  deriving DecidableEq, Repr

/-- The COMMIT that holds the token (R278, R279): its command, the marks that fix F, and whether it has acted. -/
structure CommitHold where
  queue : Nat
  seq : Nat
  reachMark : Nat
  tideMark : Nat
  acted : Bool
  deriving DecidableEq, Repr

/-- The training state that is device-wide (R141, R269, R278): UPD_ instance 0. `vote` is the result of the last vote
collective since the last commit mark. -/
structure TrainSt where
  rows : Tbl NormRow
  step : W64
  seed : W64
  checkEn : Bool
  token : Option CommitHold
  vote : Option Bool
  lastOutcome : Nat
  lastMark : Nat
  commits : Nat
  voteFailed : Nat
  noVote : Nat
  engines : Tbl UpdSt
  headroom : Nat
  kmax : Nat
  deriving DecidableEq, Repr

/-- A request the device itself has sent on a QP and not seen acknowledged whole (R315): the oldest PSN of it not acknowledged, how many packets are left from
there on, and how often that PSN has been sent again without progress. -/
structure TxReq where
  psn : Nat
  pkts : Nat
  isRead : Bool
  retries : Nat
  data : List Byte
  row : Nat
  addr : Nat
  deriving DecidableEq, Repr

/-- A queue pair (R302, R313 to R315). `phase` 0 free, 1 REQ accepted, 2 established, 3 error. -/
structure Qp where
  phase : Nat
  peer : Bool
  commId : Nat
  rkey : Nat
  mtu : Nat
  epsn : Nat
  nakSent : Bool
  remoteQpn : Nat
  remoteRkey : Nat
  remoteAddr : BitVec 128
  rate : Dyad
  target : Dyad
  alpha : Dyad
  stage : Nat
  cnpSeen : Bool
  nextPsn : Nat
  sent : List TxReq
  reads : Nat
  lastCnp : Option Nat
  deriving DecidableEq, Repr

/-- How a RoCEv2 packet is marked (R301): the ECN field, DSCP, and the VLAN ID and priority of its 802.1Q tag if it has one. -/
structure NetHdr where
  ecn : Nat
  dscp : Nat
  vlan : Option (Nat × Nat)
  deriving DecidableEq, Repr

/-- What the module sends: on the port, the ford link or the sideband. (DESIGN CHOICE: notes/assumptions/66) -/
inductive OutMsg where
  | ack (qpn psn : Nat)
  | nakSequence (qpn psn : Nat)
  | nakInvalid (qpn psn : Nat)
  | nakAccess (qpn psn : Nat)
  | readData (qpn psn : Nat) (data : List Byte)
  | retransmit (qpn psn : Nat)
  | readRequest (qpn psn addr len : Nat)
  | cnp (qpn : Nat)
  | arpReply (ip : BitVec 32) (mac : BitVec 48)
  | neighborAdvert (ip : BitVec 128) (mac : BitVec 48)
  | cmRep (commId qpn rkey mtu : Nat)
  | cmRej (commId : Nat)
  | cmDrep (commId : Nat)
  | cmDreq (qpn : Nat)
  | delayReq (seqId : Nat)
  | collMsg (toRank kind gid collSeq : Nat) (payload : List Byte)
  | flit (bytes : List Byte)
  | sideband (code : Nat) (payload : List Byte)
  | sidebandError (code : Nat)
  | freshetAck (core bitmap : Nat)
  | roce (net : NetHdr) (m : OutMsg)
  deriving DecidableEq, Repr

/-- EST_ configuration (R11, R298 to R315). -/
structure EstCfg where
  mtuMax : Nat
  vlanEn : Bool
  vlanId : Nat
  pcp : Nat
  dscp : Nat
  ipv4En : Bool
  ipv6En : Bool
  ackTimeout : Nat
  retryCnt : Nat
  cnpIntervalUs : Nat
  mac : BitVec 48
  ipv4 : BitVec 32
  ipv4Len : Nat
  ipv6 : BitVec 128
  deriving DecidableEq, Repr

/-- EST_ counters. -/
structure EstCtr where
  rxPkts : Nat
  txPkts : Nat
  rxBytes : Nat
  txBytes : Nat
  fecCorrected : Nat
  fecUncorrected : Nat
  linkDowns : Nat
  pauseRx : Nat
  oobAccess : Nat
  writeDropped : Nat
  sendDropped : Nat
  ringStale : Nat
  slotSuperseded : Nat
  cnpRx : Nat
  cnpTx : Nat
  retransmits : Nat
  qpErrors : Nat
  collDone : Nat
  collLate : Nat
  collCarried : Nat
  collDropped : Nat
  collPeerLost : Nat
  collStray : Nat
  fpRowsCompared : Nat
  fpMismatch : Nat
  fpRepairedBlocks : Nat
  fpUnresolved : Nat
  deriving DecidableEq, Repr

/-- The estuary: port, QPs and counters. `attempts` are the training attempts of R299 still to try: lane groups. -/
structure EstSt where
  linkUp : Bool
  lanesTrained : Nat
  lanesInUse : List Nat
  attempts : List (List Nat)
  badLanes : List Nat
  attemptCount : Nat
  cfg : EstCfg
  ctr : EstCtr
  qps : Tbl Qp
  retrainDue : Bool
  deriving DecidableEq, Repr

/-- An open collective on this rank (R321 to R332): its command and WINDOW_MARK, whether its window has opened here, the ARRIVEs
seen, the member set once fixed, the vote, E of R324 and the rank table of START; the seed and step number of its reach; whether its contribution
was read poisoned; under HALVING_DOUBLING the values held; the exchanges made and the elements received in the current one; how many output elements
are `written`, and how many come in `total` where only the sender knows (R326, R329); `finished` when only excluded ranks are still to be served (R329). -/
structure CollSt where
  gid : Nat
  collSeq : Nat
  queue : Nat
  seq : Nat
  opcode : Nat
  window : Nat
  isOpen : Bool
  infos : List RankInfo
  members : Option (List Nat)
  vote : Nat
  elems : Nat
  table : List RankInfo
  excluded : Bool
  cmd : Cmd
  seed : W64
  step : W64
  ownPz : Bool
  part : List W32
  hop : Nat
  got : Nat
  written : Nat
  bytesSent : Nat
  total : Option Nat
  finished : Bool
  deriving DecidableEq, Repr

/-- A repair of a diverged row (R337, R338): row, source rank, block range under comparison, block reads outstanding, blocks
repaired, and whether the repair is complete. -/
structure Repair where
  row : Nat
  source : Nat
  ranges : List (Nat × Nat)
  reads : List (Nat × Nat)
  blocks : Nat
  complete : Bool
  deriving DecidableEq, Repr

/-- A row whose fingerprints are being compared (R335): F + 200 ms, whether the next COMMIT mark has come, and once the predecessor's differs: its rank and
fingerprint, and with two members what this rank's mirror holds and what the other reports of its own (R336). -/
structure CmpRow where
  row : Nat
  until200 : Nat
  marked : Bool
  ask : Option (Nat × W64)
  mirror : Option W64
  peer : Option W64
  deriving DecidableEq, Repr

/-- The last vote collective (R335): its group, members, COLL_SEQ and WINDOW_MARK. -/
structure VoteRef where
  group : GroupDesc
  members : List Nat
  collSeq : Nat
  window : Nat
  deriving DecidableEq, Repr

/-- Collectives and replica fingerprints. `buffered` holds messages of collectives not reached or not begun (GROUP_ID, COLL_SEQ);
`flipped` the rows whose fingerprints are being compared. `masters` lists the copies that became committed at the last flip of their row: row, MASTER0
handle, copy. -/
structure GroupSt where
  seqs : Tbl Nat
  openColls : List CollSt
  buffered : List (Nat × Nat × Instr)
  lastVote : Option VoteRef
  flipped : List CmpRow
  masters : List (Nat × Nat × TDesc)
  repairs : List Repair
  deriving DecidableEq, Repr

/-- A flit (R340): SEQ once it is sent, TYPE, channel, the credits it returns, payload. -/
structure Flit where
  seq : Nat
  type : Nat
  vc : Nat
  creditVc : Nat
  creditN : Nat
  payload : List Byte
  deriving DecidableEq, Repr

/-- FRD_ registers and the ford link (R339 to R348). `helloWait` says that the lanes have trained and the link waits for a matching HELLO, `partnerReady`
that the partner's bring-up has ended; `kept` are the flits kept for replay, `txWait` those that wait for a credit or for room among the kept, `credits`
those of channels 0 to 2. Of the partner: the wake-log entries it has mirrored, its row flags and vote result, the UPDATEs of its step that have completed
(row, MASTER0, MASTER1), and the copies its flips have made committed (row, MASTER0 handle, copy as it lies in the mirror). -/
structure FrdSt where
  linkUp : Bool
  helloWait : Bool
  partnerPresent : Bool
  partnerReady : Bool
  partnerLost : Bool
  lanesTrained : Nat
  lanesInUse : Nat
  side : Bool
  mirrorBase : Nat
  pairKey : W64
  mirrorStep : Nat
  mirrorMark : Nat
  mirrorEpoch : Tbl Bool
  txFlits : Nat
  rxFlits : Nat
  crcErrors : Nat
  replays : Nat
  mirrorBytes : Nat
  wakeEntries : Nat
  helloReject : Nat
  linkDowns : Nat
  failovers : Nat
  nextSeq : Nat
  expSeq : Nat
  kept : List Flit
  credits : List Nat
  mirrorWake : List (List Byte)
  mirrorFlags : Tbl (BitVec 8)
  mirrorVote : Option Nat
  mirrorReached : Tbl Nat
  mirrorUpdates : List (Nat × Nat × Nat)
  mirrorMasters : List (Nat × Nat × TDesc)
  txWait : List Flit
  deriving DecidableEq, Repr

/-- SPW_ registers and the power controller (R349 to R367). The `lv` fields are the spillway levels of the sources of R354;
`bucket` is in units of 2^-16 nJ; `samples` the last 1 ms of meter samples, newest first; `slack` 0 awake, 1 entering,
2 asleep, 3 waking; `stop` 0 none, 1 coolant stop, 2 trip;
`throttleMarks` the throttled time at each mark where it had changed; `slackWake` a wake
triggered while slack is being entered; `flowAt` when FLOW_OK last rose. -/
structure SpwSt where
  capW : Nat
  cutOrder : List Nat
  boostEn : Bool
  freqBase : Nat
  boostMax : Nat
  droopMv : Nat
  slackIdleMarks : Nat
  freq : Nat
  target : Nat
  inFlight : Option (Nat × Nat)
  coreMv : Nat
  lvSlow : Nat
  lvPeak : Nat
  lvCurrent : Nat
  lvBucket : Nat
  lvDroop : Nat
  lvThermal : Nat
  lvCoolant : Nat
  memSlow : Nat
  memHot : Nat
  linkLevel : Nat
  thermalHold : Bool
  powerHold : Bool
  bucket : Nat
  bucketFull : Bool
  samples : List Nat
  currents : List Nat
  slack : Nat
  slackReq : Bool
  idleMarks : Nat
  slackFreq : Nat
  stop : Nat
  dead : Bool
  flowAt : Nat
  stepsUp : Nat
  stepsDown : Nat
  droops : Nat
  droopCancels : Nat
  peakEvents : Nat
  bucketFulls : Nat
  spillNs : Nat
  slackEntries : Nat
  slackDropped : Nat
  coolantStops : Nat
  trips : Nat
  throttleNs : Tbl Nat
  throttleMarks : Tbl Nat
  sampleNo : Nat
  slackWake : Bool
  deriving DecidableEq, Repr

/-- An open request of the ledger (R373 to R381): totals, the open interval's occupancy and activity, and its lifetime marks. -/
structure Req where
  queue : Nat
  reqId : Nat
  firstMark : Nat
  idle : Nat
  eAttr : Nat
  eDyn : Nat
  modelRaw : Nat
  occ : Nat
  commands : Nat
  intervals : Nat
  replays : Nat
  activity : List Nat
  curOcc : Nat
  curAct : List Nat
  flags : BitVec 8
  finished : Bool
  deriving DecidableEq, Repr

/-- JUI_ registers and the ledger. `acc` is the interval's meter sum in units of 2^-16 nJ. -/
structure JuiSt where
  running : Bool
  closeMarks : Nat
  ringBase : Nat
  weights : List Nat
  seq : Nat
  bootCount : Nat
  totalIn : Nat
  totalClosed : Nat
  totalIdle : Nat
  totalSlack : Nat
  unsyncMarks : Nat
  scaledIntervals : Nat
  recordsInSpan : Nat
  spanIn : Nat
  spanFirst : Nat
  spanFlags : BitVec 8
  acc : Nat
  places : Tbl (Option Req)
  overflow : Req
  queued : List (List Byte)
  prevHash : List Byte
  chainStart : List Byte
  records : Nat
  heartbeats : Nat
  overflowCmds : Nat
  deferredCloses : Nat
  ringLost : Nat
  timeouts : Nat
  deriving DecidableEq, Repr

/-- An error record before serialisation (R392). -/
structure ErrRec where
  cls : Nat
  action : Nat
  unit : Nat
  inst : Nat
  errSeq : Nat
  tideCount : Nat
  phaseNs : Nat
  tideState : Nat
  rflags : Nat
  queue : Nat
  cmdSeq : Nat
  addr : Nat
  detail : Nat
  count : Nat
  atNs : Nat
  deriving DecidableEq, Repr

/-- A firmware-update session (R447, R448). `stage` 0 opened, 1 component table passed, 2 transferring, 3 transferred,
4 verified, 5 applied. A failed session is over; the gauge keeps it for GetStatus. -/
structure Session where
  staging : Bool
  stage : Nat
  components : List Nat
  current : Nat
  len : Nat
  sha : List Byte
  received : Nat
  failed : Bool
  deriving DecidableEq, Repr

/-- GAU_ registers and the gauge: log entries in flash and waiting (LOG_SEQ, type, record), error records not yet in the
ring, saved ledger records, challenge, keys and sideband addresses. -/
structure GauSt where
  up : Bool
  debugOpen : Bool
  keysZero : Bool
  eid : Nat
  sbMode : Bool
  sbAddr : Nat
  dynAddr : Nat
  errRingBase : Nat
  attestBase : Nat
  stageBase : Nat
  temps : Tbl Int
  memTemps : Tbl Int
  tempsValid : Bool
  rails : Tbl (Nat × Nat)
  unmapped : Nat
  errRecords : Nat
  logEntries : Nat
  logLost : Nat
  wdogRestarts : Nat
  updates : Nat
  activateRefused : Nat
  debugUnlocks : Nat
  sbErrors : Nat
  errSeq : Nat
  lastErr : Option ErrRec
  ringQueue : List ErrRec
  bedQueue : List ErrRec
  logSeq : Nat
  logPending : List (Nat × Nat × List Byte)
  log : List (Nat × Nat × List Byte)
  savedRecord : List Byte
  anchors : List (List Byte)
  anchorNext : Nat
  challenge : Option (List Byte)
  session : Option Session
  badBank : Bool
  events : List Nat
  warmHeld : Bool
  scopes : Nat
  deriving DecidableEq, Repr

/-- Is an update session open (R448). -/
def GauSt.updating (g : GauSt) : Bool := (g.session.map (fun x => !x.failed)).getD false

/-- FSH_CORE of one physical core, and the runtime bytes it holds. -/
structure FshCore where
  ack : Nat
  rounds : Nat
  result : Nat
  chunks : Nat
  hash : List Byte
  data : List (Nat × List Byte)
  deriving DecidableEq, Repr

/-- FSH_ registers and bring-up (`running` while stages run, `waitLock` while stage 7 waits for the tide): `hashBase` the hash failures before stage 6, flash contents read, the bank running, licences in force, what each stage found. -/
structure BootSt where
  stage : Nat
  ready : Bool
  failed : Bool
  warm : Bool
  running : Bool
  waitLock : Bool
  round : Nat
  coresPending : Nat
  reportBase : Nat
  bundleId : W64
  listVersion : Nat
  images : List (W32 × W32)
  reports : Tbl (List Byte)
  cores : Tbl FshCore
  chunksSent : Nat
  resends : Nat
  crcErrors : Nat
  hashFails : Nat
  hashBase : Nat
  coresOxbowed : Nat
  sitesOxbowed : Nat
  cfgIgnored : Nat
  resets : List Nat
  flash : Option FlashImage
  manifest : Option Manifest
  bank : Bank
  trialBoot : Bool
  fallback : Nat
  licCores : Nat
  licPort : Nat
  licFp64 : Bool
  licHormi : Bool
  licPaired : Bool
  licValid : Nat
  licRejected : Nat
  shortSites : List Nat
  shortCores : List Nat
  failedCores : List Nat
  deriving DecidableEq, Repr

/-- OXB_SITE (R424). -/
structure SiteSt where
  pass : Nat
  linkOk : Bool
  st : Nat
  cluster : Nat
  deriving DecidableEq, Repr

/-- OXB_CLUSTER_A and _B (R424). -/
structure ClusterSt where
  pos : List Nat
  site : Nat
  valid : Bool
  withdrawn : Bool
  remapped : Bool
  deriving DecidableEq, Repr

/-- The lanes of one group of a vertical interface (R16, R399, R400): spares used and whether the group is retired. -/
structure LaneGroup where
  spares : Nat
  retired : Bool
  deriving DecidableEq, Repr

/-- The oxbow map and the vertical links. Lane groups: site × 4 + group, then 512 + physical core × 8 + group; `built` the map the last
self-test built, signed for the flash. -/
structure OxbSt where
  sites : Tbl SiteSt
  clusters : Tbl ClusterSt
  flashMap : Nat
  changed : Bool
  remaps : Nat
  withdrawn : Nat
  lanes : Tbl LaneGroup
  pendingReset : List (Nat × Nat × Bool)
  built : Option OxbowCopy
  deriving DecidableEq, Repr

/-- What bring-up fixed (R4 to R6, R58). -/
structure CapSt where
  hwRevision : Nat
  activeCores : Nat
  features : Nat
  portGbps : Nat
  portLanes : Nat
  fordLanes : Nat
  near : List Nat
  deep : List Nat
  record : List Byte
  deriving DecidableEq, Repr

/-- The connector's signals and the input switch (R458, R461, R465). -/
structure PinSt where
  pwrSense : Bool
  present : Bool
  enable : Bool
  flowOk : Bool
  p3v3 : Bool
  removeRdy : Bool
  switchOn : Bool
  latched : Bool
  removing : Bool
  deriving DecidableEq, Repr

/-- The resets in progress (R430): level (0 core, 1 cluster, 2 partition, 3 base-die subsystem) and instance, which for a subsystem is
256 × the unit code of R392 + its instance; the requests parked at resetting subsystems (R436); how many requests merged (R437). -/
structure ResetSt where
  active : List (Nat × Nat)
  parked : List (Nat × Requester)
  merged : Nat
  deriving DecidableEq, Repr

/-- The module. `mem` is the data of the near, deep and shoal windows as DRAM and slabs hold it, by device physical address;
`poison` the numbers of the poisoned 32-byte sectors of it; `nowNs` the local time; `freeCtr` counts free values used. -/
structure State where
  pending : List Instr
  freeCtr : Nat
  nowNs : Nat
  mem : List Host.Cell
  poison : List Nat
  memKeys : List W64
  slabTurn : Tbl Bool
  weirs : Tbl Weir
  weirOps : Tbl WeirOps
  seqs : Tbl SeqSt
  queues : Tbl QueueSt
  slots : Tbl Slot
  tide : TideSt
  cores : Tbl CoreSt
  llc : LlcSt
  nt : Tbl MemCtl
  dt : Tbl MemCtl
  cod : CodSt
  dlt : DltSt
  train : TrainSt
  est : EstSt
  coll : GroupSt
  frd : FrdSt
  spw : SpwSt
  jui : JuiSt
  gau : GauSt
  boot : BootSt
  oxb : OxbSt
  cap : CapSt
  pins : PinSt
  rst : ResetSt
  out : List OutMsg
  deriving DecidableEq, Repr

/-! ### Reset values: the Reset column of each register map; where the manual gives none, notes/assumptions/2. -/

/-- A weir after reset (R49). -/
def Weir.zero : Weir := { target := 0, arrived := 0, gen := 0 }

/-- No operation under way. -/
def WeirOps.zero : WeirOps := { at' := 0, was := .zero, arms := [], arrivals := 0 }

/-- An EMPTY slot (R310). -/
def Slot.empty : Slot := { tag := 0, phase := 0, code := 0, queue := 0, cmdTag := 0, mark := 0, data := [] }

/-- A queue after reset: the first expected number is 0 (R305). -/
def QueueSt.zero : QueueSt :=
  { expected := 0, tally := 0, arrived := [], decoded := [], statusMark := 0, statusExpected := 0, reached := 0 }

/-- A sequencer after reset (SEQ_RA_CFG). -/
def SeqSt.zero : SeqSt :=
  { depth := 64, expertPf := true, raUsed := 0, raDiscarded := 0, descLate := 0, nextWake := 0, wake := [], turn := 0 }

/-- The tide after reset (TIDE_ registers): FREE, period 100 µs. -/
def TideSt.zero : TideSt :=
  { source := 0, periodUs := 100, domain := 0, st := 0, ptpOk := false, ppsOk := false, slewing := false, paused := false,
    count := 0, phaseNs := 0, offsetNs := 0, steps := 0, ppsReject := 0, unsyncMarks := 0, offsets := [], good := 0, bad := 0,
    ppsSeen := false, everLocked := false, syncSeq := none, delayReq := none, pathDelay := 0, masters := [], master := none, stepped := false, freqPpb := 0,
    stepTo := none, slewNs := 0, syncDelta := 0, intervalStep := false, intervalUnsync := false,
    heartbeatDue := false, rest := false }

/-- MX_ registers after reset. -/
def MxSt.zero : MxSt :=
  { busy := false, fmtA := 0, fmtB := 0, sparsity := 0, slices := 0, zbSkipEn := true, checkEn := true, passes := 0,
    passesSkipped := 0, rowsIssued := 0, rowsSkipped := 0, stallOperand := 0, stallPlane := 0, checkMismatch := 0,
    activeCycles := 0 }

/-- BSN_ registers after reset: eight banks FREE. -/
def BsnSt.zero : BsnSt :=
  { banks := [0, 0, 0, 0, 0, 0, 0, 0], groups := [none, none, none, none], drain := [], rerun := 0, promotions := 0,
    earlyPromotions := 0, alignInexact := 0, stallBank := 0, stallSluice := 0, drainRows := 0, recomputes := 0,
    saturatedTiles := 0, intSaturated := 0 }

/-- A cleared accumulator (R188): MX is −∞. -/
def RedAcc.zero : RedAcc :=
  { s := 0, q := 0, mx := 0xFFF0000000000000, n := 0, mean := 0, m2 := 0, poison := false }

/-- VEC_ registers after reset. -/
def VecSt.zero : VecSt :=
  { running := false, feedActive := false, pc := 0, residueEn := true, flags := 0, v := [], vPoison := [], s := [], m := [],
    r := [], prog := [], progBase := 0, queue := 0, seq := 0, retired := 0, loads := [], poisonOut := false, issueV := 0,
    issueS := 0, paired := 0, lastV := false, stallDep := 0, stallMem := 0, stallSluice := 0, illegal := 0, reissue := 0,
    limitHit := 0, progLoads := 0, mxRetries := 0, share := 0, sharesLeft := [] }

/-- SLC_ registers after reset: eight slots FREE. -/
def SlcSt.zero : SlcSt :=
  { slots := [], tilesLeft := 0, rowsIn := 0, rowsPopped := 0, rowsDiscarded := 0, refusedCycles := 0, popEmpty := 0 }

/-- An idle DMA channel. -/
def DmaCh.zero : DmaCh :=
  { active := none, desc := none, fired := none, fifo := [], doneCount := 0, bad := false }

/-- DMA_ registers after reset. -/
def DmaSt.zero : DmaSt :=
  { ch := [], run := none, moved := none, fires := 0, share := none, descDone := 0, descBad := 0, bytes := 0, clamps := 0, trigLate := 0 }

/-- A core after reset. (DESIGN CHOICE: notes/assumptions/2) -/
def CoreSt.zero : CoreSt :=
  { mx := .zero, bsn := .zero, vec := .zero, slc := .zero, dma := .zero, scratch := [], scratchPoison := [], holder := none }

/-- An invalid line. -/
def LLine.zero : LLine :=
  { tag := 0, data := 0, valid := 0, dirty := 0, poison := 0, pinned := false, prov := none, dead := false, alloc := false }

/-- A slice after reset: no way disabled. -/
def SliceSt.zero : SliceSt :=
  { waysOff := 0, accesses := 0, misses := 0, dupMisses := 0, unpinnedAccesses := 0, unpinnedMisses := 0, pinDemoted := 0,
    deadDropped := 0, readAfterDead := 0, writebacks := 0, uncached := 0, ce := 0, ue := 0, rate := 0, intervalAccesses := 0,
    intervalMisses := 0 }

/-- The cache after reset. -/
def LlcSt.zero : LlcSt :=
  { lines := [], plru := [], slices := [], misses := [], rangeQueue := [], rangeStalled := [], rangeDone := 0, pinQuota := 8, strictDead := false,
    thrashPct := 50, thrashMarks := 100, thrash := false, thrashRun := 0, wideRate := 0 }

/-- A memory controller after reset. -/
def MemCtl.zero : MemCtl :=
  { trained := 0, scrubHours := 8, reads := 0, writes := 0, rmw := 0, ce := 0, ue := 0, scrubPasses := 0, poisonWrites := 0 }

/-- The codec after reset. -/
def CodSt.zero : CodSt :=
  { busyEngines := 0, inBytes := 0, outBytes := 0, expIn := 0, expOut := 0, rawBlocks := 0, zeroBlocks := 0, streamBad := 0,
    cutSegments := 0 }

/-- The delta router after reset. -/
def DltSt.zero : DltSt :=
  { pfEn := true, pfBudgetMib := 96, history := [], busyQueue := none, pfActive := false, lastExperts := 0, lastTopk := 0,
    lastLayer := 0, lastImbalance := 0, routes := 0, choices := 0, dropped := 0, moved := 0, spilled := 0, pfPredicted := 0,
    pfHits := 0, pfWrong := 0, pfUnpredicted := 0, pfLines := 0, pfLinesDiscarded := 0, pfBudgetCut := 0, badEntries := 0,
    nonfinite := 0, owned := [], ending := none }

/-- An unset estimate. -/
def EstEntry.zero : EstEntry := { est := 0, set := false }

/-- A norm-table row after reset. -/
def NormRow.zero : NormRow :=
  { tapSq := 0, tapN := 0, passSq := 0, passN := 0, wsq := 0, wn := 0, estG := .zero, estN := .zero, estGC := .zero,
    estNC := .zero, peakG := none, peakN := none, nonfinite := false, updated := false, held := false, epoch := false,
    lrK := 0, holdReason := 0, stepFlipped := 0, fps := [], fpCommitted := 0 }

/-- An update engine after reset. -/
def UpdSt.zero : UpdSt :=
  { running := none, layer := 0, prepass := false, commands := 0, elements := 0, held := 0, late := 0, deriveChecked := 0,
    deriveMismatch := 0, exportBytes := 0 }

/-- The training state after reset. (DESIGN CHOICE: notes/assumptions/2) -/
def TrainSt.zero : TrainSt :=
  { rows := [], step := 0, seed := 0, checkEn := true, token := none, vote := none, lastOutcome := 0, lastMark := 0,
    commits := 0, voteFailed := 0, noVote := 0, engines := [], headroom := 1, kmax := 6 }

/-- A free queue pair. (DEDUCED: notes/assumptions/41) -/
def Qp.zero : Qp :=
  { phase := 0, peer := false, commId := 0, rkey := 0, mtu := 1024, epsn := 0, nakSent := false, remoteQpn := 0,
    remoteRkey := 0, remoteAddr := 0, rate := ⟨0, 0⟩, target := ⟨0, 0⟩, alpha := ⟨1, 0⟩, stage := 0, cnpSeen := false,
    nextPsn := 0, sent := [], reads := 0, lastCnp := none }

/-- EST_ configuration after reset. -/
def EstCfg.zero : EstCfg :=
  { mtuMax := 5, vlanEn := false, vlanId := 0, pcp := 3, dscp := 26, ipv4En := true, ipv6En := false, ackTimeout := 10,
    retryCnt := 7, cnpIntervalUs := 50, mac := 0, ipv4 := 0, ipv4Len := 0, ipv6 := 0 }

/-- EST_ counters after reset. -/
def EstCtr.zero : EstCtr :=
  { rxPkts := 0, txPkts := 0, rxBytes := 0, txBytes := 0, fecCorrected := 0, fecUncorrected := 0, linkDowns := 0,
    pauseRx := 0, oobAccess := 0, writeDropped := 0, sendDropped := 0, ringStale := 0, slotSuperseded := 0, cnpRx := 0,
    cnpTx := 0, retransmits := 0, qpErrors := 0, collDone := 0, collLate := 0, collCarried := 0, collDropped := 0,
    collPeerLost := 0, collStray := 0, fpRowsCompared := 0, fpMismatch := 0, fpRepairedBlocks := 0, fpUnresolved := 0 }

/-- The estuary after reset. -/
def EstSt.zero : EstSt :=
  { linkUp := false, lanesTrained := 0, lanesInUse := [], attempts := [], badLanes := [], attemptCount := 0, cfg := .zero,
    ctr := .zero, qps := [], retrainDue := false }

/-- Collective state after reset. -/
def GroupSt.zero : GroupSt :=
  { seqs := [], openColls := [], buffered := [], lastVote := none, flipped := [], masters := [], repairs := [] }

/-- The ford link after reset. -/
def FrdSt.zero : FrdSt :=
  { linkUp := false, helloWait := false, partnerPresent := false, partnerReady := false, partnerLost := false, lanesTrained := 0, lanesInUse := 0, side := false,
    mirrorBase := 0x01A000000000, pairKey := 0, mirrorStep := 0, mirrorMark := 0, mirrorEpoch := [], txFlits := 0,
    rxFlits := 0, crcErrors := 0, replays := 0, mirrorBytes := 0, wakeEntries := 0, helloReject := 0, linkDowns := 0,
    failovers := 0, nextSeq := 0, expSeq := 0, kept := [], credits := [64, 64, 64], mirrorWake := [], mirrorFlags := [],
    mirrorVote := none, mirrorReached := [], mirrorUpdates := [], mirrorMasters := [], txWait := [] }

/-- Power and throttle state after reset. -/
def SpwSt.zero : SpwSt :=
  { capW := 2400, cutOrder := [0, 1, 2], boostEn := true, freqBase := 1000, boostMax := 1100, droopMv := 40,
    slackIdleMarks := 10000, freq := 0, target := 0, inFlight := none, coreMv := 0, lvSlow := 16, lvPeak := 16,
    lvCurrent := 16, lvBucket := 16, lvDroop := 16, lvThermal := 16, lvCoolant := 16, memSlow := 16, memHot := 16,
    linkLevel := 16, thermalHold := false, powerHold := false, bucket := 0, bucketFull := false, samples := [],
    currents := [], slack := 0, slackReq := false, idleMarks := 0, slackFreq := 0, stop := 0, dead := false,
    flowAt := 0, stepsUp := 0, stepsDown := 0, droops := 0, droopCancels := 0, peakEvents := 0, bucketFulls := 0,
    spillNs := 0, slackEntries := 0, slackDropped := 0, coolantStops := 0, trips := 0, throttleNs := [], throttleMarks := [],
    sampleNo := 0, slackWake := false }

/-- A request with empty books. -/
def Req.zero : Req :=
  { queue := 0, reqId := 0, firstMark := 0, idle := 0, eAttr := 0, eDyn := 0, modelRaw := 0, occ := 0, commands := 0,
    intervals := 0, replays := 0, activity := [0, 0, 0, 0, 0, 0, 0, 0], curOcc := 0, curAct := [0, 0, 0, 0, 0, 0, 0, 0],
    flags := 0, finished := false }

/-- The ledger after reset. -/
def JuiSt.zero : JuiSt :=
  { running := false, closeMarks := 100000, ringBase := 0x010000000000,
    weights := [123, 100, 60, 150, 940, 2500, 400, 80], seq := 0, bootCount := 0, totalIn := 0, totalClosed := 0,
    totalIdle := 0, totalSlack := 0, unsyncMarks := 0, scaledIntervals := 0, recordsInSpan := 0, spanIn := 0, spanFirst := 0,
    spanFlags := 0, acc := 0, places := [], overflow := .zero, queued := [], prevHash := [], chainStart := [], records := 0,
    heartbeats := 0, overflowCmds := 0, deferredCloses := 0, ringLost := 0, timeouts := 0 }

/-- The gauge after reset. -/
def GauSt.zero : GauSt :=
  { up := false, debugOpen := false, keysZero := false, eid := 0, sbMode := false, sbAddr := 0x4C, dynAddr := 0,
    errRingBase := 0x010010000000, attestBase := 0x010010401000, stageBase := 0x010020000000, temps := [], memTemps := [],
    tempsValid := false, rails := [], unmapped := 0, errRecords := 0, logEntries := 0, logLost := 0, wdogRestarts := 0,
    updates := 0, activateRefused := 0, debugUnlocks := 0, sbErrors := 0, errSeq := 0, lastErr := none, ringQueue := [],
    bedQueue := [], logSeq := 0, logPending := [], log := [], savedRecord := [], anchors := [], anchorNext := 0,
    challenge := none, session := none, badBank := false, events := [], warmHeld := false, scopes := 0 }

/-- A physical core that freshet has not touched. -/
def FshCore.zero : FshCore := { ack := 0, rounds := 0, result := 0, chunks := 0, hash := [], data := [] }

/-- Bring-up state after reset. -/
def BootSt.zero : BootSt :=
  { stage := 0, ready := false, failed := false, warm := false, running := false, waitLock := false, round := 0, coresPending := 0,
    reportBase := 0x010010400000, bundleId := 0, listVersion := 0, images := [], reports := [], cores := [],
    chunksSent := 0, resends := 0, crcErrors := 0, hashFails := 0, hashBase := 0, coresOxbowed := 0, sitesOxbowed := 0, cfgIgnored := 0,
    resets := [0, 0, 0, 0, 0], flash := none, manifest := none, bank := .A, trialBoot := false, fallback := 0,
    licCores := 1024, licPort := 800, licFp64 := false, licHormi := false, licPaired := false, licValid := 0,
    licRejected := 0, shortSites := [], shortCores := [], failedCores := [] }

/-- A site word after reset: no cluster, 0xFF. -/
def SiteSt.zero : SiteSt := { pass := 0, linkOk := false, st := 0, cluster := 0xFF }

/-- A cluster entry after reset. -/
def ClusterSt.zero : ClusterSt := { pos := [], site := 0, valid := false, withdrawn := false, remapped := false }

/-- A lane group with no spare used. -/
def LaneGroup.zero : LaneGroup := { spares := 0, retired := false }

/-- The oxbow map after reset. -/
def OxbSt.zero : OxbSt :=
  { sites := [], clusters := [], flashMap := 0, changed := false, remaps := 0, withdrawn := 0, lanes := [],
    pendingReset := [], built := none }

/-- Capabilities before bring-up. -/
def CapSt.zero : CapSt :=
  { hwRevision := 0, activeCores := 0, features := 0, portGbps := 0, portLanes := 0, fordLanes := 0, near := [], deep := [],
    record := [] }

/-- Pins of a module not yet inserted: open inputs read low (R462). -/
def PinSt.zero : PinSt :=
  { pwrSense := false, present := false, enable := false, flowOk := false, p3v3 := false, removeRdy := false,
    switchOn := false, latched := false, removing := false }

/-- The module right after reset: every register at its Reset column, memory listing nothing (zero, R239), bring-up not
begun, no command waiting. (DESIGN CHOICE: notes/assumptions/2) -/
def State.reset : State :=
  { pending := [], freeCtr := 0, nowNs := 0, mem := [], poison := [], memKeys := [], slabTurn := [], weirs := [], weirOps := [], seqs := [],
    queues := [], slots := [], tide := .zero, cores := [], llc := .zero, nt := [], dt := [], cod := .zero, dlt := .zero,
    train := .zero, est := .zero, coll := .zero, frd := .zero, spw := .zero, jui := .zero, gau := .zero, boot := .zero,
    oxb := .zero, cap := .zero, pins := .zero, rst := { active := [], parked := [], merged := 0 }, out := [] }

end Sys2Proof.Machine
end

