-- ==== Sys2Proof/Machine/Tbl.lean ====
section
/-! DEFINITION. Tables and byte lists: reading and writing an entry in canonical form, little-endian words (R8). -/

namespace Sys2Proof.Machine

open Sys2Proof

/-- The value of number `k`; unlisted numbers have `d`. -/
def tget {α : Type} (d : α) : Tbl α → Nat → α
  | [], _ => d
  | (j, a) :: t, k => if k = j then a else tget d t k

/-- List `v` as number `k` in its place. -/
def tput {α : Type} : Tbl α → Nat → α → Tbl α
  | [], k, v => [(k, v)]
  | (j, a) :: t, k, v => if k = j then (k, v) :: t else if k < j then (k, v) :: (j, a) :: t else (j, a) :: tput t k v

/-- Set number `k`, keeping the table canonical: the default removes the entry. -/
def tset {α : Type} [DecidableEq α] (d : α) (t : Tbl α) (k : Nat) (v : α) : Tbl α :=
  if v = d then t.filter (fun p => p.1 ≠ k) else tput t k v

/-- Apply `f` to number `k`. -/
def tmod {α : Type} [DecidableEq α] (d : α) (t : Tbl α) (k : Nat) (f : α → α) : Tbl α :=
  tset d t k (f (tget d t k))

/-- The canonical form, as a test: numbers strictly rising above `lo`, no default listed. -/
def twfFrom {α : Type} [DecidableEq α] (d : α) : Nat → Tbl α → Bool
  | _, [] => true
  | lo, (j, a) :: t => decide (lo ≤ j) && decide (a ≠ d) && twfFrom d (j + 1) t

/-- The canonical form of a table. -/
def twf {α : Type} [DecidableEq α] (d : α) (t : Tbl α) : Bool := twfFrom d 0 t

/-- Apply `f` to every listed entry, dropping what becomes the default. -/
def tmapAll {α : Type} [DecidableEq α] (d : α) (f : Nat → α → α) : Tbl α → Tbl α
  | [] => []
  | (j, a) :: t => if f j a = d then (tmapAll d f t).filter (fun p => p.1 ≠ j) else (j, f j a) :: tmapAll d f t

/-- Insert a number into a strictly rising list. -/
def ninsert (k : Nat) : List Nat → List Nat
  | [] => [k]
  | j :: t => if k = j then j :: t else if k < j then k :: j :: t else j :: ninsert k t

/-- Remove a number from a list. -/
def nremove (k : Nat) (l : List Nat) : List Nat := l.filter (fun j => j ≠ k)

/-- The little-endian value of a byte list (R8). -/
def leVal : List Byte → Nat
  | [] => 0
  | b :: t => b.toNat + 256 * leVal t

/-- `n` little-endian bytes of a value (R8). -/
def leBytes : Nat → Nat → List Byte
  | 0, _ => []
  | n + 1, v => BitVec.ofNat 8 (v % 256) :: leBytes n (v / 256)

/-- `n` big-endian bytes of a value. -/
def beBytes (n v : Nat) : List Byte := (leBytes n v).reverse

/-- The big-endian value of a byte list. -/
def beVal (l : List Byte) : Nat := leVal l.reverse

/-- The little-endian field of `n` bytes at offset `off` of a record; bytes beyond its end read zero. -/
def fieldAt (r : List Byte) (off n : Nat) : Nat := leVal ((r.drop off).take n)

/-- Bit `i` of a number. -/
def bitOf (v i : Nat) : Bool := v / 2 ^ i % 2 = 1

/-- Bits `hi` down to `lo` of a number. -/
def bitsOf (v hi lo : Nat) : Nat := v / 2 ^ lo % 2 ^ (hi - lo + 1)

/-- 1 for true. -/
def b2n (b : Bool) : Nat := if b then 1 else 0

/-- ⌈a / b⌉. -/
def cdiv (a b : Nat) : Nat := (a + b - 1) / b

/-- Round up to a multiple of `b`. -/
def upTo (a b : Nat) : Nat := cdiv a b * b

/-- The signed value of the low `n` bits. -/
def sext (n v : Nat) : Int :=
  let x := v % 2 ^ n
  if x < 2 ^ (n - 1) then (x : Int) else (x : Int) - (2 ^ n : Nat)

/-- Two's complement of an integer in `n` bits. -/
def wrap (n : Nat) (i : Int) : Nat := (i % ((2 ^ n : Nat) : Int)).toNat

/-- Pad a byte list with zeros to `n` bytes, or cut it. -/
def padTo (n : Nat) (l : List Byte) : List Byte := (l ++ List.replicate (n - l.length) 0).take n

/-- Replace element `i` of a list. -/
def lset {α : Type} (l : List α) (i : Nat) (a : α) : List α := l.set i a

/-- Element `i` of a list, or `d`. -/
def lget {α : Type} (d : α) (l : List α) (i : Nat) : α := (l[i]?).getD d

/-- Change element `i` of a list. -/
def lmod {α : Type} (l : List α) (i : Nat) (f : α → α) : List α := l.modify i f

/-- `List.range` from `a`, `n` numbers. -/
def rangeFrom (a n : Nat) : List Nat := (List.range n).map (· + a)

/-- The first element with property `p`. -/
def findFirst {α : Type} (p : α → Bool) : List α → Option α
  | [] => none
  | a :: t => if p a then some a else findFirst p t

end Sys2Proof.Machine
end

