-- ==== Sys2Proof/Machine/Num.lean ====
section
/-! DEFINITION. Exact arithmetic and the one rounding function of R135 to R138: extended values, the formats as rounding
targets, IEEE operations as an exact result rounded once, and the correctly rounded exponential and logarithm of R175. -/

namespace Sys2Proof.Machine

open Sys2Proof

/-- A value: NaN, an infinity, or (−1)^neg × m × 2^e exactly; m = 0 keeps the sign of zero. -/
inductive FVal where
  | nan
  | inf (neg : Bool)
  | fin (neg : Bool) (m : Nat) (e : Int)
  deriving DecidableEq, Repr

/-- An exact result before rounding: NaN, an infinity, or ± num/den × 2^e, where `sticky` says that a positive amount
below num/den × 2^e × 2^-64 was cut off its magnitude. -/
inductive XVal where
  | nan
  | inf (neg : Bool)
  | rat (neg : Bool) (num den : Nat) (e : Int) (sticky : Bool)
  deriving DecidableEq, Repr

/-- Two's power of a nonnegative integer exponent. -/
def pow2 (e : Int) : Nat := 2 ^ e.toNat

/-- floor(log2 n) for n > 0, as an integer. -/
def ilog2 (n : Nat) : Int := (Nat.log2 n : Nat)

/-- A rounding target (R135). Floating: precision p, emin, the largest finite value as (significand, exponent), infinity and
NaN. Fixed (p = 0): the unit 2^emin with bounds in units. -/
structure Fmt where
  p : Nat
  emin : Int
  maxM : Nat
  maxE : Int
  hasInf : Bool
  hasNan : Bool
  minUnits : Nat
  emaxE : Int
  deriving DecidableEq, Repr

/-- The parameters of R135 by FORMAT code of R43; the MX formats give their element's. -/
def fmtOf : Nat → Fmt
  | 0x00 => { p := 8, emin := -126, maxM := 255, maxE := 120, hasInf := true, hasNan := true, minUnits := 0, emaxE := 128 }
  | 0x01 => { p := 11, emin := -14, maxM := 2047, maxE := 5, hasInf := true, hasNan := true, minUnits := 0, emaxE := 16 }
  | 0x02 => { p := 24, emin := -126, maxM := 16777215, maxE := 104, hasInf := true, hasNan := true, minUnits := 0, emaxE := 128 }
  | 0x03 => { p := 53, emin := -1022, maxM := 9007199254740991, maxE := 971, hasInf := true, hasNan := true, minUnits := 0, emaxE := 1024 }
  | 0x04 => { p := 4, emin := -6, maxM := 14, maxE := 5, hasInf := false, hasNan := true, minUnits := 0, emaxE := 9 }
  | 0x05 => { p := 3, emin := -14, maxM := 7, maxE := 13, hasInf := true, hasNan := true, minUnits := 0, emaxE := 16 }
  | 0x06 => { p := 4, emin := -6, maxM := 14, maxE := 5, hasInf := false, hasNan := true, minUnits := 0, emaxE := 9 }
  | 0x07 => { p := 3, emin := -14, maxM := 7, maxE := 13, hasInf := true, hasNan := true, minUnits := 0, emaxE := 16 }
  | 0x08 => { p := 2, emin := 0, maxM := 3, maxE := 1, hasInf := false, hasNan := false, minUnits := 0, emaxE := 3 }
  | 0x09 => { p := 0, emin := -6, maxM := 127, maxE := -6, hasInf := false, hasNan := false, minUnits := 128, emaxE := 1 }
  | 0x0B => { p := 0, emin := 0, maxM := 2147483647, maxE := 0, hasInf := false, hasNan := false, minUnits := 2147483648, emaxE := 31 }
  | _ => { p := 0, emin := 0, maxM := 127, maxE := 0, hasInf := false, hasNan := false, minUnits := 128, emaxE := 7 }

/-- binary32 as a target. -/
def f32 : Fmt := fmtOf 0x02

/-- binary64 as a target. -/
def f64 : Fmt := fmtOf 0x03

/-- The outcome of a rounding: the value, and whether it was inexact, overflowed, underflowed (tiny after rounding and
inexact), or was an invalid conversion (R145, R182). -/
structure Rounded where
  v : FVal
  nx : Bool
  of : Bool
  uf : Bool
  nv : Bool
  deriving DecidableEq, Repr

/-- E(x) of R105 for num/den × 2^e: floor(log2) + 1. -/
def eOf (num den : Nat) (e : Int) : Int :=
  let k := ilog2 num - ilog2 den
  let ge : Bool := if k ≥ 0 then decide (num ≥ den * pow2 k) else decide (num * pow2 (-k) ≥ den)
  (if ge then k else k - 1) + e + 1

/-- E(v) of a finite nonzero value. -/
def eVal (m : Nat) (e : Int) : Int := ilog2 m + e + 1

/-- num/den × 2^e split at unit 2^q: a = floor(x / 2^q) and the remainder f/u as a fraction rn/rd. -/
def splitAt (num den : Nat) (e q : Int) : Nat × Nat × Nat :=
  let sh := e - q
  let n := if sh ≥ 0 then num * pow2 sh else num
  let d := if sh ≥ 0 then den else den * pow2 (-sh)
  (n / d, n % d, d)

/-- Whether the magnitude rounds up (R136): mode, sign, a, fraction rn/rd with sticky, and the generator's word r. -/
def roundsUp (mode : Nat) (neg : Bool) (a rn rd : Nat) (sticky : Bool) (r : Nat) : Bool :=
  let inexact := decide (rn ≠ 0) || sticky
  match mode with
  | 1 => false
  | 2 => neg && inexact
  | 3 => !neg && inexact
  | 4 => decide (r < rn * 2 ^ 32 / rd)
  | _ => decide (2 * rn > rd) || (decide (2 * rn = rd) && (sticky || decide (a % 2 = 1)))

/-- What an overflow receives (R137); `sat` is a conversion with saturation. -/
def overflowTo (f : Fmt) (mode : Nat) (sat neg : Bool) : FVal :=
  let mx : FVal := if f.p = 0 && neg then .fin true f.minUnits f.emin else .fin neg f.maxM f.maxE
  if sat || !f.hasInf then mx
  else match mode with
    | 1 => mx
    | 2 => if neg then .inf true else mx
    | 3 => if neg then mx else .inf false
    | _ => .inf neg

/-- The rounding function of R136 to R138 on an exact magnitude: mode of R136, generator word r, saturation. -/
def roundRat (f : Fmt) (mode r : Nat) (sat neg : Bool) (num den : Nat) (e : Int) (sticky : Bool) : Rounded :=
  if num = 0 then { v := .fin (if f.p = 0 then false else neg) 0 0, nx := false, of := false, uf := false, nv := false }
  else
    let ex := eOf num den e
    let q : Int := if f.p = 0 then f.emin else max (ex - 1) f.emin - (f.p : Int) + 1
    let (a, rn, rd) := splitAt num den e q
    let up := roundsUp mode neg a rn rd sticky r
    let m := if up then a + 1 else a
    let inexact := decide (rn ≠ 0) || sticky
    -- largest finite magnitude at this unit's scale
    let excess : Bool :=
      if f.p = 0 then decide (m > (if neg then f.minUnits else f.maxM))
      else if q ≥ f.maxE then decide (m * pow2 (q - f.maxE) > f.maxM) else decide (m > f.maxM * pow2 (f.maxE - q))
    if excess then { v := overflowTo f mode sat neg, nx := true, of := true, uf := false, nv := false }
    else
      -- tininess after rounding: the result rounded to full precision with no exponent limit stays below the smallest normal
      let tiny : Bool := decide (f.p ≠ 0) && decide (ex - 1 < f.emin) && (
        let qu := ex - (f.p : Int)
        let (au, ru, du) := splitAt num den e qu
        decide (eVal (if roundsUp mode neg au ru du sticky r then au + 1 else au) qu - 1 < f.emin))
      { v := .fin (if m = 0 && f.p = 0 then false else neg) m (if m = 0 then 0 else q), nx := inexact, of := false,
        uf := tiny && inexact, nv := false }

/-- Conversion of an exact result into a format (R136 to R138, R145). Block NaN of E2M1 and MXINT8 elements is `.nan`. (DEDUCED: notes/assumptions/20) -/
def roundX (f : Fmt) (mode r : Nat) (sat : Bool) : XVal → Rounded
  | .nan =>
    if f.hasNan then { v := .nan, nx := false, of := false, uf := false, nv := false }
    else { v := .fin false 0 0, nx := false, of := false, uf := false, nv := true }
  | .inf neg =>
    if f.hasInf then { v := .inf neg, nx := false, of := false, uf := false, nv := false }
    else if f.hasNan then { v := .nan, nx := false, of := false, uf := false, nv := false }
    else { v := overflowTo f 0 true neg, nx := false, of := false, uf := false, nv := true }
  | .rat neg num den e sticky => roundRat f mode r sat neg num den e sticky

/-- An exact value as an unrounded result. -/
def ofF : FVal → XVal
  | .nan => .nan
  | .inf n => .inf n
  | .fin n m e => .rat n m 1 e false

/-- Round a value to nearest even into a format. -/
def rne (f : Fmt) (x : XVal) : FVal := (roundX f 0 0 false x).v

/-- Is the value a NaN. -/
def isNan : FVal → Bool
  | .nan => true
  | _ => false

/-- Is the value finite. -/
def isFin : FVal → Bool
  | .fin _ _ _ => true
  | _ => false

/-- Is the value a zero of either sign. -/
def isZero : FVal → Bool
  | .fin _ 0 _ => true
  | _ => false

/-- The sign of a value. -/
def fneg : FVal → FVal
  | .nan => .nan
  | .inf n => .inf (!n)
  | .fin n m e => .fin (!n) m e

/-- The magnitude of a value. -/
def fabs : FVal → FVal
  | .nan => .nan
  | .inf _ => .inf false
  | .fin _ m e => .fin false m e

/-- A signed significand. -/
def sgnM (n : Bool) (m : Nat) : Int := if n then -(m : Int) else (m : Int)

/-- Exact sum of two dyadics as (numerator, exponent). -/
def dyAdd (a : Int) (ea : Int) (b : Int) (eb : Int) : Int × Int :=
  let e := min ea eb
  (a * (pow2 (ea - e) : Nat) + b * (pow2 (eb - e) : Nat), e)

/-- A signed dyadic as an exact result; an exact zero takes sign `z`. -/
def ofDy (z : Bool) (a : Int) (e : Int) : XVal :=
  if a = 0 then .rat z 0 1 0 false else .rat (decide (a < 0)) a.natAbs 1 e false

/-- IEEE addition, exact; `rdn` says the mode is RDN, which alone makes an exact zero sum −0. -/
def xadd (rdn : Bool) : FVal → FVal → XVal
  | .nan, _ => .nan
  | _, .nan => .nan
  | .inf a, .inf b => if a = b then .inf a else .nan
  | .inf a, _ => .inf a
  | _, .inf b => .inf b
  | .fin na ma ea, .fin nb mb eb =>
    if ma = 0 && mb = 0 then .rat (if na = nb then na else rdn) 0 1 0 false
    else
      let (s, e) := dyAdd (sgnM na ma) ea (sgnM nb mb) eb
      ofDy rdn s e

/-- IEEE multiplication, exact (R144). -/
def xmul : FVal → FVal → XVal
  | .nan, _ => .nan
  | _, .nan => .nan
  | .inf a, .inf b => .inf (a != b)
  | .inf a, .fin b m _ => if m = 0 then .nan else .inf (a != b)
  | .fin a m _, .inf b => if m = 0 then .nan else .inf (a != b)
  | .fin a m e, .fin b m' e' => .rat (a != b) (m * m') 1 (e + e') false

/-- The exact product of two finite values as a value. -/
def fmulExact : FVal → FVal → FVal
  | a, b => match xmul a b with
    | .nan => .nan
    | .inf n => .inf n
    | .rat n num _ e _ => .fin n num e

/-- IEEE fused multiply-add a × b + c, exact. -/
def xfma (rdn : Bool) (a b c : FVal) : XVal := xadd rdn (fmulExact a b) c

/-- IEEE division, exact as a ratio. -/
def xdiv : FVal → FVal → XVal
  | .nan, _ => .nan
  | _, .nan => .nan
  | .inf _, .inf _ => .nan
  | .inf a, .fin b _ _ => .inf (a != b)
  | .fin a _ _, .inf b => .rat (a != b) 0 1 0 false
  | .fin a m e, .fin b m' e' =>
    if m' = 0 then (if m = 0 then .nan else .inf (a != b))
    else .rat (a != b) m m' (e - e') false

/-- Integer square root by bits, `k` bits from the top: the largest r with r² ≤ n among numbers below 2^k. -/
def isqrtFrom : Nat → Nat → Nat → Nat
  | 0, _, r => r
  | k + 1, n, r =>
    let c := r + 2 ^ k
    if c * c ≤ n then isqrtFrom k n c else isqrtFrom k n r

/-- floor(√n). -/
def isqrt (n : Nat) : Nat := isqrtFrom (Nat.log2 n / 2 + 1) n 0

/-- √(num/den × 2^e) with 200 bits and a sticky remainder. -/
def sqrtRat (num den : Nat) (e : Int) : XVal :=
  -- make the exponent even and scale the ratio up
  let odd : Bool := e % 2 ≠ 0
  let num' := if odd then num * 2 else num
  let e' := if odd then e - 1 else e
  let k : Nat := 400 + 2 * (Nat.log2 den)
  let n := num' * 2 ^ (2 * (k / 2)) / den
  let exact : Bool := decide (num' * 2 ^ (2 * (k / 2)) % den = 0)
  let r := isqrt n
  .rat false r 1 (e' / 2 - ((k / 2 : Nat) : Int)) (!exact || decide (r * r ≠ n))

/-- IEEE square root. -/
def xsqrt : FVal → XVal
  | .nan => .nan
  | .inf n => if n then .nan else .inf false
  | .fin n m e => if m = 0 then .rat n 0 1 0 false else if n then .nan else sqrtRat m 1 e

/-- Reciprocal square root (R176): √ of the exact reciprocal. -/
def xrsqrt : FVal → XVal
  | .nan => .nan
  | .inf n => if n then .nan else .rat false 0 1 0 false
  | .fin n m e => if m = 0 then .inf n else if n then .nan else sqrtRat 1 m (-e)

/-- ln 2 × 2^320, truncated. -/
def ln2Fix : Nat := 1480553391661173448385607439722553250922680800745876974795605978609098082859138712941075737848984

/-- Taylor series of exp(y / 2^320) × 2^320, `k` terms. (PRESUMED: notes/assumptions/65) -/
def expSeries : Nat → Nat → Nat → Nat → Nat → Nat
  | 0, _, _, _, acc => acc
  | k + 1, y, i, term, acc =>
    let t := term * y / 2 ^ 320 / i
    expSeries k y (i + 1) t (acc + t)

/-- 2^x (R175, R176). An integer x gives an exact power; any other x gives an irrational value, taken to more than 200 bits
with its sticky part set. (PRESUMED: notes/assumptions/65) -/
def xexp2 : FVal → XVal
  | .nan => .nan
  | .inf n => if n then .rat false 0 1 0 false else .inf false
  | .fin n m e =>
    let x : Int := sgnM n m
    if m = 0 then .rat false 1 1 0 false
    else if e ≥ 0 then
      -- an integer; beyond ±2^20 every target overflows or underflows
      (let k : Int := if e ≥ 21 || decide (m * pow2 (min e 21) > 2 ^ 20) then (if n then -(2 ^ 20 : Int) else (2 ^ 20 : Int)) else x * (pow2 e : Nat)
       .rat false 1 1 k false)
    else
      let d : Int := (pow2 (-e) : Nat)
      let k0 : Int := x / d                      -- floor
      let fr : Nat := (x % d).toNat              -- 0 ≤ fr < d
      let k : Int := if k0 > (2 ^ 20 : Int) then (2 ^ 20 : Int) else if k0 < -(2 ^ 20 : Int) then -(2 ^ 20 : Int) else k0
      if fr = 0 then .rat false 1 1 k false
      else
        let y := fr * ln2Fix / pow2 (-e)
        .rat false (expSeries 80 y 1 (2 ^ 320) (2 ^ 320)) 1 (k - 320) true

/-- 2 × atanh(z / 2^320) × 2^320 by its series, `k` terms; `zz` is z² / 2^320. (PRESUMED: notes/assumptions/65) -/
def atanhSeries : Nat → Nat → Nat → Nat → Nat → Nat
  | 0, _, _, _, acc => acc
  | k + 1, zz, i, pw, acc => atanhSeries k zz (i + 2) (pw * zz / 2 ^ 320) (acc + 2 * pw / i)

/-- log2 x (R175, R176). A power of two gives an exact integer; any other x an irrational value with its sticky part set. (PRESUMED: notes/assumptions/65) -/
def xlog2 : FVal → XVal
  | .nan => .nan
  | .inf n => if n then .nan else .inf false
  | .fin n m e =>
    if m = 0 then .inf true
    else if n then .nan
    else
      let l := Nat.log2 m
      let k : Int := e + (l : Nat)
      if m = 2 ^ l then ofDy false k 0
      else
        -- x = 2^k × f with 1 < f < 2; take f below √2, or halve it
        let big : Bool := decide (m * m > 2 * (2 ^ l * 2 ^ l))
        let k' : Int := if big then k + 1 else k
        let den : Nat := if big then 2 ^ (l + 1) else 2 ^ l
        let neg : Bool := decide (m < den)
        let diff : Nat := if neg then den - m else m - den
        let z : Nat := diff * 2 ^ 320 / (m + den)
        let lnf : Nat := atanhSeries 72 (z * z / 2 ^ 320) 1 z 0
        let lg : Nat := lnf * 2 ^ 320 / ln2Fix
        let total : Int := k' * (2 ^ 320 : Nat) + (if neg then -(lg : Int) else (lg : Int))
        if total < 0 then .rat true total.natAbs 1 (-320) true else .rat false total.natAbs 1 (-320) true

/-- Numerical comparison of finite or infinite values; none when either is a NaN. -/
def fcmp : FVal → FVal → Option Ordering
  | .nan, _ => none
  | _, .nan => none
  | .inf a, .inf b => some (if a = b then .eq else if a then .lt else .gt)
  | .inf a, _ => some (if a then .lt else .gt)
  | _, .inf b => some (if b then .gt else .lt)
  | .fin na ma ea, .fin nb mb eb =>
    let e := min ea eb
    let x := sgnM na ma * (pow2 (ea - e) : Nat)
    let y := sgnM nb mb * (pow2 (eb - e) : Nat)
    some (compare x y)

/-- a < b, false with a NaN. -/
def flt (a b : FVal) : Bool := fcmp a b = some .lt

/-- a = b numerically, false with a NaN. -/
def feq (a b : FVal) : Bool := fcmp a b = some .eq

/-- Maximum of R131 and R176: NaN if either is, −0 below +0. -/
def fmax (a b : FVal) : FVal :=
  match fcmp a b with
  | none => .nan
  | some .lt => b
  | some .gt => a
  | some .eq => match a, b with
    | .fin true 0 _, _ => b
    | _, _ => a

/-- Minimum of R176. -/
def fmin (a b : FVal) : FVal :=
  match fcmp a b with
  | none => .nan
  | some .lt => a
  | some .gt => b
  | some .eq => match a, b with
    | .fin false 0 _, _ => b
    | _, _ => a

/-- +0. -/
def fzero : FVal := .fin false 0 0

/-- −0. -/
def fnegZero : FVal := .fin true 0 0

/-- An integer as a value. -/
def ofInt (i : Int) : FVal := .fin (decide (i < 0)) i.natAbs 0

/-- RNE addition in a format. -/
def addIn (f : Fmt) (a b : FVal) : FVal := rne f (xadd false a b)

/-- RNE multiplication in a format. -/
def mulIn (f : Fmt) (a b : FVal) : FVal := rne f (xmul a b)

/-- RNE fused multiply-add in a format. -/
def fmaIn (f : Fmt) (a b c : FVal) : FVal := rne f (xfma false a b c)

/-- RNE division in a format. -/
def divIn (f : Fmt) (a b : FVal) : FVal := rne f (xdiv a b)

end Sys2Proof.Machine
end

