-- ==== Sys2Proof/Machine/Formats.lean ====
section
/-! DEFINITION. Element formats (R43, R86 to R91): widths, decoding, encoding, canonical NaNs, MX scales, the
stochastic-rounding generator (R140, R141) and the narrowing of a value into an element (R136 to R145, R150). -/

namespace Sys2Proof.Machine

open Sys2Proof

/-- Is FORMAT defined (R43). -/
def fmtDefined (f : Nat) : Bool := decide (f ≤ 0x0C)

/-- Bits of one element (R43). -/
def fmtBits : Nat → Nat
  | 0x00 => 16 | 0x01 => 16 | 0x02 => 32 | 0x03 => 64 | 0x08 => 4 | 0x0B => 32 | _ => 8

/-- Is it an MX format (R43). -/
def fmtMx (f : Nat) : Bool := decide (0x06 ≤ f) && decide (f ≤ 0x09)

/-- Is it an integer format that holds no fraction (INT8, INT32, SILT8). -/
def fmtInt (f : Nat) : Bool := decide (0x0A ≤ f)

/-- Cell class of R80: 4, 8 or 16; 0 for a format of no class (R82). -/
def fmtClass : Nat → Nat
  | 0x00 => 16 | 0x01 => 16 | 0x04 => 8 | 0x05 => 8 | 0x06 => 8 | 0x07 => 8 | 0x08 => 4 | 0x09 => 8 | 0x0A => 8 | _ => 0

/-- Emax of R135. -/
def fmtEmax (f : Nat) : Int := (fmtOf f).emaxE

/-- Decode a floating element of width `w`, precision `p`, emin `emin`; `spec` says an all-ones exponent is special. -/
def decodeFloat (w p : Nat) (emin : Int) (spec : Bool) (bits : Nat) : FVal :=
  let eb := w - p
  let field := bitsOf bits (w - 2) (p - 1)
  let mant := bits % 2 ^ (p - 1)
  let neg := bitOf bits (w - 1)
  let qmin : Int := emin - (p : Int) + 1
  if spec && decide (field = 2 ^ eb - 1) then (if mant = 0 then .inf neg else .nan)
  else if field = 0 then .fin neg mant qmin
  else .fin neg (mant + 2 ^ (p - 1)) (qmin + (field : Int) - 1)

/-- Encode a value that the format holds exactly. -/
def encodeFloat (w p : Nat) (emin : Int) (neg : Bool) (m : Nat) (e : Int) : Nat :=
  let qmin : Int := emin - (p : Int) + 1
  let sgn := if neg then 2 ^ (w - 1) else 0
  if m = 0 then sgn
  else
    let q : Int := max (eVal m e - 1) emin - (p : Int) + 1
    let sig := if e ≥ q then m * pow2 (e - q) else m / pow2 (q - e)
    sgn + ((q - qmin).toNat * 2 ^ (p - 1) + sig)

/-- An integer from `m × 2^e` with its sign. -/
def toInt (neg : Bool) (m : Nat) (e : Int) : Int :=
  let a : Nat := if e ≥ 0 then m * pow2 e else m / pow2 (-e)
  if neg then -(a : Int) else (a : Int)

/-- Decode one element before any block scale (R86 to R89). SILT8 is read as two's complement (R155). -/
def decodeElem (f bits : Nat) : FVal :=
  match f with
  | 0x00 => decodeFloat 16 8 (-126) true bits
  | 0x01 => decodeFloat 16 11 (-14) true bits
  | 0x02 => decodeFloat 32 24 (-126) true bits
  | 0x03 => decodeFloat 64 53 (-1022) true bits
  | 0x04 => if bits % 128 = 127 then .nan else decodeFloat 8 4 (-6) false bits
  | 0x05 => decodeFloat 8 3 (-14) true bits
  | 0x06 => if bits % 128 = 127 then .nan else decodeFloat 8 4 (-6) false bits
  | 0x07 => decodeFloat 8 3 (-14) true bits
  | 0x08 => decodeFloat 4 2 0 false bits
  | 0x09 =>
    let i := sext 8 bits
    .fin (decide (i < 0)) i.natAbs (-6)
  | 0x0B => ofInt (sext 32 bits)
  | _ => ofInt (sext 8 bits)

/-- The canonical NaN of a format (R144); an E2M1 or MXINT8 element of a NaN block is written 0. -/
def nanBits : Nat → Nat
  | 0x00 => 0x7FC0 | 0x01 => 0x7E00 | 0x02 => 0x7FC00000 | 0x03 => 0x7FF8000000000000
  | 0x04 => 0x7F | 0x05 => 0x7E | 0x06 => 0x7F | 0x07 => 0x7E | _ => 0

/-- The infinity of a format that has one (R145). -/
def infBits (f : Nat) (neg : Bool) : Nat :=
  match f with
  | 0x00 => if neg then 0xFF80 else 0x7F80
  | 0x01 => if neg then 0xFC00 else 0x7C00
  | 0x02 => if neg then 0xFF800000 else 0x7F800000
  | 0x03 => if neg then 0xFFF0000000000000 else 0x7FF0000000000000
  | 0x05 => if neg then 0xFC else 0x7C
  | 0x07 => if neg then 0xFC else 0x7C
  | _ => nanBits f

/-- Encode a value that the format holds (R86 to R89, R144, R145). -/
def encodeElem (f : Nat) (v : FVal) : Nat :=
  match v with
  | .nan => nanBits f
  | .inf n => infBits f n
  | .fin n m e =>
    match f with
    | 0x00 => encodeFloat 16 8 (-126) n m e
    | 0x01 => encodeFloat 16 11 (-14) n m e
    | 0x02 => encodeFloat 32 24 (-126) n m e
    | 0x03 => encodeFloat 64 53 (-1022) n m e
    | 0x04 => encodeFloat 8 4 (-6) n m e
    | 0x05 => encodeFloat 8 3 (-14) n m e
    | 0x06 => encodeFloat 8 4 (-6) n m e
    | 0x07 => encodeFloat 8 3 (-14) n m e
    | 0x08 => encodeFloat 4 2 0 n m e
    | 0x09 => wrap 8 (toInt n m (e + 6))
    | 0x0B => wrap 32 (toInt n m e)
    | _ => wrap 8 (toInt n m e)

/-- binary32 bits as a value. -/
def of32 (w : W32) : FVal := decodeElem 0x02 w.toNat

/-- A binary32 value as bits, NaN canonical. -/
def to32 (v : FVal) : W32 := BitVec.ofNat 32 (encodeElem 0x02 v)

/-- binary64 bits as a value. -/
def of64 (w : W64) : FVal := decodeElem 0x03 w.toNat

/-- A binary64 value as bits, NaN canonical. -/
def to64 (v : FVal) : W64 := BitVec.ofNat 64 (encodeElem 0x03 v)

/-- A value times a power of two, exactly. -/
def scale2 (v : FVal) (k : Int) : FVal :=
  match v with
  | .fin n m e => .fin n m (e + k)
  | w => w

/-- An element under its E8M0 block scale (R90). -/
def applyScale (sc : Nat) (v : FVal) : FVal := if sc = 0xFF then .nan else scale2 v ((sc : Int) - 127)

/-! ### The generator of R140 and R141 -/

/-- One round of Philox 4×32 (R140), on 32-bit words. -/
def philoxRound (k0 k1 c0 c1 c2 c3 : W32) : W32 × W32 × W32 × W32 :=
  let p : W64 := (0xD2511F53 : W64) * c0.setWidth 64
  let q : W64 := (0xCD9E8D57 : W64) * c2.setWidth 64
  ((q >>> 32).setWidth 32 ^^^ c1 ^^^ k0, q.setWidth 32, (p >>> 32).setWidth 32 ^^^ c3 ^^^ k1, p.setWidth 32)

/-- The remaining rounds of R140. -/
def philoxRounds : Nat → W32 → W32 → W32 × W32 × W32 × W32 → W32 × W32 × W32 × W32
  | 0, _, _, c => c
  | n + 1, k0, k1, (c0, c1, c2, c3) =>
    philoxRounds n (k0 + 0x9E3779B9) (k1 + 0xBB67AE85) (philoxRound k0 k1 c0 c1 c2 c3)

/-- The generator function of R140. -/
def philox (k0 k1 c0 c1 c2 c3 : W32) : W32 × W32 × W32 × W32 := philoxRounds 10 k0 k1 (c0, c1, c2, c3)

/-- The word r of R141 for one element: seed, destination handle, linear index, step. -/
def srWord (seed : W64) (h : Nat) (i : Nat) (step : W64) : Nat :=
  let (kt0, kt1, _, _) :=
    philox (seed.setWidth 32) ((seed >>> 32).setWidth 32) (BitVec.ofNat 32 h) 0x5A440001 0 0
  let (r, _, _, _) :=
    philox kt0 kt1 (BitVec.ofNat 32 i) (BitVec.ofNat 32 (i / 2 ^ 32)) (step.setWidth 32) ((step >>> 32).setWidth 32)
  r.toNat

/-! ### Narrowing one value -/

/-- Does writing this value, or what it became, set the NONFINITE flag of R147: a NaN or an infinity, a finite value that
overflowed to an infinity, or one forced into an integer format. -/
def nonfiniteWrite (src : FVal) (out : Rounded) : Bool := !isFin src || !isFin out.v

/-- Convert a value into the bits of a format under a mode of R136, generator word and saturation. -/
def convert (f mode r : Nat) (sat : Bool) (v : FVal) : Nat × Rounded :=
  let o := roundX (fmtOf f) mode r sat (ofF v)
  (encodeElem f o.v, o)

/-- E(|v|) of a finite nonzero value (R105), none otherwise. -/
def binadeOf : FVal → Option Int
  | .fin _ m e => if m = 0 then none else some (eVal m e)
  | _ => none

/-- The larger of two optional binades. -/
def omax : Option Int → Option Int → Option Int
  | none, b => b
  | a, none => a
  | some a, some b => some (max a b)

/-- Clamp to −127 to 127 (R150, R153). -/
def clampE (i : Int) : Int := max (-127) (min 127 i)

/-- The block scale exponent of R150 for try 1: the entry read at reach and the block's largest finite magnitude. -/
def scaleExp (f : Nat) (h : Nat) (est : EstEntry) (amax : Option Int) : Int :=
  if est.set then clampE (est.est - fmtEmax f + (h : Int))
  else match amax with
    | none => -127
    | some e => clampE (e - fmtEmax f + (h : Int))

/-- Is there a narrowing overflow (R151): |v × 2^(−s)| above the element format's largest finite magnitude for its sign. -/
def narrowOver (f : Nat) (s : Int) (v : FVal) : Bool :=
  match v with
  | .fin n m e =>
    let fm := fmtOf f
    let mx : FVal := .fin false (if fm.p = 0 && n then fm.minUnits else fm.maxM) fm.maxE
    flt mx (.fin false m (e - s))
  | _ => false

/-- Is the block written as a NaN block (R145): a non-finite value into an E2M1 or MXINT8 block. -/
def blockNan (f : Nat) (vs : List FVal) : Bool := (decide (f = 0x08) || decide (f = 0x09)) && vs.any (fun v => !isFin v)

/-- One MX block narrowed at scale exponent `s` (R150, R152): the scale byte and the element bits. `rs` are the words r. -/
def narrowBlock (f mode : Nat) (sat : Bool) (s : Int) (vs : List FVal) (rs : List Nat) : Nat × List Nat :=
  if blockNan f vs then (0xFF, vs.map (fun _ => 0))
  else ((s + 127).toNat, (vs.zip rs).map (fun p => (convert f mode p.2 sat (scale2 p.1 (-s))).1))

/-- The largest finite binade of a block. -/
def blockAmax (vs : List FVal) : Option Int := vs.foldl (fun a v => omax a (binadeOf v)) none

end Sys2Proof.Machine
end

