-- ==== Sys2Proof/Machine/Crypto.lean ====
section
/-! DEFINITION. The published algorithms the manual names: SHA-256, CRC-32C, HMAC and HKDF with SHA-256, ECDSA over P-256
with the RFC 6979 nonce, AES-256-XTS (R242, R385, R392, R449). -/

namespace Sys2Proof.Machine

open Sys2Proof

/-- The `n` 32-bit words of a number, the most significant first. -/
def wordsOf (n v : Nat) : List W32 := (List.range n).map (fun i => BitVec.ofNat 32 (v / 2 ^ (32 * (n - 1 - i))))

/-- The round constants of SHA-256, eight to a number. -/
def shaK : List W32 :=
  ([0x428a2f9871374491b5c0fbcfe9b5dba53956c25b59f111f1923f82a4ab1c5ed5,
    0xd807aa9812835b01243185be550c7dc372be5d7480deb1fe9bdc06a7c19bf174,
    0xe49b69c1efbe47860fc19dc6240ca1cc2de92c6f4a7484aa5cb0a9dc76f988da,
    0x983e5152a831c66db00327c8bf597fc7c6e00bf3d5a7914706ca635114292967] ++
   [0x27b70a852e1b21384d2c6dfc53380d13650a7354766a0abb81c2c92e92722c85,
    0xa2bfe8a1a81a664bc24b8b70c76c51a3d192e819d6990624f40e3585106aa070,
    0x19a4c1161e376c082748774c34b0bcb5391c0cb34ed8aa4a5b9cca4f682e6ff3,
    0x748f82ee78a5636f84c878148cc7020890befffaa4506cebbef9a3f7c67178f2]).flatMap (wordsOf 8)

/-- The initial hash value of SHA-256. -/
def shaInit : List W32 := wordsOf 8 0x6a09e667bb67ae853c6ef372a54ff53a510e527f9b05688c1f83d9ab5be0cd19

/-- Big-endian 32-bit words of a byte list. -/
def beWords : List Byte → List W32
  | a :: b :: c :: d :: t => (a ++ b ++ c ++ d) :: beWords t
  | _ => []

/-- The exclusive or of a word's rotations. -/
def rotations (by' : List Nat) (x : W32) : W32 := by'.foldl (fun acc n => acc ^^^ x.rotateRight n) 0

/-- Extend a message schedule held newest first by `n` words. -/
def shaSchedule : Nat → List W32 → List W32
  | 0, w => w
  | n + 1, w =>
    let ago := fun k => lget 0 w (k - 1)
    shaSchedule n
      (((rotations [17, 19] (ago 2) ^^^ ago 2 >>> 10) + ago 7 + (rotations [7, 18] (ago 15) ^^^ ago 15 >>> 3) + ago 16) :: w)

/-- The rounds as two sequences, newest first: `p` holds the words the standard calls a to d, `q` those it calls e to h; a
round adds one word to each. -/
def shaRounds (p q : List W32) : List (W32 × W32) → List W32 × List W32
  | [] => (p, q)
  | kw :: rest =>
    let pick := lget 0 q 2 ^^^ (lget 0 q 0 &&& (lget 0 q 1 ^^^ lget 0 q 2))
    let most := (lget 0 p 0 &&& (lget 0 p 1 ||| lget 0 p 2)) ||| (lget 0 p 1 &&& lget 0 p 2)
    let feed := kw.1 + kw.2 + lget 0 q 3 + rotations [6, 11, 25] (lget 0 q 0) + pick
    shaRounds ((feed + rotations [2, 13, 22] (lget 0 p 0) + most) :: p) ((feed + lget 0 p 3) :: q) rest

/-- One block of 16 words. -/
def shaBlock (h : List W32) (blk : List W32) : List W32 :=
  let r := shaRounds (h.take 4) (h.drop 4) (shaK.zip (shaSchedule 48 blk.reverse).reverse)
  (List.range 8).map (fun i => lget 0 h i + lget 0 (r.1.take 4 ++ r.2.take 4) i)

/-- The blocks in order, 16 words each. -/
def shaBlocks : Nat → List W32 → List W32 → List W32
  | 0, _, h => h
  | n + 1, ws, h => shaBlocks n (ws.drop 16) (shaBlock h (ws.take 16))

/-- SHA-256: 32 bytes. -/
def sha256 (m : List Byte) : List Byte :=
  let z := (119 - m.length % 64) % 64
  let padded := m ++ (0x80 : Byte) :: (List.replicate z 0 ++ beBytes 8 (8 * m.length))
  (shaBlocks (padded.length / 64) (beWords padded) shaInit).flatMap (fun w => beBytes 4 w.toNat)

/-- Steps of the reflected CRC-32C register, one a bit. -/
def crcBits : Nat → Nat → Nat
  | 0, c => c
  | n + 1, c => crcBits n (if c % 2 = 1 then (c / 2) ^^^ 0x82F63B78 else c / 2)

/-- The register after some bytes. Looking at it between two of them lets the kernel evaluate byte by byte. -/
def crcBytes : List Byte → Nat → Nat
  | [], c => c
  | b :: t, c =>
    match crcBits 8 (c ^^^ b.toNat) with
    | 0 => crcBytes t 0
    | k + 1 => crcBytes t (k + 1)

/-- CRC-32C of a byte list. -/
def crc32c (m : List Byte) : W32 := ~~~(BitVec.ofNat 32 (crcBytes m 0xFFFFFFFF))

/-- HMAC with SHA-256. -/
def hmac (key m : List Byte) : List Byte :=
  let k := padTo 64 (if key.length > 64 then sha256 key else key)
  sha256 (k.map (· ^^^ 0x5C) ++ sha256 (k.map (· ^^^ 0x36) ++ m))

/-- The expand blocks of HKDF. -/
def hkdfExpand : Nat → Nat → List Byte → List Byte → List Byte → List Byte
  | 0, _, _, _, _ => []
  | n + 1, i, prk, info, prev =>
    let t := hmac prk (prev ++ info ++ [BitVec.ofNat 8 i])
    t ++ hkdfExpand n (i + 1) prk info t

/-- HKDF with SHA-256 (R449). -/
def hkdf (ikm salt info : List Byte) (len : Nat) : List Byte :=
  (hkdfExpand (cdiv len 32) 1 (hmac salt ikm) info []).take len

/-! ### P-256 -/

/-- The field prime of P-256. -/
def p256p : Nat := 2 ^ 256 - 2 ^ 224 + 2 ^ 192 + 2 ^ 96 - 1

/-- The order of P-256. -/
def p256n : Nat := 0xFFFFFFFF00000000FFFFFFFFFFFFFFFFBCE6FAADA7179E84F3B9CAC2FC632551

/-- The base point of P-256. -/
def p256g : Nat × Nat :=
  (0x6B17D1F2E12C4247F8BCE6E563A440F277037D812DEB33A0F4A13945D898C296,
   0x4FE342E2FE1A7F9B8EE7EB4A7C0F9E162BCE33576B315ECECBB6406837BF51F5)

/-- a^k mod m by the bits of k, `n` bits from the lowest. -/
def powMod (m : Nat) : Nat → Nat → Nat → Nat → Nat
  | 0, _, _, acc => acc
  | n + 1, a, k, acc => powMod m n (a * a % m) (k / 2) (if k % 2 = 1 then acc * a % m else acc)

/-- The inverse modulo a prime. -/
def invMod (m a : Nat) : Nat := powMod m 256 (a % m) (m - 2) 1

/-- a − b modulo the field prime. -/
def psub (a b : Nat) : Nat := (a + p256p - b) % p256p

/-- A point in Jacobian coordinates; z = 0 is the point at infinity. -/
abbrev JPoint := Nat × Nat × Nat

/-- Doubling, a = −3. -/
def jdbl (p : JPoint) : JPoint :=
  let (x, y, z) := p
  if z = 0 then p
  else
    let ys := y * y % p256p
    let s := 4 * x * ys % p256p
    let zz := z * z % p256p
    let m := 3 * psub x zz * ((x + zz) % p256p) % p256p
    let x' := psub (m * m % p256p) (2 * s % p256p)
    let y' := psub (m * psub s x' % p256p) (8 * (ys * ys % p256p) % p256p)
    (x', y', 2 * y * z % p256p)

/-- Addition of an affine point. -/
def jadd (p : JPoint) (q : Nat × Nat) : JPoint :=
  let (x, y, z) := p
  if z = 0 then (q.1, q.2, 1)
  else
    let zz := z * z % p256p
    let u := q.1 * zz % p256p
    let s := q.2 * (zz * z % p256p) % p256p
    if u = x then (if s = y then jdbl p else (1, 1, 0))
    else
      let h := psub u x
      let r := psub s y
      let hh := h * h % p256p
      let hhh := hh * h % p256p
      let v := x * hh % p256p
      let x' := psub (psub (r * r % p256p) hhh) (2 * v % p256p)
      (x', psub (r * psub v x' % p256p) (y * hhh % p256p), z * h % p256p)

/-- k × q from bit `n − 1` down. -/
def jmul (k : Nat) (q : Nat × Nat) : Nat → JPoint → JPoint
  | 0, acc => acc
  | n + 1, acc =>
    let d := jdbl acc
    jmul k q n (if bitOf k n then jadd d q else d)

/-- The affine point k × G. -/
def p256mul (k : Nat) : Nat × Nat :=
  let (x, y, z) := jmul k p256g 256 (1, 1, 0)
  let zi := invMod p256p z
  (x * (zi * zi % p256p) % p256p, y * (zi * zi % p256p * zi % p256p) % p256p)

/-- The public key bytes X then Y of a private key (R449). -/
def p256pub (d : Nat) : List Byte := let q := p256mul d; beBytes 32 q.1 ++ beBytes 32 q.2

/-- The candidates of RFC 6979: retry while the nonce is out of range; the bound of eight tries is never met. -/
def rfcTry : Nat → List Byte → List Byte → Nat
  | 0, _, _ => 1
  | n + 1, k, v =>
    let v' := hmac k v
    let t := beVal v'
    if 0 < t ∧ t < p256n then t
    else
      let k' := hmac k (v' ++ [0])
      rfcTry n k' (hmac k' v')

/-- The RFC 6979 nonce for a key and a digest. -/
def rfc6979 (d : Nat) (digest : List Byte) : Nat :=
  let h1 := beBytes 32 (beVal digest % p256n)
  let x := beBytes 32 d
  let v0 := List.replicate 32 (1 : Byte)
  let k1 := hmac (List.replicate 32 0) (v0 ++ [0] ++ x ++ h1)
  let v1 := hmac k1 v0
  let k2 := hmac k1 (v1 ++ [1] ++ x ++ h1)
  rfcTry 8 k2 (hmac k2 v1)

/-- ECDSA signature of a message, r then s big-endian (R385). (DEDUCED: notes/assumptions/8) -/
def ecdsaSign (d : Nat) (m : List Byte) : List Byte :=
  let dg := sha256 m
  let k := rfc6979 d dg
  let r := (p256mul k).1 % p256n
  let s := invMod p256n k * ((beVal dg + r * d) % p256n) % p256n
  beBytes 32 r ++ beBytes 32 s

/-- The affine point of a Jacobian one. -/
def jaffine (p : JPoint) : Nat × Nat :=
  let zi := invMod p256p p.2.2
  (p.1 * (zi * zi % p256p) % p256p, p.2.1 * (zi * zi % p256p * zi % p256p) % p256p)

/-- Does a signature r, s verify over a message under a public point. -/
def ecdsaVerify (q : Nat × Nat) (m sig : List Byte) : Bool :=
  let r := beVal (sig.take 32)
  let s := beVal ((sig.drop 32).take 32)
  if r = 0 ∨ p256n ≤ r ∨ s = 0 ∨ p256n ≤ s then false
  else
    let w := invMod p256n s
    let u := jmul (beVal (sha256 m) * w % p256n) p256g 256 (1, 1, 0)
    let v := jmul (r * w % p256n) q 256 (1, 1, 0)
    let x := if v.2.2 = 0 then u else jadd u (jaffine v)
    if x.2.2 = 0 then false else decide ((jaffine x).1 % p256n = r)

/-! ### AES-256-XTS (R242) -/

/-- The S-box, 32 entries to a number. -/
def aesSbox : List Byte :=
  ([0x637c777bf26b6fc53001672bfed7ab76ca82c97dfa5947f0add4a2af9ca472c0,
    0xb7fd9326363ff7cc34a5e5f171d8311504c723c31896059a071280e2eb27b275,
    0x09832c1a1b6e5aa0523bd6b329e32f8453d100ed20fcb15b6acbbe394a4c58cf,
    0xd0efaafb434d338545f9027f503c9fa851a3408f929d38f5bcb6da2110fff3d2] ++
   [0xcd0c13ec5f974417c4a77e3d645d197360814fdc222a908846eeb814de5e0bdb,
    0xe0323a0a4906245cc2d3ac629195e479e7c8376d8dd54ea96c56f4ea657aae08,
    0xba78252e1ca6b4c6e8dd741f4bbd8b8a703eb5664803f60e613557b986c11d9e,
    0xe1f8981169d98e949b1e87e9ce5528df8ca1890dbfe6426841992d0fb054bb16]).flatMap (beBytes 32)

/-- One S-box lookup. -/
def aesSub (b : Byte) : Byte := lget 0 aesSbox b.toNat

/-- Multiplication by x in the AES field. -/
def xtime (b : Byte) : Byte := (b <<< 1) ^^^ (if b.getLsbD 7 then 0x1B else 0)

/-- XOR of two byte lists. -/
def xorBytes (a b : List Byte) : List Byte := (a.zip b).map (fun p => p.1 ^^^ p.2)

/-- AES-256 key schedule words held newest first: `n` more words, `i` the index of the next. -/
def aesExpand : Nat → Nat → Byte → List (List Byte) → List (List Byte)
  | 0, _, _, w => w
  | n + 1, i, rc, w =>
    let t := lget [] w 0
    let t' := if i % 8 = 0 then
        (match t with
         | a :: rest => xorBytes ((rest ++ [a]).map aesSub) [rc, 0, 0, 0]
         | [] => [])
      else if i % 8 = 4 then t.map aesSub else t
    aesExpand n (i + 1) (if i % 8 = 0 then xtime rc else rc) (xorBytes (lget [] w 7) t' :: w)

/-- The 15 round keys of a 32-byte key. -/
def aesKeys (k : List Byte) : List Byte :=
  let w0 := (List.range 8).map (fun i => (k.drop (4 * i)).take 4)
  (aesExpand 52 8 1 w0.reverse).reverse.flatten

/-- ShiftRows on 16 bytes in column order. -/
def aesShift (s : List Byte) : List Byte := (List.range 16).map (fun i => lget 0 s ((i + 4 * (i % 4)) % 16))

/-- MixColumns of one column. -/
def aesMix (c : List Byte) : List Byte :=
  (List.range 4).map (fun i =>
    let a := lget 0 c i
    let b := lget 0 c ((i + 1) % 4)
    xtime a ^^^ (xtime b ^^^ b) ^^^ lget 0 c ((i + 2) % 4) ^^^ lget 0 c ((i + 3) % 4))

/-- The 13 middle rounds. -/
def aesRounds (ks : List Byte) : Nat → Nat → List Byte → List Byte
  | 0, _, s => s
  | n + 1, r, s =>
    let t := aesShift (s.map aesSub)
    let m := aesMix (t.take 4) ++ aesMix ((t.drop 4).take 4) ++ aesMix ((t.drop 8).take 4) ++ aesMix (t.drop 12)
    aesRounds ks n (r + 1) (xorBytes m ((ks.drop (16 * r)).take 16))

/-- AES-256 encryption of one block. -/
def aesEncrypt (key blk : List Byte) : List Byte :=
  let ks := aesKeys key
  let s := aesRounds ks 13 1 (xorBytes blk (ks.take 16))
  xorBytes (aesShift (s.map aesSub)) (ks.drop 224)

/-- The tweak times x in GF(2^128), little-endian. -/
def xtsDouble (t : List Byte) : List Byte :=
  let v := leVal t * 2
  leBytes 16 (if v ≥ 2 ^ 128 then (v - 2 ^ 128) ^^^ 0x87 else v)

/-- XTS encryption of `n` cipher blocks with tweak `t`. -/
def xtsBlocks (key : List Byte) : Nat → List Byte → List Byte → List Byte
  | 0, _, _ => []
  | n + 1, t, d => xorBytes (aesEncrypt key (xorBytes (d.take 16) t)) t ++ xtsBlocks key n (xtsDouble t) (d.drop 16)

/-- AES-256-XTS of one 128-byte line: data key, tweak key, line number (R242). (DEDUCED: notes/assumptions/8) -/
def xtsLine (k1 k2 : List Byte) (line : Nat) (d : List Byte) : List Byte :=
  xtsBlocks k1 8 (aesEncrypt k2 (leBytes 16 line)) d

end Sys2Proof.Machine
end

