-- ==== Sys2Proof/Machine/Mem.lean ====
section
/-! DEFINITION. The memory map and the last-level cache: windows (R23 to R26), placement (R222), lines and byte masks
(R224, R225), victims (R227), pins (R228), poison (R220), the controllers' bursts (R238, R241) and what a read of any agent
returns (R47, R225). -/

namespace Sys2Proof.Machine

open Sys2Proof

/-- The canonical form of memory: addresses strictly rising, no entry equal to the 0 that an unlisted address reads as. (DEDUCED: notes/assumptions/5) -/
def Memory.wf (m : List Host.Cell) : Bool := twf 0 m

/-! ### Windows -/

/-- Base of the deep window (R23). -/
def deepBase : Nat := 0x010000000000

/-- Base of the shoal window (R23). -/
def shoalBase : Nat := 0x080000000000

/-- Bytes of one slab (R25). -/
def slabBytes : Nat := 0x180000

/-- Base of the control and status space (R23). -/
def csrBase : Nat := 0x0F0000000000

/-- End of the near window: 1.5 GiB for each trained channel (R24, R238). -/
def State.nearEnd (s : State) : Nat := s.cap.near.length * 0x60000000

/-- End of the deep window: 16 GiB for each trained channel. -/
def State.deepEnd (s : State) : Nat := deepBase + s.cap.deep.length * 0x400000000

/-- End of the shoal window: the slab of the highest active core (R25). -/
def State.shoalEnd (s : State) : Nat := shoalBase + s.cap.activeCores * slabBytes

/-- The end of the data window an address lies in, if it lies in one (R23). The slabs of a withdrawn cluster lie outside every
window (R401). -/
def State.window (s : State) (a : Nat) : Option Nat :=
  if a < s.nearEnd then some s.nearEnd
  else if deepBase ≤ a ∧ a < s.deepEnd then some s.deepEnd
  else if shoalBase ≤ a ∧ a < s.shoalEnd then
    (if (tget ClusterSt.zero s.oxb.clusters ((a - shoalBase) / slabBytes / 16)).withdrawn then none else some s.shoalEnd)
  else none

/-- Is the address in a data window. -/
def State.inWindow (s : State) (a : Nat) : Bool := (s.window a).isSome

/-- Does the cache cache the address (R222): the near and deep windows. -/
def State.cachedAddr (s : State) (a : Nat) : Bool := decide (a < s.nearEnd) || (decide (deepBase ≤ a) && decide (a < s.deepEnd))

/-- An access of `len` bytes from `a` cut at its window's end (R59); 0 outside every window. -/
def State.cutLen (s : State) (a len : Nat) : Nat :=
  match s.window a with
  | none => 0
  | some e => min len (e - a)

/-- The owner of a slab address. -/
def slabOwner (a : Nat) : Nat := (a - shoalBase) / slabBytes

/-! ### Placement (R222) -/

/-- The line number of an address. -/
def lineOf (a : Nat) : Nat := a / 128

/-- The slice of a line. -/
def sliceOf (l : Nat) : Nat :=
  (bitsOf l 6 0) ^^^ (bitsOf l 13 7) ^^^ (bitsOf l 20 14) ^^^ (bitsOf l 27 21) ^^^ (bitsOf l 34 28) ^^^ (bitsOf l 40 35)

/-- The set of a line. -/
def setOf (l : Nat) : Nat := l / 128 % 1536

/-- The tag of a line. -/
def tagOf (l : Nat) : Nat := l / 128 / 1536

/-- The place of way 0 of a line's set: lines are numbered (slice × 1,536 + set) × 16 + way. -/
def setBase (l : Nat) : Nat := (sliceOf l * 1536 + setOf l) * 16

/-- The line number stored in place `p` with a tag: chunk 0 of L is the slice xor the other chunks. -/
def lineAt (p tag : Nat) : Nat :=
  let slice := p / 16 / 1536
  let h := tag * 1536 + p / 16 % 1536
  let x := (bitsOf h 6 0) ^^^ (bitsOf h 13 7) ^^^ (bitsOf h 20 14) ^^^ (bitsOf h 27 21) ^^^ (bitsOf h 33 28)
  h * 128 + (slice ^^^ x)

/-- Is the place in use: it holds valid bytes, a DEAD tag, or a line whose fill is outstanding. -/
def LLine.resident (l : LLine) : Bool := decide (l.valid ≠ 0) || l.dead || l.alloc

/-- One slice's record. -/
def State.slice (s : State) (i : Nat) : SliceSt := tget .zero s.llc.slices i

/-- Change one slice's record. -/
def State.modSlice (s : State) (i : Nat) (f : SliceSt → SliceSt) : State :=
  { s with llc := { s.llc with slices := tmod .zero s.llc.slices i f } }

/-- Number of set bits among the low `n`. -/
def popCount : Nat → Nat → Nat
  | 0, _ => 0
  | n + 1, v => v % 2 + popCount n (v / 2)

/-- Enabled ways of a slice; `waysOff` is the mask of ways that failed self-test (R223). A slice with fewer than 8 is disabled. -/
def SliceSt.ways (x : SliceSt) : Nat := if 16 - popCount 16 x.waysOff < 8 then 0 else 16 - popCount 16 x.waysOff

/-- PIN_QUOTA as it reads. -/
def State.pinQuota (s : State) : Nat := min s.llc.pinQuota 12

/-- The effective pin quota of a slice (R223). -/
def State.quotaEff (s : State) (i : Nat) : Nat := let w := (s.slice i).ways; if w = 0 then 0 else min s.pinQuota (w - 4)

/-- The place that holds a line, among ways 0 to 15. -/
def State.findLine (s : State) (l : Nat) : Option Nat :=
  findFirst (fun p => let x := tget LLine.zero s.llc.lines p; x.resident && decide (x.tag = tagOf l)) (rangeFrom (setBase l) 16)

/-- The cache line in a place. -/
def State.line (s : State) (p : Nat) : LLine := tget .zero s.llc.lines p

/-- Replace the cache line in a place. -/
def State.setLine (s : State) (p : Nat) (x : LLine) : State := { s with llc := { s.llc with lines := tset .zero s.llc.lines p x } }

/-- Change the cache line in a place. -/
def State.modLine (s : State) (p : Nat) (f : LLine → LLine) : State := s.setLine p (f (s.line p))

/-! ### What a read returns -/

/-- The byte memory holds, without the cache. (DEDUCED: notes/assumptions/5) -/
def State.memByte (s : State) (a : Nat) : Byte := tget 0 s.mem a

/-- Is the 32-byte sector of memory poisoned. -/
def State.memPoison (s : State) (a : Nat) : Bool := s.poison.contains (a / 32)

/-- Base of the result-slot region (R295). -/
def slotBase : Nat := 0x04000000

/-- Base of the command rings (R295). -/
def ringBase : Nat := 0x08000000

/-- Base of the bootstrap record (R295). -/
def bootBase : Nat := 0x0A000000

/-- Is an address in the regions only the device writes: result slots, bootstrap record, ring status (R297). -/
def deviceOnly (a : Nat) : Bool :=
  (decide (slotBase ≤ a) && decide (a < ringBase)) || (decide (bootBase ≤ a) && decide (a < bootBase + 0x5000))

/-- The 64-byte header of a slot (R308) followed by its data when READY (R310). -/
def Slot.bytes (x : Slot) : List Byte :=
  leBytes 8 x.tag.toNat ++ [BitVec.ofNat 8 x.phase, BitVec.ofNat 8 (if x.phase = 2 then x.code else 0)] ++ leBytes 2 x.queue ++
    leBytes 2 (if x.phase = 2 then x.data.length else 0) ++ leBytes 2 0 ++ leBytes 8 x.cmdTag.toNat ++
    leBytes 8 (if x.phase = 2 then x.mark else 0) ++ List.replicate 32 0 ++ (if x.phase = 2 then x.data else [])

/-- Active cores of a partition (R9). -/
def State.partCores (s : State) (p : Nat) : Nat := min 512 (s.cap.activeCores - 512 * p)

/-- A queue's ring-status entry (R307). (DEDUCED: notes/assumptions/12) -/
def State.ringStatus (s : State) (q : Nat) : List Byte :=
  let x := tget .zero s.queues q
  leBytes 8 x.statusExpected ++ leBytes 8 x.statusMark ++ [BitVec.ofNat 8 (b2n (s.partCores (q / 64) ≠ 0))] ++ List.replicate 47 0

/-- The byte a reader finds in the device-only regions (R296, R307, R308). -/
def State.deviceByte (s : State) (a : Nat) : Byte :=
  if a < ringBase then lget 0 (tget Slot.empty s.slots ((a - slotBase) / 0x1000)).bytes ((a - slotBase) % 0x1000)
  else if a < bootBase + 0x1000 then lget 0 s.cap.record (a - bootBase)
  else lget 0 (s.ringStatus ((a - bootBase - 0x1000) / 64)) ((a - bootBase - 0x1000) % 64)

/-- The newest byte written to an address, as every reader sees it (R47, R225); 0 outside every window (R26). (DESIGN CHOICE: notes/assumptions/14) -/
def State.peek (s : State) (a : Nat) : Byte :=
  if deviceOnly a && decide (a < s.nearEnd) then s.deviceByte a
  else if s.cachedAddr a then
    match s.findLine (lineOf a) with
    | some p => let x := s.line p; if x.valid.getLsbD (a % 128) then (x.data >>> (8 * (a % 128))).setWidth 8 else s.memByte a
    | none => s.memByte a
  else if s.inWindow a then s.memByte a else 0

/-- Does a read of an address return poisoned data (R220), as a strict read of a DEAD tag does (R234). -/
def State.peekPoison (s : State) (a : Nat) : Bool :=
  if s.cachedAddr a then
    match s.findLine (lineOf a) with
    | some p =>
      let x := s.line p
      if x.valid.getLsbD (a % 128) then x.poison.getLsbD (a % 128 / 32) else (x.dead && s.llc.strictDead) || s.memPoison a
    | none => s.memPoison a
  else s.inWindow a && s.memPoison a

/-- `n` bytes from an address. -/
def State.peekBytes (s : State) (a n : Nat) : List Byte := (List.range n).map (fun i => s.peek (a + i))

/-- Is any of `n` bytes poisoned. -/
def State.anyPoison (s : State) (a n : Nat) : Bool := (List.range n).any (fun i => s.peekPoison (a + i))

/-- A little-endian word read. -/
def State.peekWord (s : State) (a n : Nat) : Nat := leVal (s.peekBytes a n)

/-! ### The controllers (R238, R241) -/

/-- The tier, instance and channel-local place of an address: near or deep, the stack or package, the local address. -/
def State.channelOf (s : State) (a : Nat) : Bool × Nat × Nat :=
  let deep : Bool := decide (deepBase ≤ a)
  let list := if deep then s.cap.deep else s.cap.near
  let off := if deep then a - deepBase else a
  let g := off / 512
  let nc := list.length
  let key := lget 0 list (g % nc)
  (deep, (if deep then key % 24 else key % 8), g / nc * 512 + off % 512)

/-- Change the controller that serves an address. -/
def State.modCtl (s : State) (a : Nat) (f : MemCtl → MemCtl) : State :=
  let (deep, inst, _) := s.channelOf a
  if deep then { s with dt := tmod .zero s.dt inst f } else { s with nt := tmod .zero s.nt inst f }

/-- Store one byte in memory (DRAM or slab), keeping the list canonical. (DEDUCED: notes/assumptions/5) -/
def State.memSet (s : State) (a : Nat) (b : Byte) : State := { s with mem := tset 0 s.mem a b }

/-- Set or clear poison of one sector of memory. (DEDUCED: notes/assumptions/6) -/
def State.setPoison (s : State) (sector : Nat) (on : Bool) : State :=
  { s with poison := if on then ninsert sector s.poison else nremove sector s.poison }

/-- Store bytes in memory. -/
def State.memStore (s : State) : Nat → List Byte → State
  | _, [] => s
  | a, b :: t => State.memStore (s.memSet a b) (a + 1) t

/-- One burst of a masked write: bytes of `vals` where `mask` says so. A burst covered in part is read and merged (R241). A poisoned
source sector poisons the whole burst in memory (R220), and a burst merged with poison stays poisoned and stores the pattern again; only clean
bytes over the whole burst end its poison (R391). (DEDUCED: notes/assumptions/6) -/
def State.burstWrite (s : State) (a : Nat) (mask : Nat → Bool) (vals : Nat → Byte) (poisoned : Bool) : State :=
  let idx := (List.range 64).filter mask
  if idx.isEmpty then s
  else
    let full := decide (idx.length = 64)
    let on := poisoned || (!full && (s.memPoison a || s.memPoison (a + 32)))
    let s1 := idx.foldl (fun st i => st.memSet (a + i) (vals i)) s
    let s2 := s1.modCtl a (fun c => { c with writes := c.writes + 1, rmw := c.rmw + b2n (!full), poisonWrites := c.poisonWrites + b2n on })
    (s2.setPoison (a / 32) on).setPoison (a / 32 + 1) on

/-- Write back the dirty bytes of the line in place `p` with their mask (R227). The line is left as it is. -/
def State.writeBack (s : State) (p : Nat) : State :=
  let x := s.line p
  if x.dirty = 0 then s
  else
    let a := lineAt p x.tag * 128
    let byteOf (i : Nat) : Byte := (x.data >>> (8 * i)).setWidth 8
    let pz (h : Nat) : Bool := (List.range 2).any (fun k => x.poison.getLsbD (2 * h + k) && (List.range 32).any (fun i => x.dirty.getLsbD (64 * h + 32 * k + i)))
    let s1 := s.burstWrite a (fun i => x.dirty.getLsbD i) byteOf (pz 0)
    let s2 := s1.burstWrite (a + 64) (fun i => x.dirty.getLsbD (64 + i)) (fun i => byteOf (64 + i)) (pz 1)
    s2.modSlice (p / 16 / 1536) (fun c => { c with writebacks := c.writebacks + 1 })

/-! ### Replacement and pins -/

/-- The tree pseudo-LRU way among candidates: from the root, follow the bit's side when it holds a candidate, else the other.
Nodes are numbered 1 to 15, bit n of `t` is node n: 0 points to the lower half. -/
def plruWalk (t : Nat) (cand : Nat → Bool) : Nat → Nat → Nat → Nat → Nat
  | 0, _, lo, _ => lo
  | d + 1, node, lo, size =>
    let half := size / 2
    let lower := (rangeFrom lo half).any cand
    let upper := (rangeFrom (lo + half) half).any cand
    let goUp := if bitOf t node then upper else !lower
    if goUp then plruWalk t cand d (2 * node + 1) (lo + half) half else plruWalk t cand d (2 * node) lo half

/-- The tree after an access of way `w`: every node on the path points away from it. (DESIGN CHOICE: notes/assumptions/14) -/
def plruTouch (w : Nat) : Nat → Nat → Nat → Nat
  | 0, _, t => t
  | d + 1, node, t =>
    let up := bitOf w d
    let t' := if up then (if bitOf t node then t - 2 ^ node else t) else (if bitOf t node then t else t + 2 ^ node)
    plruTouch w d (2 * node + b2n up) t'

/-- Record an access of place `p`. -/
def State.touch (s : State) (p : Nat) : State :=
  { s with llc := { s.llc with plru := tmod 0 s.llc.plru (p / 16) (plruTouch (p % 16) 4 1) } }

/-- The victim place for line `l` (R227), none when every way is pinned or disabled. (DESIGN CHOICE: notes/assumptions/14) -/
def State.victim (s : State) (l : Nat) : Option Nat :=
  let sl := s.slice (sliceOf l)
  if sl.ways = 0 then none
  else
    let base := setBase l
    let cand (w : Nat) : Bool := !bitOf sl.waysOff w && !(s.line (base + w)).pinned
    match findFirst (fun w => cand w && !(s.line (base + w)).resident) (List.range 16) with
    | some w => some (base + w)
    | none =>
      match findFirst (fun w => cand w && (s.line (base + w)).dead) (List.range 16) with
      | some w => some (base + w)
      | none =>
        if (List.range 16).any cand then some (base + plruWalk (tget 0 s.llc.plru (base / 16)) cand 4 1 0 16) else none

/-- Pin the line in place `p`, or demote the pin (R228). -/
def State.pinPlace (s : State) (p : Nat) : State :=
  let x := s.line p
  if x.pinned || !x.resident || x.dead || x.prov.isSome then s
  else
    let base := p / 16 * 16
    let n := ((List.range 16).filter (fun w => (s.line (base + w)).pinned)).length
    let slice := p / 16 / 1536
    if n < s.quotaEff slice then s.setLine p { x with pinned := true }
    else s.modSlice slice (fun c => { c with pinDemoted := c.pinDemoted + 1 })

/-- Count a provisional line used or discarded in its queue's sequencer (R55). -/
def State.countRa (s : State) (q : Nat) (used : Bool) : State :=
  { s with seqs := tmod .zero s.seqs (q / 64) (fun c => if used then { c with raUsed := c.raUsed + 1 } else { c with raDiscarded := c.raDiscarded + 1 }) }

/-- Does the line in place `p` overlap any of the address ranges. -/
def State.lineIn (s : State) (p : Nat) (ranges : List (Nat × Nat)) : Bool :=
  let a := lineAt p (s.line p).tag * 128
  ranges.any (fun r => decide (a < r.2) && decide (r.1 < a + 128))

/-- The predicted expert that the line in place `p` was prefetched for (R213). -/
def State.ownedAt (s : State) (p : Nat) : Option PfOwned := findFirst (fun r => s.lineIn p r.ranges) s.dlt.owned

/-- Discard the provisional line in place `p` without write-back (R55); a line of expert weights counts in DLT_ too (R213). -/
def State.dropProv (s : State) (p : Nat) : State :=
  match (s.line p).prov with
  | none => s
  | some q =>
    let n := b2n (s.ownedAt p).isSome
    ({ s with dlt := { s.dlt with pfLinesDiscarded := s.dlt.pfLinesDiscarded + n } }.setLine p .zero).countRa q false

/-- Allocate a place for line `l`: evict the victim, writing its dirty bytes back (R227). The place comes back empty. -/
def State.allocate (s : State) (l : Nat) : State × Option Nat :=
  match s.victim l with
  | none => (s, none)
  | some p => ((s.writeBack p).setLine p .zero, some p)

/-- Put bytes into the data word of a line. -/
def lineInsert (d : BitVec 1024) (off : Nat) : List Byte → BitVec 1024
  | [] => d
  | b :: t => lineInsert ((d &&& ~~~((0xFF : BitVec 1024) <<< (8 * off))) ||| (b.setWidth 1024 <<< (8 * off))) (off + 1) t

/-- `n` ones from bit `off`. -/
def ones128 (off n : Nat) : BitVec 128 := BitVec.ofNat 128 ((2 ^ n - 1) * 2 ^ off)

/-- Poison of the four sectors after a write of `n` bytes at `off`: a poisoned write poisons the sectors it touches, a clean
write that covers a whole sector ends its poison (R220). -/
def sectorPoison (old : BitVec 4) (off n : Nat) (on : Bool) : BitVec 4 :=
  BitVec.ofNat 4 (((List.range 4).map (fun k =>
    let touched : Bool := decide (off < 32 * k + 32) && decide (32 * k < off + n)
    let covered : Bool := decide (off ≤ 32 * k) && decide (32 * k + 32 ≤ off + n)
    let v : Bool := if on && touched then true else if covered then false else old.getLsbD k
    2 ^ k * b2n v)).sum)

/-- A line's fields after a write (R224). When the write leaves a partly invalid sector of poisoned memory, the sector stays poisoned. -/
def LLine.wrote (x : LLine) (memP : Nat → Bool) (off : Nat) (bs : List Byte) (on : Bool) : LLine :=
  let n := bs.length
  let inherit : BitVec 4 := BitVec.ofNat 4 (((List.range 4).map (fun k => 2 ^ k * b2n (x.poison.getLsbD k || (x.valid = 0 && memP k)))).sum)
  { x with data := lineInsert x.data off bs, valid := x.valid ||| ones128 off n, dirty := x.dirty ||| ones128 off n,
           poison := sectorPoison inherit off n on, dead := false, alloc := false }

/-- A write of bytes that lie in one line (R224, R227): `on` marks the data poisoned, `pin` the descriptor's pin flag. -/
def State.lineWrite (s : State) (a : Nat) (bs : List Byte) (on pin : Bool) : State :=
  let l := lineOf a
  let si := sliceOf l
  let off := a % 128
  let s0 := s.modSlice si (fun c => { c with accesses := c.accesses + 1 })
  let direct (st : State) : State :=
    let st1 := st.modSlice si (fun c => { c with uncached := c.uncached + 1 })
    let m (h : Nat) (i : Nat) : Bool := decide (off ≤ 64 * h + i) && decide (64 * h + i < off + bs.length)
    let v (h : Nat) (i : Nat) : Byte := lget 0 bs (64 * h + i - off)
    (st1.burstWrite (l * 128) (m 0) (v 0) on).burstWrite (l * 128 + 64) (m 1) (v 1) on
  let memP (k : Nat) : Bool := s.memPoison (l * 128 + 32 * k)
  let finish (st : State) (p : Nat) : State :=
    let st1 := (st.modLine p (fun x => LLine.wrote { x with tag := tagOf l } memP off bs on)).touch p
    let st2 := if (st1.line p).pinned then st1
      else st1.modSlice si (fun c => { c with unpinnedAccesses := c.unpinnedAccesses + 1, intervalAccesses := c.intervalAccesses + 1 })
    if pin then st2.pinPlace p else st2
  if (s.slice si).ways = 0 then direct s0
  else
    let s1 := match s0.findLine l with
      | some p => s0.dropProv p
      | none => s0
    match s1.findLine l with
    | some p => finish s1 p
    | none =>
      match s1.allocate l with
      | (s2, some p) => finish s2 p
      | (s2, none) => direct s2

/-- The stretches of a byte list that lie in single lines: address and bytes; `n` bounds their number. -/
def lineChunks : Nat → Nat → List Byte → List (Nat × List Byte)
  | 0, _, _ => []
  | n + 1, a, bs =>
    if bs.isEmpty then []
    else
      let k := 128 - a % 128
      (a, bs.take k) :: lineChunks n (a + k) (bs.drop k)

/-- A write to a slab: visible when accepted (R218). -/
def State.slabWrite (s : State) (a : Nat) (bs : List Byte) (on : Bool) : State :=
  let s1 := s.memStore a bs
  let n := bs.length
  if n = 0 then s1
  else
    (rangeFrom (a / 32) ((a + n - 1) / 32 - a / 32 + 1)).foldl (fun st k =>
      let covered : Bool := decide (a ≤ 32 * k) && decide (32 * k + 32 ≤ a + n)
      if on then st.setPoison k true else if covered then st.setPoison k false else st) s1

/-- A write by a command or an engine to one window, cut by its caller (R46, R224). -/
def State.pokeP (s : State) (a : Nat) (bs : List Byte) (on pin : Bool) : State :=
  if s.cachedAddr a then (lineChunks (bs.length / 128 + 2) a bs).foldl (fun st c => st.lineWrite c.1 c.2 on pin) s
  else if s.inWindow a then s.slabWrite a bs on
  else s

/-- The part of a write that falls in `lo` to `hi − 1`. -/
def writePart (a : Nat) (bs : List Byte) (lo hi : Nat) : Nat × List Byte :=
  let f := max a lo
  (f, (bs.drop (f - a)).take (hi - f))

/-! ### What the sequencers notice of a write -/

/-- Address ranges that the decoded, uncompleted frames of a partition named at decode (R45). (DEDUCED: notes/assumptions/11) -/
def State.watched (s : State) (p : Nat) : List (Nat × Nat) :=
  (s.queues.filter (fun q => decide (q.1 / 64 = p))).flatMap (fun q => q.2.decoded.flatMap (fun c => c.watch)) ++
    ((tget SeqSt.zero s.seqs p).wake.filter (fun e => !e.ended)).flatMap (fun e => e.cmd.watch)

/-- Are `n` bytes from an address the same to every reader of both states. -/
def State.sameBytes (s0 s : State) (a n : Nat) : Bool := decide (s0.peekBytes a n = s.peekBytes a n)

/-- The distinct elements of a list. -/
def distinct {α : Type} [DecidableEq α] (l : List α) : List α := l.foldl (fun r x => if r.contains x then r else r ++ [x]) []

/-- A write of `n` bytes at `a` has become visible: each descriptor, program, feeder frame or group descriptor that it changes while a decoded,
uncompleted frame names it counts as late, once in a partition (R45, R169, R317). (DEDUCED: notes/assumptions/11) -/
def State.noticeDescs (s0 s : State) (a n : Nat) : State :=
  let hit (r : Nat × Nat) : Bool := decide (r.1 < a + n) && decide (a < r.1 + r.2) && !s0.sameBytes s r.1 r.2
  (List.range 4).foldl (fun st p =>
    let k := ((distinct (s0.watched p)).filter hit).length
    if k = 0 then st else { st with seqs := tmod SeqSt.zero st.seqs p (fun x => { x with descLate := x.descLate + k }) }) s

/-- The address of ring entry i of queue q (R305). -/
def ringEntry (q i : Nat) : Nat := ringBase + q * 0x20000 + i * 128

/-- Is a waiting ring entry still what it was when it arrived: its SEQ stands, and no byte has changed unless the queue expects it (R306). -/
def State.entryStands (s0 s : State) (q expected : Nat) (x : Nat × Nat) : Bool :=
  s0.sameBytes s (ringEntry q x.1) 128 || (decide (x.2 = expected) && s0.sameBytes s (ringEntry q x.1 + 0x78) 8)

/-- A write of `n` bytes at `a` has become visible: waiting frames it has changed are lost (R306). -/
def State.noticeRings (s0 s : State) (a n : Nat) : State :=
  if ringBase + 256 * 0x20000 ≤ a ∨ a + n ≤ ringBase then s
  else
    { s with queues := tmapAll QueueSt.zero (fun q x => if x.arrived.all (s0.entryStands s q x.expected) then x
        else { x with arrived := x.arrived.filter (s0.entryStands s q x.expected) }) s.queues }

/-- What the sequencers notice of a write that led from `s0` to `s` (R45, R306). -/
def State.noticed (s0 s : State) (a n : Nat) : State := s0.noticeRings (s0.noticeDescs s a n) a n

/-- A write by the host, device code, DMA or a command (R46, R59, R297): cut at its window's end, and losing its bytes in
the device-only regions, which counts once. `on` marks the data poisoned, `pin` is the descriptor's pin flag. -/
def State.store (s : State) (a : Nat) (bs : List Byte) (on pin : Bool) : State :=
  let cut := bs.take (s.cutLen a bs.length)
  let n := cut.length
  let lost := decide (a < bootBase + 0x5000) && (List.range n).any (fun i => deviceOnly (a + i))
  if lost then
    let parts := [(0, slotBase), (ringBase, bootBase), (bootBase + 0x5000, 2 ^ 48)].map (fun r => writePart a cut r.1 r.2)
    let s1 := parts.foldl (fun st p => if p.2.isEmpty then st else st.pokeP p.1 p.2 on pin) s
    s.noticed { s1 with est := { s1.est with ctr := { s1.est.ctr with writeDropped := s1.est.ctr.writeDropped + 1 } } } a n
  else if n = 0 then s else s.noticed (s.pokeP a cut on pin) a n

/-- A clean write without pin. -/
def State.poke (s : State) (a : Nat) (bs : List Byte) : State := s.store a bs false false

/-- Pin the resident lines of an address range, in place order (R228). -/
def State.pinRange (s : State) (lo hi : Nat) : State :=
  (s.llc.lines.map (·.1)).foldl (fun st p =>
    let a := lineAt p (st.line p).tag * 128
    if decide (a < hi) && decide (lo < a + 128) then st.pinPlace p else st) s

/-- The ciphertext the DRAM holds for a line (R242): the tier's two keys over the plaintext of the line. -/
def State.cipherLine (s : State) (l : Nat) : List Byte :=
  let t := if deepBase ≤ l * 128 then 8 else 0
  let key (o : Nat) : List Byte := ((s.memKeys.drop (t + o)).take 4).flatMap (fun w => leBytes 8 w.toNat)
  xtsLine (key 0) (key 4) l ((List.range 128).map (fun i => s.memByte (l * 128 + i)))

/-- Clear the cache (R236): write back every dirty byte, then invalidate every line. -/
def State.clearCache (s : State) : State :=
  let s1 := (s.llc.lines.map (·.1)).foldl (fun st p => st.writeBack p) s
  { s1 with llc := { s1.llc with lines := [], plru := [], misses := [] } }

end Sys2Proof.Machine
end

