-- ==== Sys2Proof/Machine/Tensor.lean ====
section
/-! DEFINITION. Tensors: where an element lies (R44), its value with its block scale (R90, R91), weight-sparsity metadata
(R96, R97), the zero-block bitmap (R98), reading and writing elements with the cuts of R59 and R60. -/

namespace Sys2Proof.Machine

open Sys2Proof

/-- A tensor with no elements (R41). -/
def TDesc.null : TDesc :=
  { handle := 0, isNull := true, base := 0, winEnd := 0, fmt := 0, rank := 1, zbMap := false, sparse := false, grad := false,
    stream := false, pin := false, layer := 0, dims := [0, 1, 1, 1], strides := [0, 0, 0], silt := 0, siltBase := 0,
    siltStrides := [0, 0, 0], scaleBase := 0, metaBase := 0 }

/-- DIM0 as stored in the descriptor. -/
def TDesc.raw0 (t : TDesc) : Nat := if t.isNull then 0 else lget 0 t.dims 0

/-- DIM0 after its clamp: a multiple of 32 for MX formats (R60). -/
def TDesc.d0 (t : TDesc) : Nat := if fmtMx t.fmt then upTo t.raw0 32 else t.raw0

/-- DIM1 to DIM3; 1 at or above RANK. -/
def TDesc.d (t : TDesc) (i : Nat) : Nat := if i = 0 then t.d0 else lget 1 t.dims i

/-- Rows: DIM1 × DIM2 × DIM3. -/
def TDesc.rows (t : TDesc) : Nat := t.d 1 * t.d 2 * t.d 3

/-- Elements by linear index (R44). -/
def TDesc.count (t : TDesc) : Nat := if t.isNull then 0 else t.d0 * t.rows

/-- The coordinates of a row number (R91). -/
def TDesc.rowIdx (t : TDesc) (r : Nat) : Nat × Nat × Nat := (r % t.d 1, r / t.d 1 % t.d 2, r / (t.d 1 * t.d 2))

/-- The number of row (i1, i2, i3) (R91). -/
def TDesc.rowNo (t : TDesc) (i1 i2 i3 : Nat) : Nat := i1 + t.d 1 * (i2 + t.d 2 * i3)

/-- The byte at which element `i0` of row `r` begins (R44). -/
def TDesc.addr (t : TDesc) (i0 r : Nat) : Nat :=
  let (i1, i2, i3) := t.rowIdx r
  t.base + i0 * fmtBits t.fmt / 8 + i1 * lget 0 t.strides 0 + i2 * lget 0 t.strides 1 + i3 * lget 0 t.strides 2

/-- Bytes of one element; a 4-bit element takes the byte it shares. -/
def TDesc.ebytes (t : TDesc) : Nat := max 1 (fmtBits t.fmt / 8)

/-- Does stored element `i0` of row `r` lie inside the extent (R60). -/
def TDesc.inside (t : TDesc) (i0 r : Nat) : Bool :=
  !t.isNull && decide (i0 < t.raw0) && decide (r < t.rows) && decide (t.addr i0 r + t.ebytes ≤ t.winEnd)

/-- The bits of stored element `i0` of row `r`; an overrun element reads zero (R59). -/
def TDesc.bits (t : TDesc) (s : State) (i0 r : Nat) : Nat :=
  if t.inside i0 r then
    let a := t.addr i0 r
    if fmtBits t.fmt = 4 then (if i0 % 2 = 0 then (s.peek a).toNat % 16 else (s.peek a).toNat / 16)
    else s.peekWord a t.ebytes
  else 0

/-- The address of a block's scale byte (R91). -/
def TDesc.scaleAddr (t : TDesc) (i0 r : Nat) : Nat := t.scaleBase + i0 / 32 + cdiv t.d0 32 * r

/-- The scale byte of an element; 0x7F for plain formats (R91). -/
def TDesc.scale (t : TDesc) (s : State) (i0 r : Nat) : Nat := if fmtMx t.fmt then (s.peek (t.scaleAddr i0 r)).toNat else 0x7F

/-- The value of element `i0` of row `r`, block scale included (R90). -/
def TDesc.val (t : TDesc) (s : State) (i0 r : Nat) : FVal :=
  if t.inside i0 r then applyScale (t.scale s i0 r) (decodeElem t.fmt (t.bits s i0 r)) else fzero

/-- Does reading the element touch poison. -/
def TDesc.poisoned (t : TDesc) (s : State) (i0 r : Nat) : Bool :=
  t.inside i0 r && (s.anyPoison (t.addr i0 r) t.ebytes || (fmtMx t.fmt && s.peekPoison (t.scaleAddr i0 r)))

/-- Does reading any of a row's elements `a` to `a + n − 1` touch poison. -/
def TDesc.rowPoison (t : TDesc) (s : State) (r a n : Nat) : Bool := (rangeFrom a n).any (fun i => t.poisoned s i r)

/-! ### Weight sparsity (R95 to R97); mode 1 is 2:4, mode 2 is 1:4 -/

/-- Metadata bytes of a row (R96). -/
def metaRowBytes (d0 w : Nat) : Nat := upTo (cdiv (cdiv d0 4 * w) 8) 8

/-- The stored index that holds logical position `k` of a row, if one does. -/
def TDesc.storedAt (t : TDesc) (s : State) (mode r k : Nat) : Option Nat :=
  let g := k / 4
  if mode = 1 then
    let b := (s.peek (t.metaBase + r * metaRowBytes t.d0 4 + g / 2)).toNat
    let nib := b / 16 ^ (g % 2) % 16
    let p1 := nib % 4
    let p2 := nib / 4
    if k % 4 = p1 then some (2 * g) else if p1 < p2 ∧ k % 4 = p2 then some (2 * g + 1) else none
  else
    let b := (s.peek (t.metaBase + r * metaRowBytes t.d0 2 + g / 4)).toNat
    if k % 4 = b / 4 ^ (g % 4) % 4 then some g else none

/-- The value at logical position `k` of a sparse or dense row: none where no stored value sits (R95). A last group cut by DIM0 keeps
the stored values its metadata names. (DESIGN CHOICE: notes/assumptions/76) -/
def TDesc.weight (t : TDesc) (s : State) (mode r k : Nat) : Option FVal :=
  if mode = 0 then some (t.val s k r)
  else
    match t.storedAt s mode r k with
    | none => none
    | some i =>
      if t.inside i r && decide (k < t.raw0) then some (applyScale (t.scale s k r) (decodeElem t.fmt (t.bits s i r)))
      else some fzero

/-- Does reading the weight at position `k` touch poison, its metadata included. -/
def TDesc.weightPoison (t : TDesc) (s : State) (mode r k : Nat) : Bool :=
  if mode = 0 then t.poisoned s k r
  else
    let w := if mode = 1 then 4 else 2
    s.peekPoison (t.metaBase + r * metaRowBytes t.d0 w + k / 4 / (8 / w)) ||
      (match t.storedAt s mode r k with
       | none => false
       | some i => t.inside i r && (s.anyPoison (t.addr i r) t.ebytes || (fmtMx t.fmt && s.peekPoison (t.scaleAddr k r))))

/-! ### The zero-block bitmap (R98) -/

/-- The byte that holds block `j` of row `r`. -/
def TDesc.zbAddr (t : TDesc) (r j : Nat) : Nat :=
  let b := if t.sparse then upTo (t.metaBase + t.rows * metaRowBytes t.d0 4) 64 else t.metaBase
  b + r * upTo (cdiv (cdiv t.d0 32) 8) 8 + j / 8

/-- Is block `j` of row `r` marked zero. -/
def TDesc.zb (t : TDesc) (s : State) (r j : Nat) : Bool := t.zbMap && bitOf (s.peek (t.zbAddr r j)).toNat (j % 8)

/-- Write one bitmap bit (R100). -/
def TDesc.zbSet (t : TDesc) (s : State) (r j : Nat) (z : Bool) : State :=
  if t.zbMap && !t.isNull && s.inWindow (t.zbAddr r j) then
    let a := t.zbAddr r j
    let b := s.peek a
    let m : Byte := BitVec.ofNat 8 (2 ^ (j % 8))
    s.store a [if z then b ||| m else b &&& ~~~m] false t.pin
  else s

/-- Set the bitmap bit of a block from the elements memory now holds (R100). -/
def TDesc.zbRefresh (t : TDesc) (s : State) (r j : Nat) : State :=
  if t.zbMap then
    (let z := (rangeFrom (32 * j) 32).all (fun i => isZero (t.val s i r))
     t.zbSet s r j z)
  else s

/-! ### Writing -/

/-- The linear index of element `i0` of row `r`. -/
def TDesc.lin (t : TDesc) (i0 r : Nat) : Nat := i0 + t.d0 * r

/-- Do the strides keep rows apart in ascending order, so that no two elements overlap (R44). -/
def TDesc.tight (t : TDesc) : Bool :=
  let rb := (t.raw0 * fmtBits t.fmt + 7) / 8
  let s1 := lget 0 t.strides 0
  let s2 := lget 0 t.strides 1
  let s3 := lget 0 t.strides 2
  let e1 := (t.d 1 - 1) * s1 + rb
  let e2 := (t.d 2 - 1) * s2 + e1
  (decide (t.d 1 ≤ 1) || decide (rb ≤ s1)) && (decide (t.d 2 ≤ 1) || decide (e1 ≤ s2)) && (decide (t.d 3 ≤ 1) || decide (e2 ≤ s3))

/-- Store bytes of row `r`, but for the bytes that a row of `ws` with a higher number covers: where one command writes overlapping
elements the one with the higher linear index wins (R44). `ws` holds the stretches the command writes out of ascending order: row, first
element, length. -/
def TDesc.storeBelow (t : TDesc) (s : State) (r : Nat) (ws : List (Nat × Nat × Nat)) (a : Nat) (bs : List Byte) (on : Bool) : State :=
  let covers (x : Nat × Nat × Nat) (k : Nat) : Bool :=
    decide (t.addr x.2.1 x.1 ≤ k) && decide (k < t.addr 0 x.1 + ((x.2.1 + x.2.2) * fmtBits t.fmt + 7) / 8)
  let excess := ws.filter (fun x => decide (r < x.1))
  if excess.isEmpty then s.store a bs on t.pin
  else (List.range bs.length).foldl (fun st i => if excess.any (fun x => covers x (a + i)) then st else st.store (a + i) [lget 0 bs i] on t.pin) s

/-- Write consecutive elements of one row from `i0` on; overrun and padding elements are dropped (R59, R60). `on` marks them poisoned,
`ws` is that of `storeBelow`. -/
def TDesc.writeRow (t : TDesc) (s : State) (r i0 : Nat) (bits : List Nat) (on : Bool) (ws : List (Nat × Nat × Nat)) : State :=
  let n := ((List.range bits.length).filter (fun j => t.inside (i0 + j) r)).length
  let vs := bits.take n
  if n = 0 then s
  else if fmtBits t.fmt = 4 then
    let first := i0 / 2
    let nb := (i0 + n - 1) / 2 - first + 1
    let a := t.addr i0 r
    let byteAt (b : Nat) : Byte :=
      let old := (s.peek (a + b)).toNat
      let nib (h : Nat) : Nat :=
        let e := 2 * (first + b) + h
        if i0 ≤ e ∧ e < i0 + n then lget 0 vs (e - i0) % 16 else old / 16 ^ h % 16
      BitVec.ofNat 8 (nib 0 + 16 * nib 1)
    t.storeBelow s r ws a ((List.range nb).map byteAt) on
  else t.storeBelow s r ws (t.addr i0 r) (vs.flatMap (fun v => leBytes t.ebytes v)) on

/-- Write a scale byte (R91). -/
def TDesc.writeScale (t : TDesc) (s : State) (r i0 : Nat) (b : Nat) (on : Bool) : State :=
  if t.isNull || !s.inWindow (t.scaleAddr i0 r) then s else s.store (t.scaleAddr i0 r) [BitVec.ofNat 8 b] on t.pin

/-- Does the extent overrun its window, over `n0` stored elements a row (R60, R96). -/
def TDesc.overruns (t : TDesc) (n0 : Nat) : Bool :=
  if t.isNull || decide (n0 = 0) || decide (t.rows = 0) then false
  else
    let span := (n0 - 1) * fmtBits t.fmt / 8 + t.ebytes + (t.d 1 - 1) * lget 0 t.strides 0 + (t.d 2 - 1) * lget 0 t.strides 1 + (t.d 3 - 1) * lget 0 t.strides 2
    decide (t.winEnd < t.base + span)

end Sys2Proof.Machine
end

