-- ==== Sys2Proof/Machine/Ops.lean ====
section
/-! DEFINITION. Shared operations: free values, weirs (R50), cores and requests, error records and the log (R392 to R394,
R441, R442), the norm table's contributions (R270, R271), result slots (R309), the throttle reason (R361). -/

namespace Sys2Proof.Machine

open Sys2Proof

/-! ### Free values and messages -/

/-- A free value of the manual: an opaque constant applied to a counter the machine advances. (DESIGN CHOICE: notes/assumptions/7) -/
def State.fresh (s : State) : Nat × State := (Config.freeNat s.freeCtr, { s with freeCtr := s.freeCtr + 1 })

/-- A free 64-bit word. (DESIGN CHOICE: notes/assumptions/7) -/
def State.freshWord (s : State) : W64 × State := (Config.freeWord s.freeCtr, { s with freeCtr := s.freeCtr + 1 })

/-- `n` free words. -/
def State.freshWords : Nat → State → List W64 × State
  | 0, s => ([], s)
  | n + 1, s =>
    let (w, s1) := s.freshWord
    let (ws, s2) := State.freshWords n s1
    (w :: ws, s2)

/-- Send a message. (DESIGN CHOICE: notes/assumptions/66) -/
def State.send (s : State) (m : OutMsg) : State := { s with out := s.out ++ [m] }

/-- How the port marks a RoCEv2 packet (R301): ECT(0), the configured DSCP, and the VLAN tag when VLAN_EN is set. -/
def EstCfg.netHdr (c : EstCfg) : NetHdr := { ecn := 2, dscp := c.dscp, vlan := if c.vlanEn then some (c.vlanId, c.pcp) else none }

/-- Send a RoCEv2 message (R301). (DESIGN CHOICE: notes/assumptions/66) -/
def State.sendRoce (s : State) (m : OutMsg) : State := s.send (.roce s.est.cfg.netHdr m)

/-! ### Weirs -/

/-- One arrival (R50). -/
def Weir.arrive (w : Weir) : Weir :=
  if w.target = 0 then { w with gen := (w.gen + 1) % 65536 }
  else if w.arrived + 1 = w.target then { w with arrived := 0, gen := (w.gen + 1) % 65536 }
  else { w with arrived := w.arrived + 1 }

/-- A new target (R50): whole targets already arrived open the weir. -/
def Weir.arm (w : Weir) (t : Nat) : Weir :=
  if t = 0 then { target := 0, arrived := 0, gen := (w.gen + w.arrived) % 65536 }
  else { target := t, arrived := w.arrived % t, gen := (w.gen + w.arrived / t) % 65536 }

/-- Is a wait for generation `g` met (R51). -/
def Weir.met (w : Weir) (g : Nat) : Bool := decide ((w.gen + 65536 - g % 65536) % 65536 < 32768)

/-- One weir. -/
def State.weir (s : State) (i : Nat) : Weir := tget .zero s.weirs i

/-- The operations of the cycle under way at weir `i`: those at this local time since waits were last tested (R52). (DESIGN CHOICE: notes/assumptions/69) -/
def State.weirCycle (s : State) (i : Nat) : WeirOps :=
  let o := tget WeirOps.zero s.weirOps i
  if o.at' = s.nowNs + 1 then o else { WeirOps.zero with at' := s.nowNs + 1, was := s.weir i }

/-- Waits are tested, or a weir is read: the cycle is over (R52). (DESIGN CHOICE: notes/assumptions/69) -/
def State.closeWeirs (s : State) : State := { s with weirOps := [] }

/-- Put an arm behind those of its own and lower places (R52). (DESIGN CHOICE: notes/assumptions/69) -/
def armInsert (key t : Nat) : List (Nat × Nat) → List (Nat × Nat)
  | [] => [(key, t)]
  | x :: rest => if key < x.1 then (key, t) :: x :: rest else x :: armInsert key t rest

/-- `n` arrivals. -/
def Weir.arrivals : Nat → Weir → Weir
  | 0, w => w
  | n + 1, w => Weir.arrivals n w.arrive

/-- The weir after its cycle's operations: arms in their order, then arrivals (R50, R52). -/
def WeirOps.result (o : WeirOps) : Weir := Weir.arrivals o.arrivals (o.arms.foldl (fun w a => w.arm a.2) o.was)

/-- An arrival at weir `i`. -/
def State.arriveWeir (s : State) (i : Nat) : State :=
  let o := s.weirCycle i
  { s with weirs := tmod .zero s.weirs i Weir.arrive, weirOps := tset .zero s.weirOps i { o with arrivals := o.arrivals + 1 } }

/-- Arm weir `i`; `key` is the queue of a WEIR_ARM command, or 256 more than the core that writes the register (R52). -/
def State.armWeir (s : State) (i t key : Nat) : State :=
  let o := s.weirCycle i
  let o1 := { o with arms := armInsert key t o.arms }
  { s with weirs := tset .zero s.weirs i o1.result, weirOps := tset .zero s.weirOps i o1 }

/-! ### Cores, queues, entries -/

/-- One logical core. -/
def State.core (s : State) (c : Nat) : CoreSt := tget .zero s.cores c

/-- Change one logical core. -/
def State.modCore (s : State) (c : Nat) (f : CoreSt → CoreSt) : State := { s with cores := tmod .zero s.cores c f }

/-- Change a core's vector engine. -/
def State.modVec (s : State) (c : Nat) (f : VecSt → VecSt) : State := s.modCore c (fun x => { x with vec := f x.vec })

/-- Change a core's MX_ registers. -/
def State.modMx (s : State) (c : Nat) (f : MxSt → MxSt) : State := s.modCore c (fun x => { x with mx := f x.mx })

/-- Change a core's basin. -/
def State.modBsn (s : State) (c : Nat) (f : BsnSt → BsnSt) : State := s.modCore c (fun x => { x with bsn := f x.bsn })

/-- Change a core's sluice. -/
def State.modSlc (s : State) (c : Nat) (f : SlcSt → SlcSt) : State := s.modCore c (fun x => { x with slc := f x.slc })

/-- Change a core's DMA engine. -/
def State.modDma (s : State) (c : Nat) (f : DmaSt → DmaSt) : State := s.modCore c (fun x => { x with dma := f x.dma })

/-- Is a reset of a base-die unit in progress (R435, R436). -/
def State.unitInReset (s : State) (unit inst : Nat) : Bool := s.rst.active.contains (3, 256 * unit + inst)

/-- A request that meets a resetting unit is parked and answered retry (R436): its requester is noted, and sends it again after
the resume. -/
def State.park (s : State) (unit inst : Nat) (r : Requester) : State :=
  if s.rst.parked.contains (256 * unit + inst, r) then s else { s with rst := { s.rst with parked := s.rst.parked ++ [(256 * unit + inst, r)] } }

/-- Is a logical core in the scope of a reset in progress (R430). -/
def State.coreInReset (s : State) (c : Nat) : Bool :=
  s.rst.active.any (fun r => decide (r = (0, c)) || decide (r = (1, c / 16)) || decide (r = (2, c / 512)))

/-- The sequencer of a partition. -/
def State.seqr (s : State) (p : Nat) : SeqSt := tget .zero s.seqs p

/-- Change a sequencer. -/
def State.modSeq (s : State) (p : Nat) (f : SeqSt → SeqSt) : State := { s with seqs := tmod .zero s.seqs p f }

/-- One queue. -/
def State.queue (s : State) (q : Nat) : QueueSt := tget .zero s.queues q

/-- Change one queue. -/
def State.modQueue (s : State) (q : Nat) (f : QueueSt → QueueSt) : State := { s with queues := tmod .zero s.queues q f }

/-- Is this entry the one of command (queue, seq). -/
def WakeEntry.isFor (e : WakeEntry) (q seq : Nat) : Bool := decide (e.cmd.queue = q) && decide (e.cmd.seq = seq)

/-- The wake-log entry of a reached command (R56). -/
def State.entry (s : State) (q seq : Nat) : Option WakeEntry := findFirst (fun e => e.isFor q seq) (s.seqr (q / 64)).wake

/-- Change the wake-log entry of a reached command. -/
def State.modEntry (s : State) (q seq : Nat) (f : WakeEntry → WakeEntry) : State :=
  s.modSeq (q / 64) (fun x => { x with wake := x.wake.map (fun e => if e.isFor q seq then f e else e) })

/-- Every wake-log entry of the device, partition by partition. -/
def State.allEntries (s : State) : List WakeEntry := s.seqs.flatMap (fun p => p.2.wake)

/-- The first logical core of a command. -/
def Cmd.firstCore (c : Cmd) : Nat := c.queue / 64 * 512 + c.coreFirst

/-- The number of a command's cores for R83: 0 for a command that names none. -/
def Cmd.cores (c : Cmd) : List Nat := rangeFrom c.firstCore c.coreCount

/-- Is a logical core served: active and not of a withdrawn cluster (R401). -/
def State.servedCore (s : State) (c : Nat) : Bool :=
  decide (c < s.cap.activeCores) && !(tget ClusterSt.zero s.oxb.clusters (c / 16)).withdrawn

/-- The core that runs the share of command core `c`: itself, or for a withdrawn cluster the core at its position in the nearest
lower served cluster of the partition, else the nearest higher one (R401). -/
def State.runsFor (s : State) (c : Nat) : Nat :=
  if s.servedCore c then c
  else
    let p := c / 512
    let lower := ((List.range (c / 16 - 32 * p)).map (fun k => c / 16 - 1 - k))
    let upper := rangeFrom (c / 16 + 1) (32 * p + 31 - c / 16)
    match findFirst (fun cl => s.servedCore (16 * cl)) (lower ++ upper) with
    | some cl => 16 * cl + c % 16
    | none => c

/-- Is this the first time the row that executes the command meets it: reached, of this opcode, not yet run, not ended. -/
def State.ready (s : State) (q seq op : Nat) : Option WakeEntry :=
  match s.entry q seq with
  | none => none
  | some e => if e.cmd.opcode = op ∧ e.started = false ∧ e.ended = false then some e else none

/-- A command's work is done: its code, result bytes and row effects wait for the completion of R46. -/
def State.ran (s : State) (q seq code : Nat) (result : List Byte) (effects : List RowEffect) : State :=
  s.modEntry q seq (fun e => { e with started := true, ran := true, phase := 1, code := code, result := result,
                                      effects := e.effects ++ effects })

/-! ### The ledger's bookings (R372 to R376) -/

/-- REQ_ID of a TAG (R372). -/
def reqId (tag : W64) : Nat := (tag >>> 32).toNat

/-- LAST of a TAG (R372). -/
def reqLast (tag : W64) : Bool := tag.getLsbD 31

/-- The place of an open request. -/
def JuiSt.findReq (j : JuiSt) (q id : Nat) : Option Nat :=
  (findFirst (fun p => match p.2 with
    | some r => decide (r.queue = q) && decide (r.reqId = id)
    | none => false) j.places).map (·.1)

/-- The lowest free place of 4,096. -/
def JuiSt.freePlace (j : JuiSt) : Option Nat :=
  findFirst (fun k => (tget none j.places k).isNone) (List.range (j.places.length + 1)) |>.filter (· < 4096)

/-- Open the request of a command if it is not open (R373); false when it goes to the overflow account. -/
def JuiSt.openReq (j : JuiSt) (q id mark : Nat) : JuiSt × Bool :=
  match j.findReq q id with
  | some _ => (j, true)
  | none =>
    match j.freePlace with
    | none => (j, false)
    | some k => ({ j with places := tset none j.places k (some { Req.zero with queue := q, reqId := id, firstMark := mark }) }, true)

/-- Change the open request of (queue, REQ_ID), or the overflow account. -/
def JuiSt.modReq (j : JuiSt) (q id : Nat) (f : Req → Req) : JuiSt :=
  match j.findReq q id with
  | some k => { j with places := tmod none j.places k (fun o => o.map f) }
  | none => { j with overflow := f j.overflow }

/-- Book `n` events of an activity class to a request (R375). -/
def State.book (s : State) (q id cls n : Nat) : State :=
  { s with jui := s.jui.modReq q id (fun r => { r with curAct := lmod r.curAct cls (· + n) }) }

/-- Book events to the request of a command. (DESIGN CHOICE: notes/assumptions/49) -/
def State.bookCmd (s : State) (c : Cmd) (cls n : Nat) : State := s.book c.queue (reqId c.tag) cls n

/-- Book unit-ns of occupancy (R376). -/
def State.bookOcc (s : State) (q id n : Nat) : State :=
  { s with jui := s.jui.modReq q id (fun r => { r with curOcc := r.curOcc + n }) }

/-! ### Throttle reason (R361) -/

/-- The effective spillway level (R354): the lowest of its sources. -/
def SpwSt.level (x : SpwSt) : Nat :=
  min x.lvSlow (min x.lvPeak (min x.lvCurrent (min x.lvBucket (min x.lvDroop (min x.lvThermal x.lvCoolant)))))

/-- MEM_LEVEL: the lower of the slow loop's level and the near-tier loop's (R351, R359). (DEDUCED: notes/assumptions/86) -/
def SpwSt.memLevel (x : SpwSt) : Nat := min x.memSlow x.memHot

/-- The reason codes whose cause holds, for the highest (R361). -/
def SpwSt.reason (x : SpwSt) : Nat :=
  if x.stop = 2 then 9
  else if x.stop = 1 || decide (x.lvCoolant < 16) then 8
  else if x.lvDroop < 16 then 7
  else if x.lvPeak < 16 then 6
  else if decide (x.lvThermal < 16) || (x.thermalHold && decide (x.freq < x.freqBase)) then 5
  else if x.lvCurrent < 16 then 4
  else if decide (x.lvBucket < 16) || x.bucketFull then 3
  else if x.memHot < 16 then 2
  else if decide (x.lvSlow < 16) || decide (x.memSlow < 16) || decide (x.linkLevel < 16) || (x.powerHold && decide (x.freq < x.freqBase)) then 1
  else 0

/-- May a core issue rows at all: level 0 allows none (R354). -/
def State.rowsIssue (s : State) : Bool := decide (s.spw.level ≠ 0)

/-- A wake trigger (R365): during entry it is kept until entry completes. -/
def State.wakeTrigger (s : State) : State :=
  if s.spw.slack = 1 then { s with spw := { s.spw with slackWake := true } }
  else if s.spw.slack = 2 then { s with spw := { s.spw with slack := 3 } }
  else s

/-! ### Error records and the log -/

/-- Do the conditions of the promise hold (R390). -/
def State.promise (s : State) : Bool :=
  (List.range 8).all (fun k => (tget MemCtl.zero s.nt k).scrubHours ≠ 0) && (List.range 24).all (fun k => (tget MemCtl.zero s.dt k).scrubHours ≠ 0) &&
  (decide (s.tide.st = 1) || decide (s.tide.st = 2)) && decide (s.spw.reason < 8) && s.pins.flowOk &&
  (List.range s.cap.activeCores).all (fun c => (s.core c).mx.checkEn && (s.core c).vec.residueEn) && s.train.checkEn &&
  s.poison.isEmpty && s.oxb.pendingReset.isEmpty && s.coll.repairs.all (·.complete) &&
  (match findFirst (fun r => r.1 = 0) s.gau.rails with
   | some r => decide (6000 ≤ r.2.1) && decide (r.2.1 ≤ 8000)
   | none => true)

/-- The 64 bytes of an error record (R392). -/
def ErrRec.bytes (r : ErrRec) : List Byte :=
  let b := leBytes 2 1 ++ leBytes 1 r.cls ++ leBytes 1 r.action ++ leBytes 2 r.unit ++ leBytes 2 r.inst ++ leBytes 8 r.errSeq ++
    leBytes 8 r.tideCount ++ leBytes 4 r.phaseNs ++ leBytes 1 r.tideState ++ leBytes 1 r.rflags ++ leBytes 2 r.queue ++
    leBytes 8 r.cmdSeq ++ leBytes 8 r.addr ++ leBytes 8 r.detail ++ leBytes 4 r.count
  b ++ leBytes 4 (crc32c b).toNat

/-- Add an entry to the persistent log (R441); it reaches flash by LOG_FLASH_WRITE. (DEDUCED: notes/assumptions/55) -/
def State.addLog (s : State) (type : Nat) (rec : List Byte) : State :=
  { s with gau := { s.gau with logPending := s.gau.logPending ++ [(s.gau.logSeq, type, rec)], logSeq := s.gau.logSeq + 1 } }

/-- A gauge event entry: code, tide count, 32 bytes of detail (R442). (DEDUCED: notes/assumptions/62) -/
def State.gaugeEvent (s : State) (code : Nat) (detail : List Byte) : State :=
  s.addLog 4 (leBytes 8 code ++ leBytes 8 s.tide.count ++ padTo 32 detail)

/-- A formed record goes to the log and towards the error ring; while the gauge restarts it waits in the bed die (R394, R438). (DEDUCED: notes/assumptions/62) -/
def State.keepRecord (s : State) (r : ErrRec) : State :=
  if s.gau.up then
    let s1 := s.addLog 1 r.bytes
    { s1 with gau := { s1.gau with ringQueue := s1.gau.ringQueue ++ [r] } }
  else if s.gau.bedQueue.length < 256 then { s with gau := { s.gau with bedQueue := s.gau.bedQueue ++ [r] } }
  else { s with gau := { s.gau with logLost := s.gau.logLost + 1 } }

/-- Form an error record (R392), or merge it into the one before (R394). `cmd` names the affected command; `fl` holds RFLAGS bits 1, 2. (DEDUCED: notes/assumptions/22) -/
def State.raise (s : State) (cls action unit inst : Nat) (cmd : Option (Nat × Nat)) (addr detail fl : Nat) : State :=
  let fresh (st : State) : State :=
    let r : ErrRec :=
      { cls := cls, action := action, unit := unit, inst := inst, errSeq := st.gau.errSeq, tideCount := st.tide.count,
        phaseNs := st.tide.phaseNs, tideState := st.tide.st, rflags := b2n st.promise + fl,
        queue := (cmd.map (·.1)).getD 0xFFFF, cmdSeq := (cmd.map (·.2)).getD 0, addr := addr, detail := detail % 2 ^ 64, count := 1,
        atNs := st.nowNs }
    let st1 := { st with gau := { st.gau with errSeq := st.gau.errSeq + 1, errRecords := st.gau.errRecords + 1, lastErr := some r } }
    st1.keepRecord r
  match s.gau.lastErr with
  | some r =>
    if r.cls = cls ∧ r.unit = unit ∧ r.inst = inst ∧ r.addr = addr ∧ s.nowNs ≤ r.atNs + 1000000 then
      let r' := { r with count := r.count + 1 }
      let upd (x : ErrRec) : ErrRec := if x.errSeq = r.errSeq then r' else x
      let rq := if s.gau.ringQueue.any (fun x => x.errSeq = r.errSeq) then s.gau.ringQueue.map upd
        else if s.gau.up then s.gau.ringQueue ++ [r'] else s.gau.ringQueue
      { s with gau := { s.gau with lastErr := some r', ringQueue := rq, bedQueue := s.gau.bedQueue.map upd } }
    else fresh s
  | none => fresh s

/-- Request the partition reset of R401: the partition, one more than the local time of the request (0 once its second is over), and
whether it is asked for at once. (DEDUCED: notes/assumptions/51) -/
def State.wantPartitionReset (s : State) (p : Nat) (now : Bool) : State :=
  let keep := s.oxb.pendingReset.filter (fun r => r.1 ≠ p)
  let was := findFirst (fun r => decide (r.1 = p)) s.oxb.pendingReset
  let t := (was.map (·.2.1)).getD (s.nowNs + 1)
  let n := now || ((was.map (·.2.2)).getD false)
  { s with oxb := { s.oxb with pendingReset := keep ++ [(p, t, n)] } }

/-- The physical core under a logical core (R18, R424). -/
def State.physical (s : State) (c : Nat) : Nat :=
  let cl := tget ClusterSt.zero s.oxb.clusters (c / 16)
  cl.site * 18 + lget 0 cl.pos (c % 16)

/-- A core declared failed (R396, R397): a CORE_FAILED record and the partition reset at once. (DEDUCED: notes/assumptions/22) -/
def State.coreFailed (s : State) (c : Nat) (cmd : Option (Nat × Nat)) : State :=
  let p := s.physical c
  let s1 := { s with boot := { s.boot with failedCores := ninsert p s.boot.failedCores } }
  (s1.raise 0x0F 5 0x25 p cmd 0 c 0).wantPartitionReset (c / 512) true

/-! ### The norm table (R269 to R271) -/

/-- One row. -/
def State.row (s : State) (r : Nat) : NormRow := tget .zero s.train.rows r

/-- Change one row. -/
def State.modRow (s : State) (r : Nat) (f : NormRow → NormRow) : State :=
  { s with train := { s.train with rows := tmod .zero s.train.rows r f } }

/-- The exact magnitude of a value in units of 2^-2148 (R270). (DEDUCED: notes/assumptions/36) -/
def exactUnits : FVal → Option Nat
  | .fin _ m e => some (m * pow2 (e + 2148))
  | _ => none

/-- The square of a finite value in the same units. -/
def squareUnits : FVal → Option Nat
  | .fin _ m e => some (m * m * pow2 (2 * e + 2148))
  | _ => none

/-- An exact sum read as binary64 (R270). (DEDUCED: notes/assumptions/36) -/
def unitsTo64 (u : Nat) : FVal := rne f64 (.rat false u 1 (-2148) false)

/-- A scale observation enters an entry and its peak (R153). -/
def EstEntry.observe (x : EstEntry) (o : Int) : EstEntry := { est := if x.set then max x.est o else o, set := true }

/-- One contribution of a command at its completion (R270, R271, R153). -/
def NormRow.apply (x : NormRow) : RowEffect → NormRow
  | .sumSq _ f sum n =>
    let add := sum.getD 0
    let y := if sum.isNone then { x with nonfinite := true } else x
    if f = 0 then { y with tapSq := y.tapSq + add, tapN := y.tapN + n }
    else if f = 1 then { y with passSq := y.passSq + add, passN := y.passN + n }
    else { y with wsq := y.wsq + add, wn := y.wn + n }
  | .nonfinite _ => { x with nonfinite := true }
  | .observe _ g o =>
    if g then { x with estG := x.estG.observe o, peakG := omax x.peakG (some o) }
    else { x with estN := x.estN.observe o, peakN := omax x.peakN (some o) }
  | .updated _ => { x with updated := true }
  | .held _ r => if x.held then x else { x with held := true, holdReason := r }
  | .lrK _ k => { x with lrK := k }
  | .fingerprint _ h w t => { x with fps := x.fps.filter (fun y => y.1 ≠ h) ++ [(h, w, t)] }
  | .clearW _ => { x with wsq := 0, wn := 0 }

/-- The row of a contribution. -/
def RowEffect.row : RowEffect → Nat
  | .sumSq r _ _ _ => r
  | .nonfinite r => r
  | .observe r _ _ => r
  | .updated r => r
  | .held r _ => r
  | .lrK r _ => r
  | .fingerprint r _ _ _ => r
  | .clearW r => r

/-- Apply contributions in order. -/
def State.applyEffects (s : State) (es : List RowEffect) : State := es.foldl (fun st e => st.modRow e.row (fun x => x.apply e)) s

/-- An estimate entry as 16 bits (R148). -/
def EstEntry.bits (x : EstEntry) : Nat := wrap 8 x.est + 256 * b2n x.set

/-- The 128-byte image of a row (R269). -/
def NormRow.bytes (x : NormRow) : List Byte :=
  let f (u : Nat) : List Byte := leBytes 8 (to64 (unitsTo64 u)).toNat
  let pk (p : Option Int) : List Byte := leBytes 1 (wrap 8 (p.getD 0))
  let fl := b2n x.nonfinite + 2 * b2n x.updated + 4 * b2n x.held + 8 * b2n x.epoch + 16 * b2n x.peakG.isSome + 32 * b2n x.peakN.isSome
  f x.tapSq ++ leBytes 8 x.tapN ++ f x.passSq ++ leBytes 8 x.passN ++ f x.wsq ++ leBytes 8 x.wn ++
    leBytes 2 x.estG.bits ++ leBytes 2 x.estN.bits ++ leBytes 2 x.estGC.bits ++ leBytes 2 x.estNC.bits ++
    pk x.peakG ++ pk x.peakN ++ leBytes 1 fl ++ leBytes 1 x.lrK ++ leBytes 1 x.holdReason ++ List.replicate 3 0 ++
    leBytes 8 x.stepFlipped.toNat ++ List.replicate 56 0

/-- The estimate a command read at reach (R154). -/
def WakeEntry.est (e : WakeEntry) (row : Nat) (g : Bool) : EstEntry :=
  match findFirst (fun x => x.1 = row) e.ests with
  | some x => if g then x.2.1 else x.2.2
  | none => .zero

/-- EPOCH as read at reach (R268). -/
def WakeEntry.epoch (e : WakeEntry) (row : Nat) : Bool :=
  match findFirst (fun x => x.1 = row) e.epochs with
  | some x => x.2
  | none => false

/-! ### Result slots (R309) -/

/-- The slot tag of a command (R308). -/
def slotTag (q seq : Nat) : W64 := BitVec.ofNat 64 (q * 2 ^ 56 + seq % 2 ^ 56)

/-- Step 3 of a completion (R46, R309). -/
def State.postResult (s : State) (c : Cmd) (code : Nat) (data : List Byte) : State :=
  let sl := tget Slot.empty s.slots c.slot
  if sl.phase ≠ 0 ∧ sl.tag = slotTag c.queue c.seq then
    let sl' : Slot := { sl with phase := 2, code := code, queue := c.queue, cmdTag := c.tag, mark := s.tide.count, data := data.take 4032 }
    { s with slots := tset .empty s.slots c.slot sl' }
  else { s with est := { s.est with ctr := { s.est.ctr with slotSuperseded := s.est.ctr.slotSuperseded + 1 } } }

end Sys2Proof.Machine
end

