-- ==== Sys2Proof/Machine/LlcFam.lean ====
section
/-! DEFINITION. The cache's own events: reads, writes and fills (R224, R225), range operations (R231 to R234), the slab port
(R218), patrol scrubbing (R219), and provisional lines (R55, R213). -/

namespace Sys2Proof.Machine

open Sys2Proof

/-- The queue a run-ahead request's provisional line belongs to (R55). -/
def requesterQueue : Requester → Option Nat
  | .runAhead q => some q
  | _ => none

/-- Are `n` bytes from offset `off` all valid in a line. -/
def LLine.covers (x : LLine) (off n : Nat) : Bool := decide (x.valid &&& ones128 off n = ones128 off n)

/-- A line after a fill from memory: only the bytes still invalid are set (R225). -/
def State.filled (s : State) (l : Nat) (x : LLine) : LLine :=
  let base := l * 128
  let data := (List.range 128).foldl (fun d i => if x.valid.getLsbD i then d else lineInsert d i [s.memByte (base + i)]) x.data
  let pz (k : Nat) : Bool := x.poison.getLsbD k || (!x.covers (32 * k) 32 && s.memPoison (base + 32 * k))
  { x with tag := tagOf l, data := data, valid := BitVec.allOnes 128, dead := false, alloc := false,
           poison := BitVec.ofNat 4 (((List.range 4).map (fun k => 2 ^ k * b2n (pz k))).sum) }

/-- Count the two bursts a line fill reads. -/
def State.countFillReads (s : State) (l : Nat) : State := s.modCtl (l * 128) (fun c => { c with reads := c.reads + 2 })

/-- Count a request to a slice that finds or allocates a line that is not pinned (R235). -/
def State.countUnpinned (s : State) (si : Nat) (miss : Bool) : State :=
  s.modSlice si (fun c => { c with unpinnedAccesses := c.unpinnedAccesses + 1, intervalAccesses := c.intervalAccesses + 1,
                                   unpinnedMisses := c.unpinnedMisses + b2n miss, intervalMisses := c.intervalMisses + b2n miss })

/-- NT_ and DT_ counters of writes as they stood in `s0`: what run-ahead writes back counts in none of them (R54). (DEDUCED: notes/assumptions/13) -/
def State.keepWriteCounts (s0 s : State) : State :=
  let keep (t0 t : Tbl MemCtl) : Tbl MemCtl := tmapAll MemCtl.zero (fun k c =>
    let o := tget MemCtl.zero t0 k
    { c with writes := o.writes, rmw := o.rmw, poisonWrites := o.poisonWrites }) t
  { s with nt := keep s0.nt s.nt, dt := keep s0.dt s.dt }

/-- The key of the channel that serves an address (R238). -/
def State.channelKey (s : State) (a : Nat) : Nat :=
  let deep : Bool := decide (deepBase ≤ a)
  let list := if deep then s.cap.deep else s.cap.near
  lget 0 list ((if deep then a - deepBase else a) / 512 % list.length)

/-- Poison the place of an uncorrectable error: a burst in memory, a sector in a slab or in the cache. (DEDUCED: notes/assumptions/6) -/
def State.poisonAt (s : State) (level a : Nat) : State :=
  if level = 2 then s.setPoison (a / 32) true
  else if level = 3 ∨ level = 4 then
    match s.findLine (lineOf a) with
    | some p => s.modLine p (fun x => { x with poison := x.poison ||| BitVec.ofNat 4 (2 ^ (a % 128 / 32)) })
    | none => s
  else (s.setPoison (a / 64 * 2) true).setPoison (a / 64 * 2 + 1) true

/-- Is the place of an error poisoned already: then it forms no new record (R220). -/
def State.poisonedAt (s : State) (level a : Nat) : Bool :=
  if level = 2 ∨ level = 5 ∨ level = 6 then s.memPoison a
  else match s.findLine (lineOf a) with
    | some p => (s.line p).poison.getLsbD (a % 128 / 32)
    | none => false

/-- An uncorrectable error at an address (R219, R393): poison and a STORAGE_UE record; the syndrome is free. -/
def State.storageUe (s : State) (level inst a : Nat) : State :=
  if s.poisonedAt level a then s
  else
    let (syn, s1) := s.fresh
    let unit := if level = 5 then 4 else if level = 6 then 5 else if level = 3 ∨ level = 4 then 3 else 0x25
    let key := if level = 5 ∨ level = 6 then s.channelKey a else 0
    (s1.poisonAt level a).raise 0x01 0 unit inst none a (level + 2 ^ 8 * (key % 65536) + 2 ^ 32 * (syn % 2 ^ 32)) 0

/-- The errors that a read of line `l` in the cache meets (R219): counted in its slice, the uncorrectable ones poisoned and recorded. -/
def State.cacheErrs (s : State) (l : Nat) (x : ReadErrs) : State :=
  let bad := x.bad.filter (fun a => decide (lineOf a = l))
  let s1 := s.modSlice (sliceOf l) (fun c => { c with ce := c.ce + x.corrected, ue := c.ue + bad.length })
  bad.foldl (fun st a => st.storageUe 3 (sliceOf l) a) s1

/-- The errors that a memory read of line `l` meets (R219, R240): counted in its controller, the uncorrectable ones poisoned and recorded; a
channel found failing is recorded as such. -/
def State.memErrs (s : State) (l : Nat) (x : ReadErrs) : State :=
  let (deep, inst, _) := s.channelOf (l * 128)
  let level := if deep then 6 else 5
  let bad := x.bad.filter (fun a => decide (lineOf a = l))
  let s1 := if x.corrected = 0 ∧ bad = [] then s
    else s.modCtl (l * 128) (fun c => { c with ce := c.ce + x.corrected, ue := c.ue + bad.length })
  let s2 := bad.foldl (fun st a => st.storageUe level inst a) s1
  if x.channelFails then s2.raise 0x0E 0 (if deep then 5 else 4) inst none 0 (s.channelKey (l * 128)) 0 else s2

/-- A read that misses: its own memory read is outstanding (R225). -/
def State.readMiss (s : State) (src : Requester) (l : Nat) (alone : Bool) (errs : ReadErrs) : State :=
  let dup := s.llc.misses.any (fun m => decide (m.line = l))
  let s1 := s.modSlice (sliceOf l) (fun c => { c with misses := c.misses + 1, dupMisses := c.dupMisses + b2n dup })
  { s1 with llc := { s1.llc with misses := s1.llc.misses ++ [{ line := l, src := src, discard := alone, errs := errs }] } }

/-- A request to read `n` bytes at offset `off` of line `l` (R225, R227, R234): a hit, or a miss that allocates the line and reads memory. Run-ahead
counts only what R54 names, and leaves a DEAD tag as it is. -/
def State.readLine (s : State) (src : Requester) (l off n : Nat) (pin : Bool) (errs : ReadErrs) : State :=
  let si := sliceOf l
  let ahead := (requesterQueue src).isSome
  let loud (st : State) (f : SliceSt → SliceSt) : State := if ahead then st else st.modSlice si f
  let s0 := s.modSlice si (fun c => { c with accesses := c.accesses + 1 })
  let pinned (st : State) (p : Nat) : State := if pin then st.pinPlace p else st
  if (s.slice si).ways = 0 then ((loud s0 (fun c => { c with uncached := c.uncached + 1 })).countFillReads l).memErrs l errs
  else
    match s0.findLine l with
    | none =>
      match s0.allocate l with
      | (s1, some p) =>
        let s2 := if ahead then s0.keepWriteCounts s1 else s1
        let s3 := (s2.setLine p { LLine.zero with tag := tagOf l, alloc := true, prov := requesterQueue src }).touch p
        pinned ((s3.readMiss src l false errs).countUnpinned si true) p
      | (s1, none) => (loud s1 (fun c => { c with uncached := c.uncached + 1 })).readMiss src l true errs
    | some p =>
      let x := s0.line p
      if x.dead then
        (if ahead then s0.countUnpinned si false
         else
           (let s1 := s0.modSlice si (fun c => { c with readAfterDead := c.readAfterDead + 1 })
            if s.llc.strictDead then (s1.countUnpinned si false).raise 0x02 0 3 si none (l * 128 + off) l 0
            else
              pinned (((s1.setLine p { LLine.zero with tag := x.tag, alloc := true }).readMiss src l false errs).countUnpinned si true) p))
      else
        let hit := x.covers off n
        let s1 := if x.pinned then s0 else s0.countUnpinned si (!hit)
        pinned (if hit then (s1.touch p).cacheErrs l errs else s1.readMiss src l false errs) p

/-- LLC_READ (R219, R225, R228, R234, R240): a read of bytes in one line; `pin` is the pin flag of a reached command's descriptor, `errs` what the
check codes find. -/
def execLlcRead (src : Requester) (addr len : Nat) (pin : Bool) (errs : ReadErrs) (s : State) : Host.Outcome State Fault Refusal :=
  let n := min (min (s.cutLen addr len) (128 - addr % 128)) len
  if !s.cachedAddr addr || decide (n = 0) then .next s
  else if s.unitInReset 3 0 then .next (s.park 3 0 src)
  else .next (s.readLine src (lineOf addr) (addr % 128) n (pin && (requesterQueue src).isNone) errs)

/-- LLC_WRITE (R224): a write of bytes in one line. -/
def execLlcWrite (src : Requester) (addr : Nat) (data : List Byte) (pin : Bool) (s : State) : Host.Outcome State Fault Refusal :=
  if !s.cachedAddr addr then .next s
  else if s.unitInReset 3 0 then .next (s.park 3 0 src)
  else .next (s.store addr (data.take (128 - addr % 128)) false pin)

/-- The first outstanding miss of a line and the others, in order. -/
def takeMiss (l : Nat) : List Miss → Option (Miss × List Miss)
  | [] => none
  | m :: t =>
    if m.line = l then some (m, t)
    else match takeMiss l t with
      | some (x, r) => some (x, m :: r)
      | none => none

/-- Memory's data for line `l` reach the cache: a line that is resident takes the bytes it has not got (R225). -/
def State.fillLine (s : State) (l : Nat) : State :=
  match s.findLine l with
  | some p => if (s.line p).dead then s else s.setLine p (s.filled l (s.line p))
  | none => s

/-- The memory read of an outstanding miss answers: its errors, and its data (R219, R225, R233). -/
def State.answerMiss (s : State) (m : Miss) : State :=
  let s1 := (s.countFillReads m.line).memErrs m.line m.errs
  if m.discard then s1 else s1.fillLine m.line

/-- LLC_FILL (R225, R233): the oldest outstanding miss of a line gets its data; one that a DEAD operation overtook is discarded. -/
def execLlcFill (line : Nat) (s : State) : Host.Outcome State Fault Refusal :=
  match takeMiss line s.llc.misses with
  | none => .next s
  | some (m, rest) =>
    let (deep, inst, _) := s.channelOf (line * 128)
    if s.unitInReset (if deep then 5 else 4) inst then .next (s.park (if deep then 5 else 4) inst m.src)
    else
    .next ({ s with llc := { s.llc with misses := rest } }.answerMiss m)

/-! ### Provisional lines (R55, R213) -/

/-- A reached command accesses these ranges: provisional lines in them lose their tag and count as used, and those in the ranges its descriptors pin
are pinned, subject to the quota (R55, R228). Lines of a predicted expert belong to the first command reached after their ROUTE completes that names
one of its weight handles (R213). (DEDUCED: notes/assumptions/13) -/
def State.useProv (s : State) (ranges pins : List (Nat × Nat)) (handles : List Nat) : State :=
  let claims (r : PfOwned) : Bool := r.done && r.handles.any (fun h => handles.contains h)
  let s1 := (s.llc.lines.map (·.1)).foldl (fun st p =>
    match (st.line p).prov with
    | some q =>
      let mine := match st.ownedAt p with
        | some r => claims r
        | none => st.lineIn p ranges
      if mine then
        (let s1 := (st.modLine p (fun x => { x with prov := none })).countRa q true
         if s1.lineIn p pins then s1.pinPlace p else s1)
      else st
    | none => st) s
  { s1 with dlt := { s1.dlt with owned := s1.dlt.owned.filter (fun r => !claims r) } }

/-- Discard provisional lines: those of queue `q`, or in the given ranges; answers how many. (DEDUCED: notes/assumptions/13) -/
def State.discardProv (s : State) (cond : Nat → State → Nat → Bool) : State × Nat :=
  (s.llc.lines.map (·.1)).foldl (fun (acc : State × Nat) p =>
    match (acc.1.line p).prov with
    | some q => if cond q acc.1 p then (acc.1.dropProv p, acc.2 + 1) else acc
    | none => acc) (s, 0)

/-- Prefetch one line for a queue: a run-ahead read of the whole line whose data arrive at once (R53 to R55). (DEDUCED: notes/assumptions/13) -/
def State.prefetchLine (s : State) (q l : Nat) : State :=
  if !s.cachedAddr (l * 128) then s
  else
    let s1 := s.readLine (.runAhead q) l 0 128 false { corrected := 0, bad := [], channelFails := false }
    match s1.llc.misses.getLast? with
    | some m =>
      if s1.llc.misses.length = s.llc.misses.length then s1
      else { s1 with llc := { s1.llc with misses := s1.llc.misses.dropLast } }.answerMiss m
    | none => s1

/-- Prefetch the lines of some ranges as provisional lines of a queue (R55, R212); answers how many lines were requested. (DEDUCED: notes/assumptions/13) -/
def State.prefetch (s : State) (q : Nat) (ranges : List (Nat × Nat)) : State × Nat :=
  ranges.foldl (fun (acc : State × Nat) r =>
    if r.2 ≤ r.1 then acc
    else (rangeFrom (r.1 / 128) ((r.2 - 1) / 128 - r.1 / 128 + 1)).foldl (fun (a : State × Nat) l => (a.1.prefetchLine q l, a.2 + 1)) acc)
    (s, 0)

/-! ### Range operations (R231 to R234) -/

/-- Queue a range operation; a write to a full queue stalls its writer until there is room (R231). (DESIGN CHOICE: notes/assumptions/14) -/
def State.queueRange (s : State) (op line count : Nat) : State :=
  let o : RangeOp := { op := op, line := line, count := min count 1048576 }
  if s.llc.rangeQueue.length < 64 then { s with llc := { s.llc with rangeQueue := s.llc.rangeQueue ++ [o] } }
  else { s with llc := { s.llc with rangeStalled := s.llc.rangeStalled ++ [o] } }

/-- Apply one range operation to the line in place `p` (R231, R233). -/
def State.rangeAt (s : State) (o : RangeOp) (p : Nat) : State :=
  let x := s.line p
  let l := lineAt p x.tag
  if o.line ≤ l ∧ l < o.line + o.count then
    (if o.op = 0 then s.pinPlace p
     else if o.op = 1 then s.setLine p { x with pinned := false }
     else if o.op = 2 then
       (if x.dead || !x.resident then s
        else (s.setLine p { LLine.zero with tag := x.tag, dead := true }).modSlice (p / 16 / 1536) (fun c => { c with deadDropped := c.deadDropped + 1 }))
     else (s.writeBack p).modLine p (fun y => { y with dirty := 0 }))
  else s

/-- Apply a range operation in every slice; fills outstanding for dropped lines are discarded (R233). (DESIGN CHOICE: notes/assumptions/14) -/
def State.applyRange (s : State) (o : RangeOp) : State :=
  let s1 := (s.llc.lines.map (·.1)).foldl (fun st p => st.rangeAt o p) s
  if o.op = 2 then
    { s1 with llc := { s1.llc with misses := s1.llc.misses.map (fun m =>
      if decide (o.line ≤ m.line) && decide (m.line < o.line + o.count) && (s.findLine m.line).isSome then { m with discard := true } else m) } }
  else s1

/-- PIN (R231): queue operation 0. -/
def execRangePin (line count : Nat) (s : State) : Host.Outcome State Fault Refusal := .next (s.queueRange 0 line count)

/-- UNPIN (R231): queue operation 1. -/
def execRangeUnpin (line count : Nat) (s : State) : Host.Outcome State Fault Refusal := .next (s.queueRange 1 line count)

/-- DEAD (R231, R233): queue operation 2. -/
def execRangeDead (line count : Nat) (s : State) : Host.Outcome State Fault Refusal := .next (s.queueRange 2 line count)

/-- CLEAN (R231): queue operation 3. -/
def execRangeClean (line count : Nat) (s : State) : Host.Outcome State Fault Refusal := .next (s.queueRange 3 line count)

/-- RANGE_OP_DONE (R231, R232): every slice has applied the oldest operation, LLC_RANGE_DONE rises, and the writer stalled longest goes on. -/
def execRangeOpDone (s : State) : Host.Outcome State Fault Refusal :=
  match s.llc.rangeQueue with
  | [] => .next s
  | o :: rest =>
    let s1 := s.applyRange o
    .next { s1 with llc := { s1.llc with rangeQueue := rest ++ s1.llc.rangeStalled.take 1, rangeStalled := s1.llc.rangeStalled.drop 1,
                                          rangeDone := s1.llc.rangeDone + 1 } }

/-! ### The slab port and scrubbing -/

/-- SLAB_ACCESS (R218): one granule of a slab, read or written; the port remembers who had the last turn. -/
def execSlabAccess (owner requester off len : Nat) (data : Option (List Byte)) (s : State) : Host.Outcome State Fault Refusal :=
  let a := shoalBase + owner * slabBytes + off
  if slabBytes ≤ off || !s.inWindow a then .next s
  else
    let n := min len (128 - off % 128)
    let s1 := { s with slabTurn := tset false s.slabTurn owner (decide (requester ≠ owner)) }
    match data with
    | none => .next s1
    | some d => .next (s1.store a (d.take n) false false)

/-- An uncorrectable error met on access inside core `c` (R219): level 0 names bytes of its scratch; level 1 bytes of its vector registers (32 × 256),
then its backwater banks, then from 16,384 its sluice slots by 4,096 bytes. What it held is poisoned. (DEDUCED: notes/assumptions/68) -/
def CoreSt.struck (x : CoreSt) (level a : Nat) : CoreSt :=
  if level = 0 then { x with scratchPoison := ninsert (a % 262144 / 32) x.scratchPoison }
  else if a < 8192 then { x with vec := { x.vec with vPoison := tmod 0 x.vec.vPoison (a / 256) (fun m => m ||| BitVec.ofNat 64 (2 ^ (a % 256 / 4))) } }
  else if a < 16384 then { x with bsn := { x.bsn with drain := x.bsn.drain.map (fun d => if d.bank = a - 8192 then { d with poisoned := true } else d) } }
  else
    let o := a - 16384
    { x with slc := { x.slc with slots := x.slc.slots.map (fun d =>
        if d.slot = o / 4096 then { d with marks := lmod d.marks (o % 4096 / 128) (fun r => lset r (o % 128 / 4) true) } else d) } }

/-- The record of an uncorrectable error of core `c`, of its scratch, its registers or its slab (R393). (DEDUCED: notes/assumptions/68) -/
def State.coreUe (s : State) (level c a : Nat) : State :=
  if level = 2 then s.storageUe 2 (s.physical c) a
  else
    let (syn, s1) := s.fresh
    (s1.modCore c (fun x => x.struck level a)).raise 0x01 0 0x25 (s.physical c) none a (level + 2 ^ 32 * (syn % 2 ^ 32)) 0

/-- SCRUB_PASS (R219): a pass of a level, in the row order of R219, over an instance: how many errors it corrected, and the
addresses it could not correct. A stack or package with SCRUB_HOURS 0 makes no pass. Levels 0 and 1 are checked on access: the row then tells what an
access of core `inst` met. (DEDUCED: notes/assumptions/68) -/
def execScrubPass (level inst corrected : Nat) (bad : List Nat) (s : State) : Host.Outcome State Fault Refusal :=
  let ctl (c : MemCtl) : MemCtl := { c with ce := c.ce + corrected, ue := c.ue + bad.length, scrubPasses := c.scrubPasses + 1 }
  let spread (st : State) : State := bad.foldl (fun x a => x.storageUe level inst a) st
  if level = 5 then
    (if (tget MemCtl.zero s.nt inst).scrubHours = 0 then .next s else .next (spread { s with nt := tmod .zero s.nt inst ctl }))
  else if level = 6 then
    (if (tget MemCtl.zero s.dt inst).scrubHours = 0 then .next s else .next (spread { s with dt := tmod .zero s.dt inst ctl }))
  else if level = 3 ∨ level = 4 then .next (spread (s.modSlice inst (fun c => { c with ce := c.ce + corrected, ue := c.ue + bad.length })))
  else if level ≤ 2 then .next (bad.foldl (fun x a => x.coreUe level inst a) s)
  else .next s

end Sys2Proof.Machine
end

