-- ==== Sys2Proof/Machine/Descs.lean ====
section
/-! DEFINITION. Reading a tensor descriptor with its clamps and their tally (R41, R42, R60, R61, R265), and the address ranges a
tensor occupies. -/

namespace Sys2Proof.Machine

open Sys2Proof

/-- The five stream formats (R257). -/
def streamFmt (f : Nat) : Bool := decide (f ≤ 2) || decide (f = 6) || decide (f = 7)

/-- RANK after its clamp (R60). -/
def clampRank (r : Nat) : Nat := if r = 0 then 1 else min r 4

/-- DIM0 to DIM3 of a raw descriptor, 1 at or above RANK. -/
def rawDims (d : List Byte) : List Nat :=
  (List.range 4).map (fun k => if k < clampRank (fieldAt d 9 1) then fieldAt d (0x10 + 4 * k) 4 else 1)

/-- Is a raw descriptor a SILT8 tensor of a given shape, inside a data window (R60). -/
def siltFits (s : State) (d : List Byte) (dims : List Nat) : Bool :=
  decide (fieldAt d 8 1 = 0x0C) && decide (rawDims d = dims) && s.inWindow (fieldAt d 0 6)

/-- The tensor of a raw descriptor and how many of its fields were clamped. `copy` says that the command is COPY; `extent` that
the extent is checked here. A null tensor keeps its handle. -/
def decodeDesc (s : State) (h : Nat) (d : List Byte) (copy extent : Bool) : TDesc × Nat :=
  let fmt := fieldAt d 8 1
  let flags := fieldAt d 0x0A 2
  let base := fieldAt d 0 6
  let stream := bitOf flags 3 && streamFmt fmt
  let scaleBase := fieldAt d 0x30 8
  let nul : TDesc := { TDesc.null with handle := h }
  if !fmtDefined fmt then (nul, 1)
  else if stream && !copy then (nul, 1)
  else
    let bad3 := b2n (bitOf flags 3 && !streamFmt fmt)
    match s.window base with
    | none => (nul, bad3 + 1)
    | some e =>
      if fmtMx fmt && !s.inWindow scaleBase then (nul, bad3 + 1)
      else
        let rawRank := fieldAt d 9 1
        let dims := rawDims d
        let layer := fieldAt d 0x0C 2
        let metaBase := fieldAt d 0x38 8
        let wantMeta := bitOf flags 0 || bitOf flags 1
        let metaOk := !wantMeta || s.inWindow metaBase
        let siltH := fieldAt d 0x2C 4
        let siltD := s.peekBytes (siltH * 64) 64
        let siltOk := decide (siltH < 1048576) && siltFits s siltD dims
        let t : TDesc :=
          { handle := h, isNull := false, base := base, winEnd := e, fmt := fmt, rank := clampRank rawRank,
            zbMap := bitOf flags 0 && metaOk, sparse := bitOf flags 1 && metaOk, grad := bitOf flags 2, stream := stream,
            pin := bitOf flags 4, layer := layer % 4096, dims := dims,
            strides := [fieldAt d 0x20 4, fieldAt d 0x24 4, fieldAt d 0x28 4], silt := if siltOk then siltH else 0,
            siltBase := if siltOk then fieldAt siltD 0 6 else 0,
            siltStrides := [fieldAt siltD 0x20 4, fieldAt siltD 0x24 4, fieldAt siltD 0x28 4], scaleBase := scaleBase, metaBase := metaBase }
        let n := bad3 + b2n (decide (rawRank = 0) || decide (4 < rawRank)) +
          b2n (fmtMx fmt && decide (lget 1 dims 0 % 32 ≠ 0)) + b2n (decide (4095 < layer)) + b2n (decide (siltH ≠ 0) && !siltOk) +
          b2n (!metaOk) + b2n (extent && t.overruns t.raw0)
        (t, n)

/-- The tensor a handle names at decode (R41, R45): handle 0 is null; a handle beyond the table is null, tallied once. -/
def readTensor (s : State) (h : Nat) (copy extent : Bool) : TDesc × Nat :=
  if h = 0 then (.null, 0)
  else if h ≥ 1048576 then (.null, 1)
  else decodeDesc s h (s.peekBytes (h * 64) 64) copy extent

/-- The silt tensor of a master (R155): SILT8 of the same shape. -/
def TDesc.siltTensor (t : TDesc) (s : State) : TDesc :=
  if t.silt = 0 then .null
  else
    { TDesc.null with handle := t.silt, isNull := false, base := t.siltBase, winEnd := (s.window t.siltBase).getD 0, fmt := 0x0C,
                      rank := t.rank, dims := t.dims, strides := t.siltStrides }

/-- The address ranges of a tensor's elements, block scales and sparsity metadata (R212). -/
def TDesc.dataRanges (t : TDesc) : List (Nat × Nat) :=
  if t.isNull || decide (t.count = 0) then []
  else
    let n0 := if t.sparse then cdiv t.raw0 2 else t.raw0
    let span := ((n0 * fmtBits t.fmt + 7) / 8) + (t.d 1 - 1) * lget 0 t.strides 0 + (t.d 2 - 1) * lget 0 t.strides 1 + (t.d 3 - 1) * lget 0 t.strides 2
    [(t.base, min t.winEnd (t.base + span))] ++ (if fmtMx t.fmt then [(t.scaleBase, t.scaleBase + cdiv t.d0 32 * t.rows)] else []) ++
      (if t.sparse then [(t.metaBase, t.metaBase + t.rows * metaRowBytes t.d0 4)] else [])

/-- The address ranges a tensor occupies: its data and its zero-block bitmap. -/
def TDesc.ranges (t : TDesc) : List (Nat × Nat) :=
  t.dataRanges ++ (if t.zbMap && !t.isNull && decide (t.count ≠ 0) then [(t.zbAddr 0 0, t.zbAddr (t.rows - 1) (cdiv t.d0 32 - 1) + 1)] else [])

/-- Pin the resident lines that a reached command accesses through a descriptor that asks for it: elements, scales, metadata and bitmap (R228). -/
def TDesc.pinLines (t : TDesc) (s : State) : State := if t.pin then t.ranges.foldl (fun st r => st.pinRange r.1 r.2) s else s

/-- Bytes of a list of ranges. -/
def rangeBytes (rs : List (Nat × Nat)) : Nat := (rs.map (fun r => r.2 - r.1)).sum

end Sys2Proof.Machine
end

