-- ==== Sys2Proof/Machine/Codec.lean ====
section
/-! DEFINITION. The codec: compressed streams (R257, R258), the lossless block codes (R259), lossy blocks (R260), and what makes
a stream malformed (R262). -/

namespace Sys2Proof.Machine

open Sys2Proof

/-- Mantissa bits m of R259. -/
def codMant (f : Nat) : Nat := if f = 0 then 7 else if f = 1 then 10 else 23

/-- Exponent-field bits. -/
def codExp (f : Nat) : Nat := if f = 1 then 5 else 8

/-- Bytes of an element of a lossless format. -/
def codSize (f : Nat) : Nat := if f = 2 then 4 else 2

/-- The smallest W that covers a delta (R259). -/
def widthFor (d : Nat) : Nat := if d = 0 then 0 else Nat.log2 d + 1

/-- One coded block: its bytes, and whether it is raw. -/
structure BlockCode where
  bytes : List Byte
  raw : Bool
  deriving DecidableEq, Repr

/-- Pack fields bit 0 upward. -/
def packFields (w : Nat) (l : List Nat) : Nat := l.foldr (fun x acc => x + 2 ^ w * acc) 0

/-- The packed or raw code of a lossless block that is not all +0 (R259). -/
def losslessBlock (f : Nat) (els : List Nat) : BlockCode :=
  let m := codMant f
  let ex (b : Nat) : Nat := b / 2 ^ m % 2 ^ codExp f
  let live := els.filter (· ≠ 0)
  let ebase := live.foldl (fun a b => max a (ex b)) 0
  let w := widthFor (live.foldl (fun a b => max a (ebase - ex b)) 0)
  let field (b : Nat) : Nat := (b / 2 ^ (m + codExp f)) * 2 ^ (m + w) + (b % 2 ^ m) * 2 ^ w + (ebase - ex b)
  let nb := cdiv (live.length * (1 + m + w)) 8
  let rawLen := 1 + 32 * codSize f
  if 6 + nb < rawLen then
    let mask := ((List.range 32).map (fun j => if lget 0 els j = 0 then 0 else 2 ^ j)).sum
    { bytes := [BitVec.ofNat 8 (0x80 + w)] ++ leBytes 4 mask ++ leBytes 1 ebase ++ leBytes nb (packFields (1 + m + w) (live.map field)), raw := false }
  else { bytes := 0xFF :: els.flatMap (fun b => leBytes (codSize f) b), raw := true }

/-- A block to code: all +0, or its bytes. -/
inductive Coded where
  | zero
  | code (b : BlockCode)
  deriving DecidableEq, Repr

/-- The segment bytes of a run of coded blocks: maximal zero runs (R259); `z` counts zero blocks not yet written. -/
def segBytes : Nat → List Coded → List Byte
  | z, [] => if z = 0 then [] else [BitVec.ofNat 8 (z - 1)]
  | z, .zero :: t => segBytes (z + 1) t
  | z, .code b :: t => (if z = 0 then [] else [BitVec.ofNat 8 (z - 1)]) ++ b.bytes ++ segBytes 0 t

/-- Cut a list into pieces of `k`; `n` bounds their number. -/
def pieces {α : Type} (k : Nat) : Nat → List α → List (List α)
  | 0, _ => []
  | n + 1, l => if l.isEmpty then [] else l.take k :: pieces k n (l.drop k)

/-- The coded blocks of lossless elements; the last is padded with +0. -/
def losslessBlocks (f : Nat) (els : List Nat) : List Coded :=
  (pieces 32 (cdiv els.length 32) els).map (fun b =>
    let p := b ++ List.replicate (32 - b.length) 0
    if p.all (· = 0) then .zero else .code (losslessBlock f p))

/-- The coded blocks of a lossy stream (R260): scale by R150 for SET = 0 with max(H, 1); `rs` are the generator words. -/
def lossyBlocks (f h mode : Nat) (vals : List FVal) (rs : List Nat) : List Coded :=
  (pieces 32 (cdiv vals.length 32) (vals.zip rs)).map (fun b =>
    let vs := b.map (·.1) ++ List.replicate (32 - b.length) fzero
    let ws := b.map (·.2) ++ List.replicate (32 - b.length) 0
    if vs.all (fun v => decide (v = fzero) || (match v with | .fin false 0 _ => true | _ => false)) then .zero
    else
      let s := scaleExp f (max h 1) .zero (blockAmax vs)
      let (sc, bits) := narrowBlock f mode false s vs ws
      .code { bytes := 0x80 :: BitVec.ofNat 8 sc :: bits.map (fun x => BitVec.ofNat 8 x), raw := false })

/-- Segments of 128 blocks. -/
def segments (bs : List Coded) : List (List Byte) := (pieces 128 (cdiv bs.length 128) bs).map (segBytes 0)

/-- Offset of the segment data (R258). -/
def dataStart (ns : Nat) : Nat := 64 + cdiv (8 * ns) 64 * 64

/-- How many leading segments fit whole in `room` bytes of data. (DEDUCED: notes/assumptions/32) -/
def fitting : Nat → List (List Byte) → Nat
  | _, [] => 0
  | room, g :: t => if g.length ≤ room then 1 + fitting (room - g.length) t else 0

/-- Index entries of R258: running offsets, 0 for an absent segment. -/
def indexEntries : Nat → Nat → List (List Byte) → List Byte
  | _, _, [] => []
  | 0, o, _ :: t => leBytes 8 0 ++ indexEntries 0 o t
  | n + 1, o, g :: t => leBytes 5 o ++ leBytes 3 g.length ++ indexEntries n (o + g.length) t

/-- A whole stream cut to `room` bytes of window (R258, R262): its bytes and how many segments were left absent. -/
def streamBytes (f count room : Nat) (segs : List (List Byte)) : List Byte × Nat :=
  let ns := segs.length
  let n := fitting (room - dataStart ns) segs
  let data := (segs.take n).flatten
  let idx := indexEntries n 0 segs
  ([BitVec.ofNat 8 f, 1] ++ List.replicate 6 0 ++ leBytes 8 count ++ leBytes 8 data.length ++ leBytes 4 ns ++ List.replicate 36 0 ++
    idx ++ List.replicate (dataStart ns - 64 - idx.length) 0 ++ data, ns - n)

/-! ### Expansion -/

/-- The fields of a packed block put back (R259): exponent modulo its width. (DEDUCED: notes/assumptions/32) -/
def unpackBlock (f w mask ebase : Nat) : Nat → Nat → Nat → List Nat
  | 0, _, _ => []
  | n + 1, j, v =>
    let m := codMant f
    let fw := 1 + m + w
    if bitOf mask j then
      let x := v % 2 ^ fw
      let ex := (ebase + 2 ^ codExp f - x % 2 ^ w % 2 ^ codExp f) % 2 ^ codExp f
      ((x / 2 ^ (m + w)) * 2 ^ (m + codExp f) + ex * 2 ^ m + x / 2 ^ w % 2 ^ m) :: unpackBlock f w mask ebase n (j + 1) (v / 2 ^ fw)
    else 0 :: unpackBlock f w mask ebase n (j + 1) v

/-- One element as expanded: its bits in a lossless format, and its value. -/
abbrev Expanded := Nat × FVal

/-- Decode a segment's codes to exactly `blocks` blocks; none when malformed (R262). `n` bounds the codes. -/
def expandSeg (f : Nat) : Nat → Nat → List Byte → Option (List Expanded)
  | 0, blocks, bs => if blocks = 0 ∧ bs.isEmpty then some [] else none
  | n + 1, blocks, bs =>
    match bs with
    | [] => if blocks = 0 then some [] else none
    | b :: t =>
      if blocks = 0 then none
      else if b.toNat < 0x80 then
        (let k := b.toNat + 1
         if blocks < k then none
         else (expandSeg f n (blocks - k) t).map (fun r => List.replicate (32 * k) (0, fzero) ++ r))
      else if 6 ≤ f then
        (if b = 0x80 ∧ 33 ≤ t.length then
          (let sc := (lget 0 t 0).toNat
           (expandSeg f n (blocks - 1) (t.drop 33)).map (fun r =>
            ((t.drop 1).take 32).map (fun x => (x.toNat, applyScale sc (decodeElem f x.toNat))) ++ r))
         else none)
      else if b = 0xFF then
        (let sz := codSize f
         if 32 * sz ≤ t.length then
          (expandSeg f n (blocks - 1) (t.drop (32 * sz))).map (fun r =>
            (List.range 32).map (fun j => let x := fieldAt t (sz * j) sz; (x, decodeElem f x)) ++ r)
         else none)
      else
        let w := b.toNat - 0x80
        let mask := fieldAt t 0 4
        let nb := cdiv (popCount 32 mask * (1 + codMant f + w)) 8
        if w ≤ (if f = 1 then 5 else 8) ∧ 5 + nb ≤ t.length then
          (expandSeg f n (blocks - 1) (t.drop (5 + nb))).map (fun r =>
            (unpackBlock f w mask (fieldAt t 4 1) 32 0 (fieldAt t 5 nb)).map (fun x => (x, decodeElem f x)) ++ r)
        else none

/-- What an expansion yields: format, element count, the elements up to the first bad segment, why it stopped (0 not, 1 poison
read, 3 malformed), compressed bytes read. -/
structure Expansion where
  fmt : Nat
  count : Nat
  els : List Expanded
  cause : Nat
  read : Nat
  deriving DecidableEq, Repr

/-- Expand segments from number `k` on, `n` of them (R262). `rd` reads bytes, `pz` tells poison, both from an offset. -/
def expandFrom (rd : Nat → Nat → List Byte) (pz : Nat → Nat → Bool) (f blocks ns dataBytes room : Nat) : Nat → Nat → List Expanded × Nat × Nat
  | 0, _ => ([], 0, 0)
  | n + 1, k =>
    let e := rd (64 + 8 * k) 8
    let off := fieldAt e 0 5
    let len := fieldAt e 5 3
    let at0 := dataStart ns + off
    if ns ≤ k ∨ room < 72 + 8 * k then ([], 3, 0)
    else if pz (64 + 8 * k) 8 then ([], 1, 0)
    else if len = 0 ∨ dataBytes < off + len ∨ room < at0 + len then ([], 3, 8)
    else if pz at0 len then ([], 1, 8)
    else
      match expandSeg f 129 (min 128 (blocks - 128 * k)) (rd at0 len) with
      | none => ([], 3, 0)
      | some es =>
        let (r, c, b) := expandFrom rd pz f blocks ns dataBytes room n (k + 1)
        (es ++ r, c, b + len + 8)

/-- Expand a stream as far as `need` elements (R261, R262). -/
def expandStream (rd : Nat → Nat → List Byte) (pz : Nat → Nat → Bool) (room need : Nat) : Expansion :=
  let h := rd 0 64
  let f := fieldAt h 0 1
  let count := fieldAt h 8 8
  if pz 0 (min 64 room) then { fmt := 0, count := 0, els := [], cause := 1, read := 64 }
  else if !streamFmt f || decide (room < 64) then { fmt := f, count := 0, els := [], cause := 3, read := 64 }
  else
    let blocks := cdiv count 32
    let want := min count need
    let (es, c, b) := expandFrom rd pz f blocks (fieldAt h 0x18 4) (fieldAt h 0x10 8) room (cdiv want 4096) 0
    { fmt := f, count := count, els := es.take want, cause := c, read := 64 + b }

end Sys2Proof.Machine
end

