-- ==== Sys2Proof/Machine/Narrow.lean ====
section
/-! DEFINITION. Narrowing into a tensor: the mode of R139, the tries of R152, the flag of R147, the observation of R153 and
the bitmap of R100, for one unit of work at a time. -/

namespace Sys2Proof.Machine

open Sys2Proof

/-- What a narrowing needs besides the values: seed and step of R141, headroom of R149, the estimate read at reach (R154). -/
structure NarrowCtx where
  seed : W64
  step : W64
  headroom : Nat
  est : EstEntry
  deriving DecidableEq, Repr

/-- One stretch of consecutive elements of one row: row, first element, values, and which elements are poisoned (unlisted: not). -/
structure Stretch where
  row : Nat
  i0 : Nat
  vals : List FVal
  poisoned : List Bool
  deriving DecidableEq, Repr

/-- A converted stretch: the element bits and, for an MX block, its scale byte. -/
structure Narrowed where
  row : Nat
  i0 : Nat
  bits : List Nat
  scale : Option Nat
  poisoned : List Bool
  deriving DecidableEq, Repr

/-- The outcome of a unit: reruns made, whether it saturated (R152), the observed binade (R153), the flag of R147. -/
structure NarrowOut where
  parts : List Narrowed
  reruns : Nat
  saturated : Bool
  observed : Option Int
  nonfinite : Bool
  deriving DecidableEq, Repr

/-- The words r of a stretch (R141, R142). -/
def stretchWords (t : TDesc) (cx : NarrowCtx) (b : Stretch) : List Nat :=
  (List.range b.vals.length).map (fun j => srWord cx.seed t.handle (t.lin (b.i0 + j) b.row) cx.step)

/-- The rounding mode of a conversion into a tensor (R139). -/
def TDesc.mode (t : TDesc) : Nat := if t.grad then 4 else 0

/-- The first-try scale exponent of a block (R150). -/
def blockScale (t : TDesc) (cx : NarrowCtx) (b : Stretch) : Int := scaleExp t.fmt cx.headroom cx.est (blockAmax b.vals)

/-- Does the unit overflow at `up` binades above its first-try scales (R151). (DEDUCED: notes/assumptions/10) -/
def unitOver (t : TDesc) (cx : NarrowCtx) (bs : List Stretch) (up : Int) : Bool :=
  bs.any (fun b => b.vals.any (narrowOver t.fmt (min 127 (blockScale t cx b + up))))

/-- Convert a unit at a given raise of its scales. -/
def narrowAt (t : TDesc) (cx : NarrowCtx) (mode : Nat) (bs : List Stretch) (up : Int) (sat : Bool) : List Narrowed :=
  bs.map (fun b =>
    let (sc, bits) := narrowBlock t.fmt mode sat (min 127 (blockScale t cx b + up)) b.vals (stretchWords t cx b)
    { row := b.row, i0 := b.i0, bits := bits, scale := some sc, poisoned := b.poisoned })

/-- Narrow one unit of work into a tensor (R137, R145, R150 to R153). -/
def narrowUnit (t : TDesc) (cx : NarrowCtx) (mode : Nat) (bs : List Stretch) : NarrowOut :=
  let obs := bs.foldl (fun a b => omax a (blockAmax b.vals)) none
  if fmtMx t.fmt then
    let nf := bs.any (fun b => b.vals.any (fun v => !isFin v))
    let o := obs.map clampE
    if !unitOver t cx bs 0 then { parts := narrowAt t cx mode bs 0 false, reruns := 0, saturated := false, observed := o, nonfinite := nf }
    else if !unitOver t cx bs 2 then { parts := narrowAt t cx mode bs 2 false, reruns := 1, saturated := false, observed := o, nonfinite := nf }
    else { parts := narrowAt t cx mode bs 4 true, reruns := 2, saturated := unitOver t cx bs 4, observed := o, nonfinite := nf }
  else
    let conv := bs.map (fun b => (b, (b.vals.zip (stretchWords t cx b)).map (fun p => (p.1, convert t.fmt mode p.2 false p.1))))
    { parts := conv.map (fun c => { row := c.1.row, i0 := c.1.i0, bits := c.2.map (fun x => x.2.1), scale := none, poisoned := c.1.poisoned }),
      reruns := 0, saturated := false, observed := none,
      nonfinite := conv.any (fun c => c.2.any (fun x => nonfiniteWrite x.1 x.2.2)) }

/-- Maximal runs of equal poison: offset, length, poisoned; `o` is the current offset. -/
def poisonRuns : Nat → List Bool → List (Nat × Nat × Bool)
  | _, [] => []
  | o, b :: t =>
    match poisonRuns (o + 1) t with
    | (o', n, c) :: rest => if b = c then (o, n + 1, c) :: rest else (o, 1, b) :: (o', n, c) :: rest
    | [] => [(o, 1, b)]

/-- Write element bits, poisoning exactly the poisoned elements; `ws` is that of `storeBelow`. (DEDUCED: notes/assumptions/10) -/
def TDesc.writeMarked (t : TDesc) (s : State) (r i0 : Nat) (bits : List Nat) (marks : List Bool) (ws : List (Nat × Nat × Nat)) : State :=
  if marks.any id then
    (poisonRuns 0 ((List.range bits.length).map (fun i => lget false marks i))).foldl
      (fun st run => t.writeRow st r (i0 + run.1) ((bits.drop run.1).take run.2.1) run.2.2 ws) s
  else t.writeRow s r i0 bits false ws

/-- Write a converted stretch: elements, scale byte, bitmap bit when `zb` asks for it, from all the elements of the block that the stretch lies in (R100). -/
def State.writePart (s : State) (t : TDesc) (p : Narrowed) (zb : Bool) (ws : List (Nat × Nat × Nat)) : State :=
  let s1 := t.writeMarked s p.row p.i0 p.bits p.poisoned ws
  let s2 := match p.scale with
    | some b => t.writeScale s1 p.row p.i0 b (p.poisoned.any id)
    | none => s1
  if zb then t.zbRefresh s2 p.row (p.i0 / 32) else s2

/-- Write a unit. -/
def State.writeUnit (s : State) (t : TDesc) (o : NarrowOut) (zb : Bool) (ws : List (Nat × Nat × Nat)) : State :=
  o.parts.foldl (fun st p => st.writePart t p zb ws) s

/-- The contributions of a narrowing to its destination's row (R147, R153). -/
def NarrowOut.effects (o : NarrowOut) (t : TDesc) : List RowEffect :=
  (if o.nonfinite then [RowEffect.nonfinite t.layer] else []) ++
  (match o.observed with
   | some b => [RowEffect.observe t.layer t.grad b]
   | none => [])

/-- The narrowing context of a command for one destination (R141, R149, R154). -/
def WakeEntry.narrowCtx (e : WakeEntry) (s : State) (t : TDesc) : NarrowCtx :=
  { seed := e.seed, step := e.step, headroom := s.train.headroom, est := e.est t.layer t.grad }

/-- Cut `n` elements from `a` into stretches that do not cross a 32-element block; `fuel` bounds their number. -/
def blockCuts : Nat → Nat → Nat → List (Nat × Nat)
  | 0, _, _ => []
  | fuel + 1, a, n => if n = 0 then [] else let k := min n (32 - a % 32); (a, k) :: blockCuts fuel (a + k) (n - k)

end Sys2Proof.Machine
end

