-- ==== Sys2Proof/Machine/Dma.lean ====
section
/-! DEFINITION. The DMA engines (R244 to R256): addresses, descriptors with their clamps, triggers and runs, the operations, bus
errors, completion; DMA_CHAIN. -/

namespace Sys2Proof.Machine

open Sys2Proof

/-! ### Addresses (R246) -/

/-- Is the address core-local. -/
def dmaLocal (a : Nat) : Bool := bitOf a 63

/-- An address with its ignored bits cleared. -/
def dmaNorm (a : Nat) : Nat := if dmaLocal a then 2 ^ 63 + a % 2 ^ 18 else a % 2 ^ 48

/-- The offset or physical address of a normal address. -/
def dmaOff (a : Nat) : Nat := if dmaLocal a then a % 2 ^ 18 else a % 2 ^ 48

/-- Bytes from an address to the end of its window, 0 outside every window. -/
def State.dmaRoom (s : State) (a : Nat) : Nat :=
  if dmaLocal a then 2 ^ 18 - dmaOff a else match s.window (dmaOff a) with
    | some e => e - dmaOff a
    | none => 0

/-- One byte as an engine reads it. -/
def State.dmaByte (s : State) (core a : Nat) : Byte :=
  if dmaLocal a then tget 0 (s.core core).scratch (dmaOff a) else s.peek (dmaOff a)

/-- Does a read of a byte return poison. -/
def State.dmaPoison (s : State) (core a : Nat) : Bool :=
  if dmaLocal a then (s.core core).scratchPoison.contains (dmaOff a / 32) else s.peekPoison (dmaOff a)

/-- Bytes as an engine reads them. -/
def State.dmaBytes (s : State) (core a n : Nat) : List Byte := (List.range n).map (fun i => s.dmaByte core (a + i))

/-- Is any of `n` bytes poisoned. -/
def State.dmaAnyPoison (s : State) (core a n : Nat) : Bool := (List.range n).any (fun i => s.dmaPoison core (a + i))

/-- Write bytes of a core's scratch: a poisoned write marks every 32-byte sector it touches, any other frees those it covers whole. (DEDUCED: notes/assumptions/6) -/
def CoreSt.scratchWrite (x : CoreSt) (o : Nat) (bs : List Byte) (on : Bool) : CoreSt :=
  let sectors := rangeFrom (o / 32) ((o + bs.length - 1) / 32 - o / 32 + 1)
  { x with
      scratch := ((List.range bs.length).zip bs).foldl (fun m p => tset 0 m (o + p.1) p.2) x.scratch,
      scratchPoison :=
        if bs.isEmpty then x.scratchPoison
        else if on then sectors.foldl (fun l k => ninsert k l) x.scratchPoison
        else x.scratchPoison.filter (fun k => decide (32 * k < o) || decide (o + bs.length < 32 * k + 32)) }

/-- Bytes as an engine writes them, within their window. -/
def State.dmaWrite (s : State) (core a : Nat) (bs : List Byte) (on : Bool) : State :=
  if dmaLocal a then
    s.modCore core (fun x => x.scratchWrite (dmaOff a) bs on)
  else s.store (dmaOff a) bs on false

/-- The 128-byte destination granule that holds an address is written poisoned, within its window (R254). -/
def State.poisonGranule (s : State) (core a : Nat) : State :=
  let lo := a - dmaOff a % 128
  if s.dmaRoom a = 0 then s else s.dmaWrite core lo (s.dmaBytes core lo (min 128 (s.dmaRoom lo))) true

/-- The stretches a transfer covers, row by row, up to the first byte outside the window: offset and length (R256); the first argument bounds the
rows. -/
def rowsWithin (room stride rowBytes : Nat) : Nat → Nat → List (Nat × Nat)
  | 0, _ => []
  | n + 1, r =>
    let k := min rowBytes (room - r * stride)
    if k < rowBytes then [(r * stride, k)] else (r * stride, k) :: rowsWithin room stride rowBytes n (r + 1)

/-- The offset of byte `j` of a list of stretches. -/
def spotOf : List (Nat × Nat) → Nat → Option Nat
  | [], _ => none
  | (o, n) :: t, j => if j < n then some (o + j) else spotOf t (j - n)

/-! ### Descriptors (R245, R256) -/

/-- Do two byte ranges of one space overlap. (DEDUCED: notes/assumptions/31) -/
def dmaOverlap (a n b m : Nat) : Bool :=
  decide (0 < n) && decide (0 < m) && (dmaLocal a == dmaLocal b) && decide (dmaOff a < dmaOff b + m) && decide (dmaOff b < dmaOff a + n)

/-- The worst case of R263 for `n` bytes of a format. -/
def streamBound (f stream n : Nat) : Nat :=
  let ns := cdiv (n / codSize f) 4096
  dataStart ns + ns * (if stream ≠ 0 then 4352 else if f = 2 then 16512 else 8320)

/-- Decode the descriptor at a normal address (R256); `chain` says that a DMA_CHAIN started the chain. -/
def State.dmaDesc (s : State) (core a : Nat) (chain : Bool) : DmaDesc :=
  let b := s.dmaBytes core a 64
  let op0 := fieldAt b 0x20 1
  let fl := fieldAt b 0x21 1
  let tr0 := fieldAt b 0x22 1
  let cod := fieldAt b 0x23 1
  let op := if op0 ≤ 6 then op0 else 6
  let src := dmaNorm (fieldAt b 0 8)
  let dst := dmaNorm (fieldAt b 8 8)
  let rb0 := fieldAt b 0x10 4
  let rows0 := fieldAt b 0x14 4
  let rows := max 1 rows0
  let ss := fieldAt b 0x18 4
  let ds := fieldAt b 0x1C 4
  let dir0 := cod % 4
  let cf := cod / 4 % 4
  let cs := cod / 16 % 4
  let codBad : Bool := decide (dir0 = 3) || decide (cf = 3) || decide (cs = 3) || (decide (dir0 ≠ 0) && decide (op ≠ 0))
  let dir := if codBad then 0 else dir0
  let rb := if dir = 0 then rb0 else rb0 / codSize cf * codSize cf
  let srcOk : Bool := decide (op ≠ 0) || decide (s.dmaRoom src ≠ 0)
  let dstOk : Bool := decide (6 ≤ op) || decide (s.dmaRoom dst ≠ 0)
  let span (st : Nat) : Nat := if rb = 0 then 0 else (rows - 1) * st + rb
  let excess : Bool := decide (dir ≠ 0) && srcOk && dstOk &&
    (if dir = 1 then dmaOverlap src (span ss) dst (streamBound cf cs (rb * rows))
     else dmaOverlap src (dataStart (leVal (s.dmaBytes core (src + 0x18) 4)) + leVal (s.dmaBytes core (src + 0x10) 8)) dst (span ds))
  let ok := srcOk && dstOk && !excess
  let ext : Bool := ok && (decide (op = 0) || decide (op = 1)) &&
    ((decide (op = 0) && decide (dir ≠ 2) && decide (s.dmaRoom src < span ss)) || (decide (dir ≠ 1) && decide (s.dmaRoom dst < span ds)))
  let sigBad : Bool := chain && bitOf fl 1 && decide (fieldAt b 0x24 2 < 0x100)
  let next0 := dmaNorm (fieldAt b 0x30 8)
  let nextBad : Bool := decide (next0 ≠ 0) && decide (s.dmaRoom next0 = 0)
  let next := if nextBad then 0 else next0 / 64 * 64
  { addr := a, src := BitVec.ofNat 64 (if op = 1 then fieldAt b 0 8 else src), dst := BitVec.ofNat 64 dst, rowBytes := rb, rows := rows,
    srcStride := ss, dstStride := ds, op := op, barrier := bitOf fl 0, signalEn := bitOf fl 1 && !sigBad,
    trigger := if tr0 ≤ 3 then tr0 else 0, codecDir := dir, codecFmt := cf, codecStream := cs, signalWeir := fieldAt b 0x24 2,
    trigValue := BitVec.ofNat 64 (fieldAt b 0x28 8), next := next, moves := ok,
    clamps := b2n (!srcOk) + b2n (!dstOk) + b2n excess + b2n ext + b2n (decide (rows0 = 0)) + b2n (decide (6 < op0)) + b2n (decide (3 < tr0)) +
      b2n codBad + b2n (decide (rb ≠ rb0)) + b2n sigBad + b2n nextBad + b2n (!nextBad && decide (next0 % 64 ≠ 0)) }

/-- One channel. -/
def State.dmaCh (s : State) (core ch : Nat) : DmaCh := tget .zero (s.core core).dma.ch ch

/-- Change one channel. -/
def State.modCh (s : State) (core ch : Nat) (f : DmaCh → DmaCh) : State := s.modDma core (fun d => { d with ch := tmod .zero d.ch ch f })

/-! ### Triggers (R249, R250) -/

/-- Does a descriptor's trigger fire at once (R249). The current mark's turn comes with step 5 of R77. -/
def State.triggerNow (s : State) (core : Nat) (d : DmaDesc) : Bool :=
  if d.trigger = 0 then true
  else if d.trigger = 1 then decide (d.trigValue.toNat < s.tide.count) || (decide (d.trigValue.toNat = s.tide.count) && !s.tide.rest)
  else if d.trigger = 3 then
    let v := d.trigValue.toNat
    decide (((s.dmaCh core (v % 8)).doneCount + 65536 - v / 2 ^ 16 % 65536) % 65536 < 32768)
  else false

/-- A channel's trigger fires; its run waits when another holds the engine or is ready (R250). -/
def State.fireTrigger (s : State) (core ch : Nat) : State :=
  let x := (s.core core).dma
  let busy := x.run.isSome || x.share.isSome || x.ch.any (fun c => decide (c.1 ≠ ch) && c.2.desc.isSome && c.2.fired.isSome)
  (s.modCh core ch (fun c => { c with fired := some x.fires })).modDma core (fun y => { y with trigLate := y.trigLate + b2n busy })

/-- What fires from now on fires later (R250). -/
def State.firesDone (s : State) (core : Nat) : State := s.modDma core (fun y => { y with fires := y.fires + 1 })

/-- Fire every waiting channel of a core whose descriptor passes `p`: together. -/
def State.fireWaiting (s : State) (core : Nat) (p : DmaDesc → Bool) : State :=
  ((List.range 8).foldl (fun st ch =>
    match (st.dmaCh core ch).desc, (st.dmaCh core ch).fired with
    | some d, none => if p d then st.fireTrigger core ch else st
    | _, _ => st) s).firesDone core

/-! ### Chains -/

/-- Tally the clamps of a descriptor (R256). -/
def State.tallyDma (s : State) (core : Nat) (h : ChainHead) (n : Nat) : State :=
  match h.owner with
  | some (q, _) => s.modQueue q (fun x => { x with tally := x.tally + n })
  | none => s.modDma core (fun d => { d with clamps := d.clamps + n })

/-- Mark an attached chain's command POISONED (R255). -/
def State.chainBad (s : State) (h : ChainHead) : State :=
  match h.owner with
  | some (q, seq) => if h.detached then s else s.modEntry q seq (fun e => { e with code := 0x10 })
  | none => s

/-- Does any channel of any core still hold a head of an attached command. -/
def State.chainsLeft (s : State) (q seq : Nat) : Bool :=
  s.cores.any (fun c => c.2.dma.ch.any (fun x =>
    ((match x.2.active with
      | some h => [h]
      | none => []) ++ x.2.fifo).any (fun h => decide (h.owner = some (q, seq)))))

/-- A chain has ended: book a detached one's time (R376); an attached command with no chain left is done (R255). -/
def State.chainEnded (s : State) (h : ChainHead) : State :=
  let s1 := match h.req with
    | some (q, id) => if h.detached then s.bookOcc q id (s.nowNs - h.since) else s
    | none => s
  match h.owner with
  | some (q, seq) =>
    if h.detached || s1.chainsLeft q seq then s1
    else match s1.entry q seq with
      | some e => if e.started && !e.ran && !e.ended then s1.ran q seq e.code [] [] else s1
      | none => s1
  | none => s1

/-- Write a descriptor's STATUS (R253). -/
def State.writeStatus (s : State) (core a state cause clamps bytes : Nat) : State :=
  s.dmaWrite core (a + 0x38) (leBytes 8 (state + 2 ^ 8 * cause + 2 ^ 16 * min 255 clamps + 2 ^ 24 * (bytes % 2 ^ 40))) false

/-- Read the next descriptor of a channel's active chain (R251, R254); false when the chain ends instead. `inRun` says that a run has come to it,
which goes on into it or ends. -/
def State.loadDesc (s : State) (core ch : Nat) (h : ChainHead) (a : Nat) (inRun : Bool) : State × Bool :=
  if s.dmaRoom a = 0 then (s, false)
  else if s.dmaAnyPoison core a 64 then
    (((s.writeStatus core a 2 0x02 0 0).modDma core (fun d => { d with descBad := d.descBad + 1 })).chainBad h, false)
  else
    let d := s.dmaDesc core a h.owner.isSome
    let s1 := (s.modCh core ch (fun c => { c with desc := some d, fired := none })).tallyDma core h d.clamps
    if inRun && decide (d.trigger = 0) then (s1.modCh core ch (fun c => { c with fired := some (s.core core).dma.fires }), true)
    else
      let s2 := if inRun then s1.modDma core (fun y => { y with run := none }) else s1
      (if s2.triggerNow core d then s2.fireTrigger core ch else s2, true)

/-- The active chain of a channel is over: the oldest head of the FIFO becomes active (R244); `n` bounds the heads. (DEDUCED: notes/assumptions/31) -/
def State.nextChain (core ch : Nat) : Nat → State → State
  | 0, s => s
  | n + 1, s =>
    match (s.dmaCh core ch).fifo with
    | [] => s.modCh core ch (fun c => { c with active := none, desc := none, fired := none })
    | h :: rest =>
      let s1 := s.modCh core ch (fun c => { c with active := some h, desc := none, fired := none, fifo := rest })
      let (s2, ok) := s1.loadDesc core ch h h.addr false
      if ok then s2
      else (State.nextChain core ch n (s2.modCh core ch (fun c => { c with active := none }))).chainEnded h

/-- Put a chain head into a channel with room (R244). -/
def State.enqueueHead (s : State) (core ch : Nat) (h : ChainHead) : State :=
  let c := s.dmaCh core ch
  let s1 := s.modCh core ch (fun x => { x with fifo := x.fifo ++ [h] })
  if c.active.isNone then (State.nextChain core ch 5 s1).firesDone core else s1

/-- Has a channel room for a head. -/
def State.dmaHasRoom (s : State) (core ch : Nat) : Bool := decide ((s.dmaCh core ch).fifo.length < 4)

/-- The request of the command that holds a core (R375). -/
def State.coreReq (s : State) (core : Nat) : Option (Nat × Nat) :=
  match (s.core core).holder with
  | none => none
  | some (q, seq) => (s.entry q seq).map (fun e => (q, reqId e.cmd.tag))

/-- DMA_CH_START (R244): device code puts a chain head into a channel; a write to a full FIFO waits. -/
def execDmaChStart (core ch : Nat) (addr : BitVec 64) (s : State) : Host.Outcome State Fault Refusal :=
  if ch < 8 ∧ s.servedCore core = true ∧ s.dmaHasRoom core ch = true ∧ s.coreInReset core = false then
    let a := dmaNorm addr.toNat
    let s1 := if a % 64 = 0 then s else s.modDma core (fun d => { d with clamps := d.clamps + 1 })
    .next (s1.enqueueHead core ch { addr := a / 64 * 64, owner := none, detached := false, req := s.coreReq core, since := s.nowNs })
  else .next s

/-! ### Runs and operations -/

/-- The ready channel whose trigger fired earliest, the lowest of those that fired together, and when (R250). -/
def DmaSt.earliest (d : DmaSt) : Option (Nat × Nat) :=
  d.ch.foldl (fun (best : Option (Nat × Nat)) c =>
    match c.2.desc, c.2.fired with
    | some _, some t => (match best with
      | some (t0, c0) => if t < t0 then some (t, c.1) else some (t0, c0)
      | none => some (t, c.1))
    | _, _ => best) none

/-- The channel whose run a free engine starts: none while a share of a COPY is before it (R250, R476). -/
def DmaSt.choose (d : DmaSt) : Option Nat :=
  match d.earliest, d.share with
  | some (t, ch), some (t0, _) => if t < t0 then some ch else none
  | some (_, ch), none => some ch
  | none, _ => none

/-- May the share of a command start: the engine is free and no run became ready before it (R476). -/
def DmaSt.shareStarts (d : DmaSt) (q seq : Nat) : Bool :=
  d.run.isNone && d.choose.isNone && decide (d.share.map (·.2) = some (q, seq))

/-- DMA_RUN_START (R250): a free engine starts the chosen run. -/
def execDmaRunStart (core : Nat) (s : State) : Host.Outcome State Fault Refusal :=
  match (s.core core).dma.run, (s.core core).dma.choose with
  | none, some ch => .next (s.modDma core (fun d => { d with run := some ch, moved := none }))
  | _, _ => .next s

/-- The running descriptor of a core when its operation is `op` and has not been executed. -/
def State.dmaRunning (s : State) (core op : Nat) : Option (Nat × DmaDesc) :=
  match (s.core core).dma.run, (s.core core).dma.moved with
  | some ch, none =>
    match (s.dmaCh core ch).desc with
    | some d => if d.op = op then some (ch, d) else none
    | none => none
  | _, _ => none

/-- The operation is done: bytes written, cause, range operations to wait for. -/
def State.dmaMoved (s : State) (core ch bytes cause target : Nat) : State :=
  let s1 := s.modDma core (fun d => { d with moved := some (bytes, cause, target), bytes := d.bytes + bytes })
  match (s.dmaCh core ch).active with
  | some h => match h.req with
    | some (q, id) => s1.book q id 7 (cdiv bytes 128)
    | none => s1
  | none => s1

/-- Write one row with the bus error of R254: `bad` is the index of the first poisoned source byte, if any. Answers the bytes
written. -/
def State.dmaRow (s : State) (core dst : Nat) (bs : List Byte) (bad : Option Nat) : State × Nat :=
  match bad with
  | none => (s.dmaWrite core dst bs false, bs.length)
  | some j =>
    let hi := min bs.length ((dmaOff dst + j) / 128 * 128 + 128 - dmaOff dst)
    ((s.dmaWrite core dst (bs.take hi) false).poisonGranule core (dst + j), hi)

/-- Rows of a plain COPY from row `r` on (R248, R254, R256): `n` rows left. Answers bytes written and cause. -/
def State.dmaRows (core : Nat) (d : DmaDesc) : Nat → Nat → State → State × Nat × Nat
  | 0, _, s => (s, 0, 0)
  | n + 1, r, s =>
    let src := d.src.toNat + r * d.srcStride
    let dst := d.dst.toNat + r * d.dstStride
    let roomS := s.dmaRoom d.src.toNat - r * d.srcStride
    let roomD := s.dmaRoom d.dst.toNat - r * d.dstStride
    let len := min d.rowBytes (min roomS roomD)
    let gap := dmaOff dst - dmaOff src
    let per : Bool := (dmaLocal src == dmaLocal dst) && decide (dmaOff src < dmaOff dst) && decide (gap < len)
    let at0 (i : Nat) : Nat := src + (if per then i % gap else i)
    let bs := (List.range len).map (fun i => s.dmaByte core (at0 i))
    let bad := findFirst (fun i => s.dmaPoison core (at0 i)) (List.range len)
    let (s1, k) := s.dmaRow core dst bs bad
    if bad.isSome then (s1, k, 0x01)
    else if len < d.rowBytes then (s1, k, 0)
    else
      let (s2, k2, c) := State.dmaRows core d n (r + 1) s1
      (s2, k + k2, c)

/-- The source bytes of a compressing descriptor, up to the first outside the window, and the first poisoned one (R256, R261). -/
def State.dmaSource (s : State) (core : Nat) (d : DmaDesc) : List Byte × Option Nat :=
  let addrs := (rowsWithin (s.dmaRoom d.src.toNat) d.srcStride d.rowBytes d.rows 0).flatMap (fun p => rangeFrom p.1 p.2)
  (addrs.map (fun o => s.dmaByte core (d.src.toNat + o)), findFirst (fun i => s.dmaPoison core (d.src.toNat + lget 0 addrs i)) (List.range addrs.length))

/-- Count what an encoder produced (COD_ registers). -/
def State.countEncode (s : State) (inBytes out absent : Nat) (bs : List Coded) : State :=
  let raw := (bs.filter (fun b => match b with | .code c => c.raw | .zero => false)).length
  let z := (bs.filter (fun b => match b with | .zero => true | .code _ => false)).length
  { s with cod := { s.cod with inBytes := s.cod.inBytes + inBytes, outBytes := s.cod.outBytes + out, rawBlocks := s.cod.rawBlocks + raw,
                               zeroBlocks := s.cod.zeroBlocks + z, cutSegments := s.cod.cutSegments + absent } }

/-- Count what an expansion read and gave. -/
def State.countExpand (s : State) (x : Expansion) (out : Nat) : State :=
  { s with cod := { s.cod with expIn := s.cod.expIn + x.read, expOut := s.cod.expOut + out, streamBad := s.cod.streamBad + b2n (decide (x.cause = 3)) } }

/-- Compress (R261): segments before a poisoned source byte are written, then the granule at the next byte is poisoned (R254). (DEDUCED: notes/assumptions/32) -/
def State.dmaCompress (s : State) (core : Nat) (d : DmaDesc) : State × Nat × Nat :=
  let (src, bad) := s.dmaSource core d
  let sz := codSize d.codecFmt
  let n := src.length / sz
  let els := (List.range n).map (fun i => fieldAt src (sz * i) sz)
  let f := if d.codecStream = 0 then d.codecFmt else d.codecStream + 5
  let good := match bad with
    | none => n
    | some j => j / sz / 4096 * 4096
  let blocks := if d.codecStream = 0 then losslessBlocks f (els.take good)
    else lossyBlocks f s.train.headroom 0 ((els.take good).map (decodeElem d.codecFmt)) (List.replicate good 0)
  let segs := segments blocks
  let room := s.dmaRoom d.dst.toNat
  match bad with
  | none =>
    let (bytes, absent) := streamBytes f n room segs
    let k := min room bytes.length
    ((s.dmaWrite core d.dst.toNat (bytes.take k) false).countEncode (sz * n) k absent blocks, k, 0)
  | some _ =>
    let at0 := dataStart (cdiv n 4096)
    let data := segs.flatten.take (room - at0)
    let a := d.dst.toNat + at0 + data.length
    let s1 := s.dmaWrite core (d.dst.toNat + at0) data false
    let g := min (128 - dmaOff a % 128) (room - at0 - data.length)
    ((s1.poisonGranule core a).countEncode (sz * good) (data.length + g) 0 blocks, data.length + g, 0x01)

/-- Write bytes into consecutive stretches from a base on, as far as they go: state, bytes written. -/
def State.dmaScatter (core base : Nat) : List (Nat × Nat) → List Byte → State → State × Nat
  | [], _, s => (s, 0)
  | (o, n) :: t, bs, s =>
    let r := State.dmaScatter core base t (bs.drop n) (s.dmaWrite core (base + o) (bs.take n) false)
    (r.1, (bs.take n).length + r.2)

/-- Expand (R261, R262, R254): only the elements that land before the destination leaves its window (R256). -/
def State.dmaExpand (s : State) (core : Nat) (d : DmaDesc) : State × Nat × Nat :=
  let sz := codSize d.codecFmt
  let dst := d.dst.toNat
  let spots := rowsWithin (s.dmaRoom dst) d.dstStride d.rowBytes d.rows 0
  let x := expandStream (fun o n => s.dmaBytes core (d.src.toNat + o) n) (fun o n => s.dmaAnyPoison core (d.src.toNat + o) n) (s.dmaRoom d.src.toNat)
    (cdiv (spots.map (·.2)).sum sz)
  let bits (e : Expanded) : Nat := if x.fmt = d.codecFmt then e.1 else (convert d.codecFmt 0 0 false e.2).1
  let (s1, k) := State.dmaScatter core dst spots (x.els.flatMap (fun e => leBytes sz (bits e))) s
  let s2 := s1.countExpand x k
  if x.cause = 0 then (s2, k, 0)
  else match spotOf spots k with
    | none => (s2, k, x.cause)
    | some o => (s2.poisonGranule core (dst + o), k + min (128 - dmaOff (dst + o) % 128) (s.dmaRoom dst - o), x.cause)

/-- DMA_COPY (R248, R261). -/
def execDmaCopy (core : Nat) (s : State) : Host.Outcome State Fault Refusal :=
  match s.dmaRunning core 0 with
  | none => .next s
  | some (ch, d) =>
    if !d.moves then .next (s.dmaMoved core ch 0 0 0)
    else if d.codecDir ≠ 0 ∧ s.unitInReset 6 0 = true then .next (s.park 6 0 (.dma core))
    else
      let (s1, k, c) := if d.codecDir = 1 then s.dmaCompress core d else if d.codecDir = 2 then s.dmaExpand core d
        else State.dmaRows core d d.rows 0 s
      .next (s1.dmaMoved core ch k c 0)

/-- Rows of a FILL (R247, R248): the byte at address a receives byte (a mod 8) of SRC. -/
def State.dmaFillRows (core : Nat) (d : DmaDesc) : Nat → Nat → State → State × Nat
  | 0, _, s => (s, 0)
  | n + 1, r, s =>
    let dst := d.dst.toNat + r * d.dstStride
    let len := min d.rowBytes (s.dmaRoom d.dst.toNat - r * d.dstStride)
    let pat := leBytes 8 d.src.toNat
    let s1 := s.dmaWrite core dst ((List.range len).map (fun i => lget 0 pat ((dmaOff dst + i) % 8))) false
    if len < d.rowBytes then (s1, len)
    else
      let (s2, k) := State.dmaFillRows core d n (r + 1) s1
      (s2, len + k)

/-- DMA_FILL (R247). -/
def execDmaFill (core : Nat) (s : State) : Host.Outcome State Fault Refusal :=
  match s.dmaRunning core 1 with
  | none => .next s
  | some (ch, d) =>
    if !d.moves then .next (s.dmaMoved core ch 0 0 0)
    else
      let (s1, k) := State.dmaFillRows core d d.rows 0 s
      .next (s1.dmaMoved core ch k 0 0)

/-- Queue the range operations of a descriptor (R247): consecutive ones of at most 1,048,576 lines, each as the queue has room for it; the descriptor
waits for the last. -/
def State.dmaRange (s : State) (core op : Nat) : State :=
  match s.dmaRunning core op with
  | none => s
  | some (ch, d) =>
    let n := d.rowBytes * d.rows
    if !d.moves || dmaLocal d.dst.toNat || decide (n = 0) then s.dmaMoved core ch 0 0 0
    else
      let a := dmaOff d.dst.toNat
      let first := a / 128
      let lines := (a + n - 1) / 128 - first + 1
      let s1 := (List.range (cdiv lines 1048576)).foldl (fun st i => st.queueRange (op - 2) (first + 1048576 * i) (lines - 1048576 * i)) s
      s1.dmaMoved core ch 0 0 (s1.llc.rangeDone + s1.llc.rangeQueue.length + s1.llc.rangeStalled.length)

/-- DMA_PIN (R247). -/
def execDmaPin (core : Nat) (s : State) : Host.Outcome State Fault Refusal := .next (s.dmaRange core 2)

/-- DMA_UNPIN (R247). -/
def execDmaUnpin (core : Nat) (s : State) : Host.Outcome State Fault Refusal := .next (s.dmaRange core 3)

/-- DMA_DEAD (R247). -/
def execDmaDead (core : Nat) (s : State) : Host.Outcome State Fault Refusal := .next (s.dmaRange core 4)

/-- DMA_CLEAN (R247). -/
def execDmaClean (core : Nat) (s : State) : Host.Outcome State Fault Refusal := .next (s.dmaRange core 5)

/-- DMA_NOP (R247): moves nothing. -/
def execDmaNop (core : Nat) (s : State) : Host.Outcome State Fault Refusal :=
  match s.dmaRunning core 6 with
  | none => .next s
  | some (ch, _) => .next (s.dmaMoved core ch 0 0 0)

/-- DMA_DESC_COMPLETE (R252): STATUS, arrival, DONE, then the next descriptor or the chain's end, and the triggers that wait for DONE. A range
operation waits for its last completion (R247). (DEDUCED: notes/assumptions/31) -/
def execDmaDescComplete (core : Nat) (s : State) : Host.Outcome State Fault Refusal :=
  match (s.core core).dma.run, (s.core core).dma.moved with
  | some ch, some (bytes, cause, target) =>
    match (s.dmaCh core ch).desc, (s.dmaCh core ch).active with
    | some d, some h =>
      if s.llc.rangeDone < target then .next s
      else
        let s1 := s.writeStatus core d.addr (if cause = 0 then 1 else 2) cause d.clamps bytes
        let s2 := if d.signalEn then s1.arriveWeir d.signalWeir else s1
        let s3 := (s2.modCh core ch (fun c => { c with doneCount := (c.doneCount + 1) % 65536, desc := none, fired := none })).modDma core
          (fun y => { y with moved := none, descDone := y.descDone + b2n (decide (cause = 0)), descBad := y.descBad + b2n (decide (cause ≠ 0)) })
        let s4 := if cause = 0 then s3 else s3.chainBad h
        let (s5, ok) := if d.next = 0 then (s4, false) else s4.loadDesc core ch h d.next true
        let s6 := if ok then s5
          else
            let s7 := (s5.modDma core (fun y => { y with run := none })).modCh core ch (fun c => { c with active := none })
            (State.nextChain core ch 5 s7).chainEnded h
        .next (s6.fireWaiting core (fun x => decide (x.trigger = 3) && s6.triggerNow core x))
    | _, _ => .next s
  | _, _ => .next s

/-- COUNTDOWN_EXPIRE (R249): a channel's countdown has elapsed. -/
def execCountdownExpire (core ch : Nat) (s : State) : Host.Outcome State Fault Refusal :=
  match (s.dmaCh core ch).desc, (s.dmaCh core ch).fired with
  | some d, none => if d.trigger = 2 then .next ((s.fireTrigger core ch).firesDone core) else .next s
  | _, _ => .next s

/-! ### DMA_CHAIN (R255) -/

/-- PARAMS of DMA_CHAIN after their clamps: first descriptor, stride, channel, detached; and how many were clamped. (DEDUCED: notes/assumptions/31) -/
def chainParams (p : List Byte) : (Nat × Nat × Nat × Bool) × Nat :=
  ((fieldAt p 0 8, fieldAt p 8 8, fieldAt p 0x10 1 % 4, decide (fieldAt p 0x11 1 ≠ 0)),
   b2n (decide (3 < fieldAt p 0x10 1)) + b2n (decide (1 < fieldAt p 0x11 1)))

/-- DMA_CHAIN (R255): every command core puts its head into the channel, in a replay the descriptor that was running (R405); a head waits for FIFO room, and the row may come again. A
detached command is done when every head has entered, an attached one when every chain has ended. -/
def execDmaChain (q seq : Nat) (s : State) : Host.Outcome State Fault Refusal :=
  match s.ready q seq 0x3000 with
  | none => .next s
  | some e =>
    let (first, stride, ch, det) := (chainParams e.cmd.params).1
    let put (acc : State × Bool) (sh : Nat × Nat) : State × Bool :=
      let st := acc.1
      let was := match st.entry q seq with
        | some x => findFirst (fun t => decide (t.1 = sh.1)) x.tiles
        | none => some (sh.1, [])
      if was = some (sh.1, []) then acc
      else if st.dmaHasRoom sh.2 ch && !st.coreInReset sh.2 then
        let a := match was with
          | some (_, (w :: _) :: _) => w.toNat
          | _ => dmaNorm ((first + sh.1 * stride) % 2 ^ 64)
        let st1 := st.modEntry q seq (fun x => { x with tiles := x.tiles.filter (fun t => decide (t.1 ≠ sh.1)) ++ [(sh.1, [])] })
        (st1.enqueueHead sh.2 ch { addr := a / 64 * 64, owner := some (q, seq), detached := det, req := some (q, reqId e.cmd.tag), since := s.nowNs }, acc.2)
      else (st, false)
    let shares := (List.range e.cmd.coreCount).map (fun i => (i, s.runsFor (e.cmd.firstCore + i)))
    let (s1, all) := shares.foldl put (s, true)
    if !all then .next s1
    else
      let s2 := s1.modEntry q seq (fun x => { x with started := true, phase := 1 })
      match s2.entry q seq with
      | none => .next s2
      | some x =>
        if det then .next (s2.ran q seq 0 [] [])
        else if s2.chainsLeft q seq then .next s2
        else .next (s2.ran q seq x.code [] [])

end Sys2Proof.Machine
end

