-- ==== Sys2Proof/Machine/Basin.lean ====
section
/-! DEFINITION. The basin's arithmetic (R114 to R121): contributions, realignment, early promotion, promotion, the
non-finite sums, the INT32 path, the BF16 split, Hormi-exact and reference totals (R103, R160, R163). -/

namespace Sys2Proof.Machine

open Sys2Proof

/-- Code of a non-finite value kept by the partial plane (R118): 1 +∞, 2 −∞, 3 NaN; 0 for a finite one. -/
def nfCode : FVal → Nat
  | .nan => 3
  | .inf n => if n then 2 else 1
  | .fin _ _ _ => 0

/-- IEEE addition of two non-finite sums, 0 being none. -/
def nfAdd (a b : Nat) : Nat := if a = 0 then b else if b = 0 then a else if a = b then a else 3

/-- The value of a non-finite sum. -/
def nfVal : Nat → FVal
  | 1 => .inf false
  | 2 => .inf true
  | _ => .nan

/-- Counts of one landed row. -/
structure BsnCounts where
  promotions : Nat
  early : Nat
  inexact : Nat
  intSat : Nat
  deriving DecidableEq, Repr

/-- Sum of counts. -/
def BsnCounts.add (a b : BsnCounts) : BsnCounts :=
  { promotions := a.promotions + b.promotions, early := a.early + b.early, inexact := a.inexact + b.inexact, intSat := a.intSat + b.intSat }

/-- No counts. -/
def BsnCounts.zero : BsnCounts := { promotions := 0, early := 0, inexact := 0, intSat := 0 }

/-- A magnitude truncated to multiples of 2^(x − 21), in those units, and whether bits were dropped (R115). -/
def alignMag (m : Nat) (e x : Int) : Nat × Bool :=
  let u := x - 21
  if e ≥ u then (m * pow2 (e - u), false) else (m / pow2 (u - e), decide (m % pow2 (u - e) ≠ 0))

/-- A signed magnitude shifted right by `k`, toward zero, and whether bits were dropped (R116). -/
def shiftMag (q : Int) (k : Int) : Int × Bool :=
  let a := q.natAbs / pow2 k
  (if q < 0 then -(a : Int) else (a : Int), decide (q.natAbs % pow2 k ≠ 0))

/-- A partial, or none when all eight magnitudes are zero (R114). -/
def mkPart (q : List Int) (x : Int) : Option Part := if q.all (· = 0) then none else some { x := x, q := q }

/-- The contribution of one pass to a column group (R115): the products of its eight columns, headroom h. -/
def contribution (cols : List (List FVal)) (h : Nat) : Option Part × Bool :=
  let eps := cols.foldl (fun a ps => ps.foldl (fun b p => omax b (binadeOf p)) a) none
  match eps with
  | none => (none, false)
  | some e =>
    let x := e + (h : Int)
    let col (ps : List FVal) : Int × Bool := ps.foldl (fun acc p =>
      match p with
      | .fin n m ex => let (a, d) := alignMag m ex x; (acc.1 + (if n then -(a : Int) else (a : Int)), acc.2 || d)
      | _ => acc) (0, false)
    let rs := cols.map col
    (some { x := x, q := rs.map (·.1) }, rs.any (·.2))

/-- Promote a partial into eight totals (R117): one rounding each, a zero adds nothing. -/
def promotePart (ts : List W32) (p : Option Part) : List W32 :=
  match p with
  | none => ts
  | some pt => (ts.zip pt.q).map (fun tq =>
      if tq.2 = 0 then tq.1 else to32 (rne f32 (xadd false (of32 tq.1) (.fin (decide (tq.2 < 0)) tq.2.natAbs (pt.x - 21)))))

/-- Add a contribution to a group's partial (R116): totals, partial, early promotions, realignments that dropped bits. -/
def addContribution (ts : List W32) (cur : Option Part) (con : Option Part) : List W32 × Option Part × Nat × Nat :=
  match con, cur with
  | none, _ => (ts, cur, 0, 0)
  | some c, none => (ts, mkPart c.q c.x, 0, 0)
  | some c, some a =>
    let x := max a.x c.x
    let a' := a.q.map (fun q => shiftMag q (x - a.x))
    let c' := c.q.map (fun q => shiftMag q (x - c.x))
    let sums := (a'.zip c').map (fun p => p.1.1 + p.2.1)
    if sums.any (fun v => decide (v.natAbs ≥ 2 ^ 21)) then (promotePart ts (some a), mkPart c.q c.x, 1, 0)
    else (ts, mkPart sums x, 0, b2n (a'.any (·.2)) + b2n (c'.any (·.2)))

/-- Land one pass of one row on the floating path: 32 lists of products; `boundary` ends the interval (R115 to R118). -/
def landFloat (acc : RowAcc) (cols : List (List FVal)) (h : Nat) (boundary : Bool) : RowAcc × BsnCounts :=
  let nf := (acc.nf.zip cols).map (fun p => p.2.foldl (fun a v => nfAdd a (nfCode v)) p.1)
  let grp (g : Nat) : List W32 × Option Part × List Nat × BsnCounts :=
    let ts := (acc.t.drop (8 * g)).take 8
    let fin := ((cols.drop (8 * g)).take 8).map (fun ps => ps.filter (fun v => isFin v && !isZero v))
    let (con, dropped) := contribution fin h
    let (ts1, part, early, realign) := addContribution ts (lget none acc.parts g) con
    let n8 := (nf.drop (8 * g)).take 8
    let some8 := n8.any (· ≠ 0)
    if boundary then
      let ts2 := promotePart ts1 part
      let ts3 := (ts2.zip n8).map (fun p => if p.2 = 0 then p.1 else to32 (addIn f32 (of32 p.1) (nfVal p.2)))
      (ts3, none, List.replicate 8 0, { promotions := b2n (part.isSome || some8), early := early, inexact := b2n dropped + realign, intSat := 0 })
    else (ts1, part, n8, { promotions := 0, early := early, inexact := b2n dropped + realign, intSat := 0 })
  let gs := (List.range 4).map grp
  ({ t := gs.flatMap (·.1), parts := gs.map (·.2.1), nf := gs.flatMap (·.2.2.1) },
   gs.foldl (fun a g => a.add g.2.2.2) .zero)

/-- Saturate to INT32 (R119). -/
def sat32 (i : Int) : Int := max (-(2 ^ 31 : Int)) (min (2 ^ 31 - 1 : Int) i)

/-- A finite value that is an integer. -/
def intOf : FVal → Int
  | .fin n m e => toInt n m e
  | _ => 0

/-- The row with its saturated columns noted: on the INT32 path `nf` holds 1 for a column whose total has saturated (R395). -/
def RowAcc.noteSat (acc : RowAcc) (sats : List Nat) : RowAcc := { acc with nf := (acc.nf.zip sats).map (fun p => max p.1 p.2) }

/-- Land one pass of one row on the INT32 path (R119). -/
def landInt (acc : RowAcc) (cols : List (List FVal)) : RowAcc × BsnCounts :=
  let rs := (acc.t.zip cols).map (fun p =>
    let v := p.1.toInt + (p.2.map intOf).sum
    (BitVec.ofInt 32 (sat32 v), b2n (sat32 v ≠ v)))
  (RowAcc.noteSat { acc with t := rs.map (·.1) } (rs.map (·.2)), { BsnCounts.zero with intSat := (rs.map (·.2)).sum })

/-- A cleared bank row (R124). -/
def RowAcc.clear : RowAcc := { t := List.replicate 32 0, parts := [none, none, none, none], nf := List.replicate 32 0 }

/-- An exact sum of values: the finite part as a signed dyadic, and the non-finite sum. -/
def sumExact (vs : List FVal) : (Int × Int) × Nat :=
  vs.foldl (fun a v =>
    match v with
    | .fin n m e => (dyAdd a.1.1 a.1.2 (sgnM n m) e, a.2)
    | w => (a.1, nfAdd a.2 (nfCode w))) ((0, 0), 0)

/-- One group of 16 products applied to the total of Hormi-exact mode (R160). -/
def hormiGroup (t : FVal) (ps : List FVal) : FVal :=
  let ((a, e), nf) := sumExact ps
  if nf ≠ 0 then addIn f32 t (nfVal nf)
  else if a = 0 then t
  else
    let g := (roundX f32 1 0 false (ofDy false a e)).v
    match g with
    | .fin _ m ge =>
      if m = 0 || decide (eVal m ge - 1 < -126) then t
      else
        let t' := addIn f32 t g
        match t' with
        | .fin n m' e' => if m' ≠ 0 && decide (eVal m' e' - 1 < -126) then .fin n 0 0 else t'
        | _ => t'
    | _ => addIn f32 t g

/-- The groups of 16 of a stretch of products in order; `n` bounds their number. -/
def hormiFold : Nat → FVal → List FVal → FVal
  | 0, t, _ => t
  | n + 1, t, ps => if ps.isEmpty then t else hormiFold n (hormiGroup t (ps.take 16)) (ps.drop 16)

/-- INT8 × INT8 under Hormi-exact mode: group sums into INT32, saturating at each addition (R160). -/
def hormiIntFold : Nat → Int → List FVal → Int
  | 0, t, _ => t
  | n + 1, t, ps => if ps.isEmpty then t else hormiIntFold n (sat32 (t + ((ps.take 16).map intOf).sum)) (ps.drop 16)

/-- Does any addition of `hormiIntFold` saturate (R160, R395). -/
def hormiIntSat : Nat → Int → List FVal → Bool
  | 0, _, _ => false
  | n + 1, t, ps =>
    if ps.isEmpty then false
    else
      let v := t + ((ps.take 16).map intOf).sum
      decide (sat32 v ≠ v) || hormiIntSat n (sat32 v) (ps.drop 16)

/-- The reference total of an element's products (R163). -/
def refTotal (ps : List FVal) : FVal :=
  let ((a, e), nf) := sumExact ps
  if nf ≠ 0 then nfVal nf
  else if a = 0 then (if !ps.isEmpty && ps.all (fun p => match p with | .fin true _ _ => true | _ => false) then fnegZero else fzero)
  else rne f32 (ofDy false a e)

/-- The BF16 split of R103: hi and lo of a binary32 value. -/
def splitHiLo (x : FVal) : FVal × FVal :=
  match x with
  | .fin n m e =>
    let bf := fmtOf 0x00
    let r := roundX bf 0 0 false (.rat n m 1 e false)
    let hi : FVal := match r.v with
      | .inf _ => .fin n bf.maxM bf.maxE
      | v => v
    (hi, rne bf (xadd false x (fneg hi)))
  | v => (v, fzero)

/-- The product of pass `sub` of the split (R103): 0 A_lo × B_hi, 1 A_hi × B_lo, 2 A_hi × B_hi; a non-finite operand gives its
product in pass 2 only. -/
def splitProduct (sub : Nat) (a b : FVal) : Option FVal :=
  if isFin a && isFin b then
    let (ah, al) := splitHiLo a
    let (bh, bl) := splitHiLo b
    some (if sub = 0 then fmulExact al bh else if sub = 1 then fmulExact ah bl else fmulExact ah bh)
  else if sub = 2 then some (fmulExact a b) else none

end Sys2Proof.Machine
end

