-- ==== Sys2Proof/Machine/Gemm.lean ====
section
/-! DEFINITION. The GEMM family (R81 to R133, R159 to R164): parameters with their clamps (R112, R134, R162), products, passes,
tiles, the epilogue, the taps and the writes to C; the commands and the basin's own events (R93, R124, R125). -/

namespace Sys2Proof.Machine

open Sys2Proof

/-- What a GEMM-family command or feeder frame computes, after its clamps. `path` is 0 float, 1 INT32, 2 integer block terms
(R119); `hormi` and `ref` select their totals. -/
structure GemmP where
  op : Nat
  a : TDesc
  b : TDesc
  c : TDesc
  e : TDesc
  k : Nat
  m : Nat
  n : Nat
  sp : Nat
  promote : Nat
  slices : Nat
  mt : Nat
  groups : Nat
  zb : Bool
  cls : Nat
  path : Nat
  kp : Nat
  h : Nat
  act : Nat
  accum : Bool
  rowmax : Bool
  rowstat : Bool
  sumsq : Bool
  deriving DecidableEq, Repr

/-- Formats GEMM_HORMI accepts (R159). -/
def hormiFmt (f : Nat) : Bool := decide (f = 0x00) || decide (f = 0x01) || decide (f = 0x04) || decide (f = 0x05) || decide (f = 0x0A)

/-- Formats of B that allow 1:4 (R95). -/
def oneFourFmt (f : Nat) : Bool := decide (f = 0x08) || (decide (4 ≤ f) && decide (f ≤ 7))

/-- A flag as 1 when a field is clamped. -/
def cl (c : Bool) : Nat := b2n c

/-- Fields and clamps of a GEMM-family frame (R85, R112, R126, R134, R159, R162): the computation and the number of clamped fields.
`skipEn` is ZB_SKIP_EN. SLICES is a field of GEMM_FP64S alone and is tallied for it alone. (DEDUCED: notes/assumptions/24) (DESIGN CHOICE: notes/assumptions/75) -/
def gemmParams (opcode : Nat) (ts : List TDesc) (params : List Byte) (skipEn : Bool) : GemmP × Nat :=
  let a0 := lget TDesc.null ts 0
  let b0 := lget TDesc.null ts 1
  let c0 := lget TDesc.null ts 2
  let e0 := lget TDesc.null ts 3
  let toRef : Bool := decide (opcode = 0x1003) && ((!a0.isNull && !hormiFmt a0.fmt) || (!b0.isNull && !hormiFmt b0.fmt))
  let op := if toRef then 0x1004 else opcode
  let bad (t : TDesc) : Bool := !t.isNull &&
    (if op = 0x1000 then decide (fmtClass t.fmt = 0) else if op = 0x1001 ∨ op = 0x1004 then decide (t.fmt = 0x0B) || decide (t.fmt = 0x0C) else false)
  let a := if bad a0 then TDesc.null else a0
  let b := if bad b0 then TDesc.null else b0
  let live := !a.isNull && !b.isNull
  let m := if a.isNull then 0 else a.d 1
  let n := if b.isNull then 0 else b.d 1
  let k := if live then min a.raw0 b.raw0 else 0
  let cMx : Bool := decide (op = 0x1003) && !c0.isNull && fmtMx c0.fmt
  let c := if cMx then TDesc.null else c0
  let wide (t : TDesc) : Bool := !t.isNull && decide (t.fmt = 0x03) && (decide (op = 0x1001) || decide (op = 0x1004))
  let quiet : Bool := decide (op = 0x1003)
  let f (o : Nat) : Nat := fieldAt params o 1
  let spLegal : Bool := if decide (op = 0x1002) || !b.sparse then decide (f 0 = 0)
    else decide (f 0 = 1) || (decide (f 0 = 2) && decide (op ≠ 0x1001) && oneFourFmt b.fmt && !a.isNull && (decide (fmtClass a.fmt = 4) || decide (fmtClass a.fmt = 8)))
  let sp := if decide (op = 0x1002) || !b.sparse then 0 else if spLegal then f 0 else 1
  let stage := if f 6 = 0 then 0 else 1
  let tmMax := if stage = 1 then 8 else 16
  let tm := min (f 3) tmMax
  let s0 := f 2
  let slices := if s0 = 0 then 7 else if s0 ≤ 3 then 4 else min s0 9
  let ep := f 4
  let epBad : Bool := decide (4 < ep % 8) || (decide (op = 0x1003) && decide (3 < ep % 8))
  let ep' := if epBad then 0 else ep
  let eBad : Bool := !e0.isNull && !(decide (e0.fmt = 0x02) || (decide (op = 0x1002) && decide (e0.fmt = 0x03)))
  let e := if eBad then TDesc.null else e0
  let on (i : Nat) : Bool := bitOf ep' i && !(eBad && decide (i ≥ 4))
  let cls := if op = 0x1001 then 16 else if op = 0x1002 then 8
    else let x := max (if a.isNull then 0 else fmtClass a.fmt) (if b.isNull then 0 else fmtClass b.fmt); if x = 0 then 16 else x
  let ints : Bool := live && decide (a.fmt = 0x09 ∨ a.fmt = 0x0A) && decide (b.fmt = 0x09 ∨ b.fmt = 0x0A)
  let int8 : Bool := live && decide (a.fmt = 0x0A) && decide (b.fmt = 0x0A) && decide (op = 0x1000 ∨ op = 0x1003 ∨ op = 0x1004)
  let path := if int8 then 1 else if ints && decide (op = 0x1000) then 2 else 0
  let base := if cls = 4 then 128 else if cls = 8 then 64 else 32
  let mul := if sp = 1 then 2 else if sp = 2 then 4 else 1
  let kp := if op = 0x1003 ∨ op = 0x1004 then base else base * mul
  let h := if path = 2 then (if sp = 0 then 1 else 2) else if cls = 4 then 7 else if cls = 8 then 6 else 5
  let clamps := cl toRef + cl (bad a0) + cl (bad b0) + cl (live && decide (a.raw0 ≠ b.raw0)) +
    cl (live && decide (b.d 2 ≠ 1) && decide (b.d 2 ≠ a.d 2)) + cl (live && decide (b.d 3 ≠ 1) && decide (b.d 3 ≠ a.d 3)) + cl cMx +
    cl (!c.isNull && decide (c.d 0 < n)) + cl (!c.isNull && decide (c.d 1 < m)) + cl (wide a) + cl (wide b) + cl (!spLegal) +
    cl (b.overruns (cdiv b.raw0 (if sp = 1 then 2 else if sp = 2 then 4 else 1))) +
    (if quiet then 0 else cl (decide (1 < f 6)) + cl (decide (1 < f 5)) + cl (decide (tmMax < f 3)) + cl (decide (4 < f 7)) + cl (decide (4 < f 1))) +
    cl (decide (op = 0x1002) && (decide (1 ≤ s0 ∧ s0 ≤ 3) || decide (9 < s0))) + cl epBad + cl eBad +
    cl (on 4 && e.isNull) + cl (on 5 && e.isNull) + cl (on 3 && c.isNull) + cl (on 6 && c.isNull)
  ({ op := op, a := a, b := b, c := c, e := e, k := k, m := m, n := n, sp := sp,
     promote := if op = 0x1001 then 1 else if f 1 = 0 then (if cls = 16 then 1 else 4) else min (f 1) 4,
     slices := slices, mt := if tm = 0 then min 256 (32 * max 1 (cdiv m 32)) else 32 * tm, groups := if f 7 = 0 then 4 else min (f 7) 4,
     zb := decide (f 5 = 0) && a.zbMap && decide (op ≠ 0x1002) && skipEn, cls := cls, path := path, kp := kp, h := h,
     act := ep' % 8, accum := on 3 && !c.isNull, rowmax := on 4 && !e.isNull, rowstat := on 5 && !e.isNull, sumsq := on 6 && !c.isNull },
   clamps)

/-! ### Tiles (R83) -/

/-- Tile rows of the output. -/
def GemmP.tr (p : GemmP) : Nat := cdiv p.m p.mt

/-- Tile columns of the output. -/
def GemmP.tc (p : GemmP) : Nat := cdiv p.n 32

/-- Batches: DIM2 × DIM3 of A. -/
def GemmP.batches (p : GemmP) : Nat := p.a.d 2 * p.a.d 3

/-- Total tiles. -/
def GemmP.tiles (p : GemmP) : Nat := p.batches * p.tr * p.tc

/-- The place of tile t: batch, tile row, tile column. -/
def GemmP.place (p : GemmP) (t : Nat) : Nat × Nat × Nat := (t / p.tc / p.tr, t / p.tc % p.tr, t % p.tc)

/-- Rows of tile t: Mt, or fewer on the last tile row (R93). -/
def GemmP.tileRows (p : GemmP) (t : Nat) : Nat := min p.mt (p.m - (p.place t).2.1 * p.mt)

/-- Columns of tile t (R131). -/
def GemmP.tileCols (p : GemmP) (t : Nat) : Nat := min 32 (p.n - 32 * (p.place t).2.2)

/-- The command core that computes tile t of T, of cc cores (R83). -/
def shareOf (t total cc : Nat) : Nat := ((t + 1) * cc - 1) / total

/-- The first item of share i of T items over cc cores (R83). -/
def shareStart (i total cc : Nat) : Nat := i * total / cc

/-- K-passes of a tile, the split's three counted apart (R120, R121). -/
def GemmP.passes (p : GemmP) : Nat := cdiv p.k p.kp * (if p.op = 0x1001 then 3 else 1)

/-- Passes for each K position: three for the split. -/
def GemmP.subs (p : GemmP) : Nat := if p.op = 0x1001 then 3 else 1

/-! ### Operands -/

/-- Row number in A of output row m of batch b. -/
def GemmP.aRow (p : GemmP) (b m : Nat) : Nat := p.a.rowNo m (b % p.a.d 2) (b / p.a.d 2)

/-- Row number in B of output column n of batch b: each batch coordinate clamped to B's extent minus 1 (R81). -/
def GemmP.bRow (p : GemmP) (b n : Nat) : Nat := p.b.rowNo n (min (b % p.a.d 2) (p.b.d 2 - 1)) (min (b / p.a.d 2) (p.b.d 3 - 1))

/-- Is block j of A's row marked zero, blocks beyond K among them (R98, R99); under GEMM_HORMI too, ZB_IGNORE 0. (DESIGN CHOICE: notes/assumptions/80) -/
def GemmP.blockZero (p : GemmP) (s : State) (r j : Nat) : Bool := p.zb && (decide (cdiv p.k 32 ≤ j) || p.a.zb s r j)

/-- FP64 operands of GEMM_FP32X3 and GEMM_REF are rounded to binary32 first (R103, R164); an MX value beyond binary32's range stays
exact. (DEDUCED: notes/assumptions/24) (DESIGN CHOICE: notes/assumptions/74) -/
def GemmP.operand (p : GemmP) (f : Nat) (v : FVal) : FVal := if f = 0x03 ∧ p.op ≠ 0x1002 then rne f32 (ofF v) else v

/-- The A element at logical position k of row r (R99). -/
def GemmP.aVal (p : GemmP) (s : State) (r k : Nat) : FVal :=
  if p.blockZero s r (k / 32) then fzero else p.operand p.a.fmt (p.a.val s k r)

/-- The B element at logical position k of row r; none where a sparse pass holds no stored value (R95). GEMM_REF and
GEMM_HORMI expand to dense. -/
def GemmP.bVal (p : GemmP) (s : State) (r k : Nat) : Option FVal :=
  match p.b.weight s p.sp r k with
  | some v => some (p.operand p.b.fmt v)
  | none => if p.op = 0x1003 ∨ p.op = 0x1004 then some fzero else none

/-- The products of column n of A row r at positions k0 to k0 + len − 1, in ascending k. -/
def GemmP.products (p : GemmP) (s : State) (ra rb k0 len : Nat) : List FVal :=
  (rangeFrom k0 (min len (p.k - k0))).filterMap (fun k => (p.bVal s rb k).map (fun w => fmulExact (p.aVal s ra k) w))

/-- The products of one pass: the split's sub-pass (R103), or the block terms of integer MX operands (R119). -/
def GemmP.passProducts (p : GemmP) (s : State) (ra rb pass : Nat) : List FVal :=
  if p.op = 0x1001 then
    (rangeFrom (pass / 3 * p.kp) (min p.kp (p.k - pass / 3 * p.kp))).filterMap (fun k =>
      (p.bVal s rb k).bind (fun w => splitProduct (pass % 3) (p.aVal s ra k) w))
  else if p.path = 2 then
    (List.range (p.kp / 32)).map (fun j =>
      let ((a, e), nf) := sumExact (p.products s ra rb (pass * p.kp + 32 * j) 32)
      if nf ≠ 0 then .nan else .fin (decide (a < 0)) a.natAbs e)
  else p.products s ra rb (pass * p.kp) p.kp

/-- Is the A row skipped in a pass (R99). (DEDUCED: notes/assumptions/24) -/
def GemmP.rowSkipped (p : GemmP) (s : State) (ra pass : Nat) : Bool :=
  p.zb && (List.range (p.kp / 32)).all (fun j => p.blockZero s ra (pass / p.subs * (p.kp / 32) + j))

/-- Does pass `pass` end a promotion interval (R117). (DEDUCED: notes/assumptions/24) -/
def GemmP.boundary (p : GemmP) (pass : Nat) : Bool := decide ((pass + 1) % p.promote = 0) || decide (pass + 1 = p.passes)

/-- Land one pass of tile row i of tile t (R93, R115 to R119, R160, R163). A skipped row changes nothing, so a zero times an Inf or NaN
of B is dropped there, which GEMM_REF and GEMM_HORMI keep; their INT32 saturations count in no
counter. (DESIGN CHOICE: notes/assumptions/73) (DESIGN CHOICE: notes/assumptions/78) -/
def GemmP.land (p : GemmP) (s : State) (t i pass : Nat) (acc : RowAcc) : RowAcc × BsnCounts :=
  let (b, tr, tc) := p.place t
  let ra := p.aRow b (tr * p.mt + i)
  let skip := p.rowSkipped s ra pass
  let cols (g : Nat → List FVal) : List (List FVal) := (List.range 32).map (fun j => if 32 * tc + j < p.n then g (p.bRow b (32 * tc + j)) else [])
  if p.op = 0x1003 then
    let cs := cols (fun rb => p.products s ra rb (pass * p.kp) p.kp)
    if p.path = 1 then
      (RowAcc.noteSat { acc with t := (acc.t.zip cs).map (fun x => BitVec.ofInt 32 (hormiIntFold (p.kp / 16) x.1.toInt x.2)) }
        ((acc.t.zip cs).map (fun x => b2n (hormiIntSat (p.kp / 16) x.1.toInt x.2))), .zero)
    else ({ acc with t := (acc.t.zip cs).map (fun x => to32 (hormiFold (p.kp / 16) (of32 x.1) x.2)) }, .zero)
  else if p.op = 0x1004 then
    if pass + 1 = p.passes then
      let cs := cols (fun rb => p.products s ra rb 0 p.k)
      if p.path = 1 then
        (RowAcc.noteSat { acc with t := cs.map (fun ps => BitVec.ofInt 32 (sat32 (ps.map intOf).sum)) }
          (cs.map (fun ps => b2n (sat32 (ps.map intOf).sum ≠ (ps.map intOf).sum))), .zero)
      else ({ acc with t := cs.map (fun ps => to32 (refTotal ps)) }, .zero)
    else (acc, .zero)
  else
    let cs := if skip then List.replicate 32 [] else cols (fun rb => p.passProducts s ra rb pass)
    if p.path = 1 then landInt acc cs else landFloat acc cs p.h (p.boundary pass)

/-- All passes of a tile row from `pass` on; `n` is how many are left. -/
def GemmP.landAll (p : GemmP) (s : State) (t i : Nat) : Nat → Nat → RowAcc → RowAcc × BsnCounts
  | 0, _, acc => (acc, .zero)
  | n + 1, pass, acc =>
    let (acc1, c1) := p.land s t i pass acc
    let (acc2, c2) := GemmP.landAll p s t i n (pass + 1) acc1
    (acc2, c1.add c2)

/-- The MX_ counts of one pass of a tile: whether it was skipped whole, rows issued, rows skipped (R99). -/
def GemmP.passCounts (p : GemmP) (s : State) (t pass : Nat) : Bool × Nat × Nat :=
  let (b, tr, _) := p.place t
  let rows := p.tileRows t
  let sk := ((List.range rows).filter (fun i => p.rowSkipped s (p.aRow b (tr * p.mt + i)) pass)).length
  (decide (sk = rows), rows - sk, sk)

/-! ### FP64 by INT8 slicing (R105 to R107, R146) -/

/-- The chunk exponent of a row: the largest E over its finite nonzero elements (R105). -/
def chunkExp (vs : List FVal) : Option Int := vs.foldl (fun a v => omax a (binadeOf v)) none

/-- Digit j of an element under exponent e (R106). -/
def sliceDigit (v : FVal) (e : Int) (j : Nat) : Int :=
  match v with
  | .fin n m ex =>
    let sh := ex - e + 7 * ((j : Int) + 1)
    let d := (if sh ≥ 0 then m * pow2 sh else m / pow2 (-sh)) % 128
    if n then -(d : Int) else (d : Int)
  | _ => 0

/-- One slice pair of a chunk: the exact sum over k of R107. -/
def pairSum (a b : List FVal) (ea eb : Int) (j l : Nat) : Int := ((a.zip b).map (fun p => sliceDigit p.1 ea j * sliceDigit p.2 eb l)).sum

/-- S_g of R107: the exact sum over k and over j + l = g. -/
def sliceSum (a b : List FVal) (ea eb : Int) (g : Nat) : Int := ((List.range (g + 1)).map (fun j => pairSum a b ea eb j (g - j))).sum

/-- The combine of R107 over the sums `sg`: `g` slices left, from the highest. -/
def combineSums (sg : Nat → Int) : Nat → FVal → FVal
  | 0, acc => acc
  | g + 1, acc => combineSums sg g (rne f64 (xadd false acc (.fin (decide (sg g < 0)) (sg g).natAbs (-7 * ((g : Int) + 2)))))

/-- The finite values of a chunk row, others taken as zero (R146). -/
def finOnly (vs : List FVal) : List FVal := vs.map (fun v => if isFin v then v else fzero)

/-- One chunk added to C, its slice sums given (R107, R146). -/
def chunkStep (s : Nat) (sg : Nat → Int) (acc : FVal) (a b : List FVal) : FVal :=
  let chunk : FVal := match chunkExp (finOnly a), chunkExp (finOnly b) with
    | some ea, some eb => rne f64 (ofF (scale2 (combineSums sg s fzero) (ea + eb)))
    | _, _ => fzero
  let c1 := addIn f64 acc chunk
  let nf := (a.zip b).foldl (fun x p => if isFin p.1 && isFin p.2 then x else nfAddVal x (xmul p.1 p.2)) none
  match nf with
  | none => c1
  | some v => addIn f64 c1 v
where
  /-- One more non-finite product into N of R146. -/
  nfAddVal (x : Option FVal) (y : XVal) : Option FVal :=
    let v := rne f64 y
    match x with
    | none => some v
    | some w => some (addIn f64 w v)

/-- The slice sums of a chunk from its operands. -/
def chunkSums (a b : List FVal) (g : Nat) : Int :=
  match chunkExp (finOnly a), chunkExp (finOnly b) with
  | some ea, some eb => sliceSum (finOnly a) (finOnly b) ea eb g
  | _, _ => 0

/-- Chunks of K (R105). -/
def GemmP.chunks (p : GemmP) : Nat := cdiv p.k 8192

/-- Positions of chunk c (R105). -/
def GemmP.chunkLen (p : GemmP) (c : Nat) : Nat := min 8192 (p.k - 8192 * c)

/-- The values of chunk c of a row of an operand (R105). -/
def GemmP.chunkRow (p : GemmP) (s : State) (t : TDesc) (r c : Nat) : List FVal := (rangeFrom (8192 * c) (p.chunkLen c)).map (fun k => t.val s k r)

/-- C of R107 for one output element, the chunks in ascending order, with the slice sums `sg c g`. -/
def GemmP.fp64With (p : GemmP) (s : State) (ra rb : Nat) (sg : Nat → Nat → Int) : FVal :=
  (List.range p.chunks).foldl (fun acc c => chunkStep p.slices (sg c) acc (p.chunkRow s p.a ra c) (p.chunkRow s p.b rb c)) fzero

/-- C of R107 for one output element. -/
def GemmP.fp64Total (p : GemmP) (s : State) (ra rb : Nat) : FVal :=
  p.fp64With s ra rb (fun c => chunkSums (p.chunkRow s p.a ra c) (p.chunkRow s p.b rb c))

/-- The slice pairs (j, l) with j + l below s, in ascending order (R107, R109). -/
def slicePairs (s : Nat) : List (Nat × Nat) := (List.range s).flatMap (fun j => (List.range (s - j)).map (fun l => (j, l)))

/-! ### Basin tiles: a tile, or for GEMM_FP64S one slice pair of a chunk of a tile (R121). -/

/-- Basin tiles of one tile. -/
def GemmP.parts (p : GemmP) : Nat := if p.op = 0x1002 then p.chunks * (slicePairs p.slices).length else 1

/-- Basin tiles of the command. -/
def GemmP.units (p : GemmP) : Nat := p.tiles * p.parts

/-- The tile that basin tile u is part of. -/
def GemmP.unitTile (p : GemmP) (u : Nat) : Nat := u / p.parts

/-- The chunk and the slice pair of basin tile u of GEMM_FP64S. (DEDUCED: notes/assumptions/81) -/
def GemmP.unitPair (p : GemmP) (u : Nat) : Nat × Nat × Nat :=
  let i := u % p.parts
  let n := (slicePairs p.slices).length
  (i / n, lget (0, 0) (slicePairs p.slices) (i % n))

/-- K-passes of basin tile u. -/
def GemmP.unitPasses (p : GemmP) (u : Nat) : Nat := if p.op = 0x1002 then cdiv (p.chunkLen (p.unitPair u).1) 64 else p.passes

/-- Rows of basin tile u. -/
def GemmP.unitRows (p : GemmP) (u : Nat) : Nat := p.tileRows (p.unitTile u)

/-- One dense INT8 pass of a slice pair lands on a row (R107, R119, R121). -/
def GemmP.landPair (p : GemmP) (s : State) (u i pass : Nat) (acc : RowAcc) : RowAcc × BsnCounts :=
  let (b, tr, tc) := p.place (p.unitTile u)
  let (c, j, l) := p.unitPair u
  let va := finOnly (p.chunkRow s p.a (p.aRow b (tr * p.mt + i)) c)
  landInt acc ((List.range 32).map (fun x =>
    if 32 * tc + x < p.n then
      (let vb := finOnly (p.chunkRow s p.b (p.bRow b (32 * tc + x)) c)
       match chunkExp va, chunkExp vb with
       | some ea, some eb =>
         (((va.zip vb).drop (64 * pass)).take 64).map (fun y => ofInt (sliceDigit y.1 ea j * sliceDigit y.2 eb l))
       | _, _ => [])
    else []))

/-- Land one pass of a row of basin tile u. -/
def GemmP.landUnit (p : GemmP) (s : State) (u i pass : Nat) (acc : RowAcc) : RowAcc × BsnCounts :=
  if p.op = 0x1002 then p.landPair s u i pass acc else p.land s u i pass acc

/-- Land `n` passes of a row of basin tile u from `pass` on. -/
def GemmP.landRest (p : GemmP) (s : State) (u i : Nat) : Nat → Nat → RowAcc → RowAcc × BsnCounts
  | 0, _, acc => (acc, .zero)
  | n + 1, pass, acc =>
    let (acc1, c1) := p.landUnit s u i pass acc
    let (acc2, c2) := GemmP.landRest p s u i n (pass + 1) acc1
    (acc2, c1.add c2)

/-- Is row i of basin tile u skipped in a pass (R99). -/
def GemmP.unitSkips (p : GemmP) (s : State) (u i pass : Nat) : Bool :=
  let (b, tr, _) := p.place (p.unitTile u)
  p.rowSkipped s (p.aRow b (tr * p.mt + i)) pass

/-- Does basin tile u issue any row. -/
def GemmP.unitIssues (p : GemmP) (s : State) (u : Nat) : Bool :=
  (List.range (p.unitRows u)).any (fun i => (List.range (p.unitPasses u)).any (fun pass => !p.unitSkips s u i pass))

/-! ### The epilogue (R126 to R130) -/

/-- The working format: binary64 for GEMM_FP64S, else binary32 (R121). -/
def GemmP.work (p : GemmP) : Fmt := if p.op = 0x1002 then f64 else f32

/-- Is T held as INT32 (R128). -/
def GemmP.tInt (p : GemmP) : Bool := decide (p.path = 1)

/-- A parameter of TENSOR3 (R127): row i1, element i0, batch b, default d. -/
def GemmP.param (p : GemmP) (s : State) (i1 i0 b : Nat) (d : FVal) : FVal :=
  let i2 := min b (p.e.d 2 - 1)
  if !p.e.isNull && decide (i1 < p.e.d 1) && p.e.inside i0 (p.e.rowNo i1 i2 0) then p.e.val s i0 (p.e.rowNo i1 i2 0) else d

/-- The activations of R129 in a working format. -/
def activate (f : Fmt) (act : Nat) (lam lo hi v : FVal) : FVal :=
  if isNan v then .nan
  else match act with
    | 1 => if flt fzero v then v else fzero
    | 2 => if flt fzero v then v else mulIn f lam v
    | 3 => if flt hi lo then lo else fmin (fmax v lo) hi
    | 4 => let r := if flt fzero v then v else fzero; mulIn f r r
    | _ => v

/-- Does C receive an INT32 total exactly (R128). -/
def GemmP.exactInt (p : GemmP) (sluice : Bool) : Bool :=
  p.tInt && decide (p.c.fmt = 0x0B) && !p.c.isNull && p.e.isNull && decide (p.act = 0) && !p.accum && !sluice

/-- Row number in C of output row m of batch b, when C has it (R112). -/
def GemmP.cRow (p : GemmP) (b m : Nat) : Option Nat :=
  let i2 := b % p.a.d 2
  let i3 := b / p.a.d 2
  if !p.c.isNull && decide (m < p.c.d 1) && decide (i2 < p.c.d 2) && decide (i3 < p.c.d 3) then some (p.c.rowNo m i2 i3) else none

/-- The rows of C the command writes, with their widths, when its elements may overlap: tiles are not in linear order (R44). -/
def GemmP.rowsOut (p : GemmP) : List (Nat × Nat × Nat) :=
  if p.c.tight then []
  else (List.range (p.a.d 2 * p.a.d 3)).flatMap (fun b => (List.range p.m).filterMap (fun i => (p.cRow b i).map (fun r => (r, 0, min p.n p.c.raw0))))

/-- Steps 1 to 3 of R128 for element (b, m, n) with total T. C_old is +0 for an element outside a C that is not null. (DESIGN CHOICE: notes/assumptions/79) -/
def GemmP.v3 (p : GemmP) (s : State) (sluice : Bool) (b m n : Nat) (t : FVal) : FVal :=
  if p.exactInt sluice then t
  else
    let f := p.work
    let col := if p.e.raw0 = 1 then 0 else n
    let al := p.param s 0 col b (ofInt 1)
    let be := p.param s 1 col b fnegZero
    let t1 := if p.tInt then rne f32 (ofF t) else t
    let v1 := if p.op = 0x1003 then addIn f (mulIn f al t1) be else fmaIn f al t1 be
    let v2 := activate f p.act (p.param s 2 0 b fzero) (p.param s 2 1 b (.inf true)) (p.param s 2 2 b (.inf false)) v1
    if p.accum then
      match p.cRow b m with
      | some r => addIn f v2 (p.c.val s n r)
      | none => addIn f v2 fzero
    else v2

/-- The value of a bank entry. -/
def GemmP.total (p : GemmP) (w : W32) : FVal := if p.tInt then ofInt w.toInt else of32 w

/-- v3 of every element of a tile from its bank rows (R128), as rows of the tile's columns. -/
def GemmP.tileV3 (p : GemmP) (s : State) (sluice : Bool) (t : Nat) (rows : List RowAcc) : List (List FVal) :=
  let (b, tr, tc) := p.place t
  (List.range (p.tileRows t)).map (fun i =>
    (List.range (p.tileCols t)).map (fun j => p.v3 s sluice b (tr * p.mt + i) (32 * tc + j) (p.total (lget 0 (lget RowAcc.clear rows i).t j))))

/-- v3 of every element of a tile of GEMM_FP64S from its drained slice pairs: pairs of equal g are added into S_g, then combined
(R107, R121). -/
def GemmP.tileFp64 (p : GemmP) (s : State) (t : Nat) (planes : List (Nat × Bool × List (List W32))) : List (List FVal) :=
  let (b, tr, tc) := p.place t
  let mine := (planes.filter (fun x => decide (p.unitTile x.1 = t))).map (fun x => (p.unitPair x.1, x.2.2))
  (List.range (p.tileRows t)).map (fun i =>
    (List.range (p.tileCols t)).map (fun j =>
      let m := tr * p.mt + i
      let n := 32 * tc + j
      let sg (c g : Nat) : Int :=
        ((mine.filter (fun x => decide (x.1.1 = c) && decide (x.1.2.1 + x.1.2.2 = g))).map (fun x => (lget 0 (lget [] x.2 i) j).toInt)).sum
      p.v3 s false b m n (p.fp64With s (p.aRow b m) (p.bRow b n) sg)))

/-- Which elements of a tile row derive from poisoned inputs (R48): A's row, B's row, C under ACCUM. -/
def GemmP.rowMarks (p : GemmP) (s : State) (t i : Nat) : List Bool :=
  let (b, tr, tc) := p.place t
  let m := tr * p.mt + i
  let pa := p.a.rowPoison s (p.aRow b m) 0 p.k
  (List.range (p.tileCols t)).map (fun j =>
    let n := 32 * tc + j
    pa || (List.range p.k).any (fun k => p.b.weightPoison s p.sp (p.bRow b n) k) ||
    (p.accum && (match p.cRow b m with | some r => p.c.poisoned s n r | none => false)))

/-- The stretches of a tile that C has (R112): one for each row. -/
def GemmP.tileStretches (p : GemmP) (t : Nat) (v3 : List (List FVal)) (marks : List (List Bool)) : List Stretch :=
  let (b, tr, tc) := p.place t
  (List.range v3.length).filterMap (fun i =>
    if 32 * tc < p.c.raw0 then (p.cRow b (tr * p.mt + i)).map (fun r =>
      { row := r, i0 := 32 * tc, vals := (lget [] v3 i).take (p.c.raw0 - 32 * tc), poisoned := lget [] marks i })
    else none)

/-! ### Taps (R131 to R133), in binary64 -/

/-- A binary64 sum in order, from +0. -/
def sum64 (vs : List FVal) : FVal := vs.foldl (fun a v => addIn f64 a v) fzero

/-- Maximum of values, NaN if any is. -/
def maxAll : List FVal → FVal
  | [] => .inf true
  | v :: t => t.foldl fmax v

/-- Count, mean and M2 of one tile row (R132). -/
def tileStat (vs : List FVal) : Nat × FVal × FVal :=
  let mean := divIn f64 (sum64 vs) (ofInt (vs.length : Nat))
  (vs.length, mean, sum64 (vs.map (fun v => let d := addIn f64 v (fneg mean); mulIn f64 d d)))

/-- Merge statistics (R132). (DEDUCED: notes/assumptions/26) -/
def mergeStat (a b : Nat × FVal × FVal) : Nat × FVal × FVal :=
  let n := a.1 + b.1
  let fn := ofInt (n : Nat)
  let na := ofInt (a.1 : Nat)
  let nb := ofInt (b.1 : Nat)
  let d := addIn f64 b.2.1 (fneg a.2.1)
  let mean := addIn f64 a.2.1 (divIn f64 (mulIn f64 d nb) fn)
  let m2 := addIn f64 (addIn f64 a.2.2 b.2.2) (divIn f64 (mulIn f64 (mulIn f64 (mulIn f64 d d) na) nb) fn)
  (n, mean, m2)

/-- A tile's sum of squares (R133). -/
def tileSumSq (v3 : List (List FVal)) : FVal := sum64 (v3.flatten.map (fun v => rne f64 (xmul v v)))

/-- A statistic into TENSOR3, rounded to binary32, when inside its extent (R127, R131). -/
def GemmP.putStat (p : GemmP) (s : State) (i1 m b : Nat) (v : FVal) : State × Bool :=
  let r := p.e.rowNo i1 b 0
  if decide (i1 < p.e.d 1) && decide (b < p.e.d 2) && p.e.inside m r then
    let w := rne f32 (ofF v)
    (p.e.writeRow s r m [encodeElem p.e.fmt w] false [], !isFin w)
  else (s, false)

/-- v3 rows kept as binary64 images, exactly. -/
def packV3 (v3 : List (List FVal)) : List (List W64) := v3.map (fun r => r.map to64)

/-- The row statistics of a whole command from its tiles' v3 (R131, R132): the state and whether a non-finite one was written. A command
with no tile writes nothing (R81). -/
def GemmP.writeStats (p : GemmP) (s : State) (tiles : List (Nat × List (List W64))) : State × Bool :=
  let rowOf (b m tc : Nat) : List FVal :=
    let t := (b * p.tr + m / p.mt) * p.tc + tc
    match findFirst (fun x => x.1 = t) tiles with
    | some x => (lget [] x.2 (m % p.mt)).map of64
    | none => []
  let put (acc : State × Bool) (i1 m b : Nat) (v : FVal) : State × Bool := let r := p.putStat acc.1 i1 m b v; (r.1, acc.2 || r.2)
  if p.tiles = 0 then (s, false)
  else (List.range p.batches).foldl (fun acc b => (List.range p.m).foldl (fun acc2 m =>
    let rows := (List.range p.tc).map (rowOf b m)
    let a1 := if p.rowmax then
        put (put acc2 3 m b (maxAll (rows.map maxAll))) 4 m b (match rows.map sum64 with | [] => fzero | x :: xs => xs.foldl (addIn f64) x)
      else acc2
    if p.rowstat then
      match rows.map tileStat with
      | [] => a1
      | x :: xs =>
        let st := xs.foldl mergeStat x
        put (put a1 5 m b st.2.1) 6 m b (divIn f64 st.2.2 (ofInt (st.1 : Nat)))
    else a1) acc) (s, false)

/-! ### Running a command's tiles -/

/-- Add basin counts to a core. -/
def State.addBsn (s : State) (core : Nat) (c : BsnCounts) : State :=
  s.modBsn core (fun x => { x with promotions := x.promotions + c.promotions, earlyPromotions := x.earlyPromotions + c.early,
                                   alignInexact := x.alignInexact + c.inexact, intSaturated := x.intSaturated + c.intSat })

/-- MAC groups of 1,024 per issued row (R375). -/
def GemmP.macUnits (p : GemmP) : Nat := if p.cls = 4 then 4 else if p.cls = 8 then 2 else 1

/-- MX_ counts and matrix activity of one pass of a tile on a core (R92, R99, R375). -/
def State.countPass (s : State) (p : GemmP) (cmd : Cmd) (core t pass times : Nat) : State :=
  let (skipped, iss, sk) := p.passCounts s t pass
  let s1 := s.modMx core (fun x =>
    { x with passes := x.passes + (if skipped then 0 else times), passesSkipped := x.passesSkipped + (if skipped then times else 0),
             rowsIssued := x.rowsIssued + iss * times, rowsSkipped := x.rowsSkipped + sk * times,
             activeCycles := x.activeCycles + iss * times, stallPlane := x.stallPlane + (if skipped then 0 else (32 - iss) * times) })
  s1.bookCmd cmd 0 (iss * times * p.macUnits)

/-- Narrow a tile into C and write it (R130): state, whether it saturated, contributions. The core counts reruns. -/
def State.drainToC (s : State) (p : GemmP) (e : WakeEntry) (core t : Nat) (v3 : List (List FVal)) (marks : List (List Bool)) :
    State × Bool × List RowEffect :=
  let sq : List RowEffect := if p.sumsq then
      (let v := tileSumSq v3
       [RowEffect.sumSq p.c.layer 0 (exactUnits v) (p.tileRows t * p.tileCols t)])
    else []
  if p.c.isNull then (s, false, sq)
  else if p.exactInt false then
    let parts := (p.tileStretches t v3 marks).map (fun b =>
      { row := b.row, i0 := b.i0, bits := b.vals.map (fun v => wrap 32 (intOf v)), scale := none, poisoned := b.poisoned : Narrowed })
    (parts.foldl (fun x b => x.writePart p.c b p.c.zbMap p.rowsOut) s, false, sq)
  else
    let o := narrowUnit p.c (e.narrowCtx s p.c) p.c.mode (p.tileStretches t v3 marks)
    let s1 := s.modBsn core (fun x => { x with recomputes := x.recomputes + o.reruns, saturatedTiles := x.saturatedTiles + b2n o.saturated })
    (s1.writeUnit p.c o p.c.zbMap p.rowsOut, o.saturated, o.effects p.c ++ sq)

/-- Which elements of a tile derive from poisoned inputs, or all of them (R48, R396). -/
def GemmP.tileMarks (p : GemmP) (s : State) (t : Nat) (poisoned : Bool) : List (List Bool) :=
  (List.range (p.tileRows t)).map (fun i => if poisoned then List.replicate (p.tileCols t) true else p.rowMarks s t i)

/-- Raise an entry's code: POISONED over SATURATED over SUCCESS (R171). (DEDUCED: notes/assumptions/25) -/
def WakeEntry.worse (e : WakeEntry) (pz sat : Bool) : WakeEntry :=
  { e with code := if pz || decide (e.code = 0x10) then 0x10 else if sat || decide (e.code = 0x03) then 0x03 else e.code }

/-- Vector-engine work of the device's own, counted as a VPROG's is: `v` V instructions at least; further V and S instructions, pairs and
stalls are free (R109, R197). (DESIGN CHOICE: notes/assumptions/82) -/
def State.vecWork (s : State) (c : Cmd) (core v : Nat) : State :=
  let (a, s1) := s.fresh
  let (b, s2) := s1.fresh
  let (d, s3) := s2.fresh
  let (f, s4) := s3.fresh
  let (g, s5) := s4.fresh
  let s6 := s5.modVec core (fun x => { x with issueV := x.issueV + v + a, issueS := x.issueS + b, paired := x.paired + d,
                                              stallDep := x.stallDep + f, stallMem := x.stallMem + g })
  s6.bookCmd c 1 (v + a)

/-- A tile's results go to C: the wake-log entry keeps its v3, its contributions and its code. -/
def State.finishTile (s : State) (p : GemmP) (e : WakeEntry) (core t : Nat) (v3 : List (List FVal)) (marks : List (List Bool)) : State :=
  let (s1, sat, eff) := s.drainToC p e core t v3 marks
  s1.modEntry e.cmd.queue e.cmd.seq (fun x =>
    WakeEntry.worse { x with phase := 1, tiles := x.tiles ++ [(t, packV3 v3)], effects := x.effects ++ eff } (marks.any (fun r => r.any id)) sat)

/-- Vector cycles of a tile of GEMM_FP64S: slicing its operands and combining its chunks (R109). -/
def GemmP.fp64Cycles (p : GemmP) (t : Nat) : Nat :=
  let s := p.slices
  let r := p.tileRows t
  let c := p.tileCols t
  cdiv (2 * s * p.k * (r + c)) 16 + cdiv (r * c * p.chunks * (8 * (s + 3) + s * (s - 1))) 128

/-- The slice pairs of a tile of GEMM_FP64S have all drained: the vector engine combines them (R109, R121). -/
def State.finishFp64 (s : State) (p : GemmP) (e : WakeEntry) (core t : Nat) : State :=
  match s.entry e.cmd.queue e.cmd.seq with
  | none => s
  | some x =>
    let pz := x.planes.any (fun y => decide (p.unitTile y.1 = t) && y.2.1)
    (s.vecWork e.cmd core (p.fp64Cycles t)).finishTile p e core t (p.tileFp64 s t x.planes) (p.tileMarks s t pz)

/-- Have all the slice pairs of tile t drained. (DEDUCED: notes/assumptions/81) -/
def WakeEntry.allPlanes (x : WakeEntry) (p : GemmP) (t : Nat) : Bool :=
  (List.range p.parts).all (fun k => x.planes.any (fun y => decide (y.1 = t * p.parts + k)))

/-- A basin tile drains with its bank rows (R125): to C, or as a slice pair to the vector engine (R121). (DEDUCED: notes/assumptions/81) -/
def State.drainUnit (s : State) (p : GemmP) (e : WakeEntry) (core u : Nat) (rows : List RowAcc) (poisoned : Bool) : State :=
  let s1 := s.modBsn core (fun x => { x with drainRows := x.drainRows + rows.length })
  if p.op = 0x1002 then
    let s2 := s1.modEntry e.cmd.queue e.cmd.seq (fun x => { x with phase := 1, planes := x.planes ++ [(u, poisoned, rows.map (·.t))] })
    match s2.entry e.cmd.queue e.cmd.seq with
    | none => s2
    | some x => if x.allPlanes p (p.unitTile u) then s2.finishFp64 p e core (p.unitTile u) else s2
  else s1.finishTile p e core u (p.tileV3 s1 false u rows) (p.tileMarks s1 u poisoned)

/-- Stall cycles before a command's first row on a core, for operands and for banks (R92, R101, R124). -/
def State.stallCounts (s : State) (core : Nat) : State :=
  let (a, s1) := s.fresh
  let (b, s2) := s1.fresh
  let (c, s3) := s2.fresh
  (s3.modMx core (fun x => { x with stallPlane := x.stallPlane + 32 + a, stallOperand := x.stallOperand + b })).modBsn core
    (fun x => { x with stallBank := x.stallBank + c })

/-- Those counts on a core whose share i of a GEMM loads a weight plane: some row of it issues (R92, R99). -/
def State.shareStalls (s : State) (p : GemmP) (cc core i : Nat) : State :=
  let a := shareStart i p.tiles cc
  if (rangeFrom (a * p.parts) ((shareStart (i + 1) p.tiles cc - a) * p.parts)).any (p.unitIssues s) then s.stallCounts core else s

/-- Free traffic counts of a command's request: slab granules, cache requests, near and deep bursts (R375 classes 2 to 5). (DESIGN CHOICE: notes/assumptions/49) -/
def State.bookTraffic (s : State) (c : Cmd) : State :=
  [2, 3, 4, 5].foldl (fun st cls => let (n, st1) := st.fresh; st1.bookCmd c cls n) s

/-- The MX_STATUS fields of a running command (R85). -/
def State.mxBusy (s : State) (core : Nat) (p : GemmP) (on : Bool) : State :=
  s.modMx core (fun x => { x with busy := on, fmtA := p.a.fmt, fmtB := p.b.fmt, sparsity := p.sp,
                                  slices := if p.op = 0x1002 then p.slices else 0 })

/-- The cores that run a command's shares: command core i and the core that runs it (R401). -/
def State.shares (s : State) (c : Cmd) : List (Nat × Nat) := (List.range c.coreCount).map (fun i => (i, s.runsFor (c.firstCore + i)))

/-- The computation as one core runs it: skipping needs its ZB_SKIP_EN (MX_CFG). -/
def GemmP.onCore (p : GemmP) (s : State) (core : Nat) : GemmP := { p with zb := p.zb && (s.core core).mx.zbSkipEn }

/-- End a command's open groups and waiting banks on a core; the banks return to FREE. -/
def State.dropGroups (s : State) (c : Cmd) (core : Nat) : State :=
  s.modBsn core (fun x =>
    let mine (g : OpenGroup) : Bool := decide (g.queue = c.queue) && decide (g.seq = c.seq)
    let gone := (x.groups.filterMap (fun g => g.bind (fun y => if mine y then some y.bank else none))) ++
      (x.drain.filter (fun d => decide (d.queue = c.queue) && decide (d.seq = c.seq))).map (·.bank)
    { x with banks := (List.range 8).map (fun b => if gone.contains b then 0 else lget 0 x.banks b),
             groups := x.groups.map (fun g => g.filter (fun y => !mine y)),
             drain := x.drain.filter (fun d => !(decide (d.queue = c.queue) && decide (d.seq = c.seq))) })

/-- A fresh group of a basin tile in a bank: rows cleared, partial plane empty (R124). -/
def newGroup (p : GemmP) (e : WakeEntry) (bank u replays : Nat) : OpenGroup :=
  { bank := bank, queue := e.cmd.queue, seq := e.cmd.seq, tile := u, pass := 0, row := 0,
    rows := List.replicate (p.unitRows u) .clear, replays := replays, mismatch := false }

/-- A tile's check has failed (R396): the count and its record, and the group is cleared for its replay. -/
def State.replayed (s : State) (p : GemmP) (e : WakeEntry) (core : Nat) (g : OpenGroup) : State × OpenGroup :=
  ((s.modMx core (fun x => { x with checkMismatch := x.checkMismatch + 1 })).raise 0x03 1 0x10 core (some (g.queue, g.seq)) 0
     (p.unitTile g.tile % 2 ^ 32 + 2 ^ 44 * (g.replays + 1)) 0, newGroup p e g.bank g.tile (g.replays + 1))

/-- A complete tile's check has failed (R396): its replay, or at the third time the core has failed and the tile drains poisoned, which three
replays say. -/
def State.mismatched (s : State) (p : GemmP) (e : WakeEntry) (core : Nat) (g : OpenGroup) : State × OpenGroup :=
  if g.replays < 2 then s.replayed p e core g
  else ((s.modMx core (fun x => { x with checkMismatch := x.checkMismatch + 1 })).coreFailed core (some (g.queue, g.seq)),
    { g with replays := 3, mismatch := false })

/-- Has the check of a command's group failed at its third landing (R396). -/
def OpenGroup.exhausted (g : OpenGroup) (c : Cmd) : Bool :=
  decide (g.queue = c.queue) && decide (g.seq = c.seq) && g.mismatch && decide (2 ≤ g.replays)

/-- The groups of a command on one core whose check has failed for the third time: the core has failed, and they drain poisoned (R396). -/
def State.failGroups (s : State) (c : Cmd) (core : Nat) : State :=
  let lost (o : Option OpenGroup) : Bool := match o with
    | some g => g.exhausted c
    | none => false
  let n := ((s.core core).bsn.groups.filter lost).length
  if n = 0 then s
  else
    ((s.modMx core (fun x => { x with checkMismatch := x.checkMismatch + n })).coreFailed core (some (c.queue, c.seq))).modBsn core (fun x =>
      { x with groups := x.groups.map (fun o => o.map (fun g => if g.exhausted c then { g with replays := 3, mismatch := false } else g)) })

/-- Land everything a group still has to land. -/
def State.landGroup (s : State) (p : GemmP) (e : WakeEntry) (core : Nat) (g : OpenGroup) : State × List RowAcc :=
  let n := p.unitPasses g.tile
  let res := (List.range (p.unitRows g.tile)).map (fun i =>
    let from' := if i < g.row then g.pass + 1 else g.pass
    p.landRest s g.tile i (n - from') from' (lget RowAcc.clear g.rows i))
  let first := if g.row = 0 then g.pass else g.pass + 1
  let s1 := (rangeFrom first (n - first)).foldl (fun st pass => st.countPass p e.cmd core (p.unitTile g.tile) pass 1) s
  (s1.addBsn core (res.foldl (fun a r => a.add r.2) BsnCounts.zero), res.map (·.1))

/-- Take a basin tile out of the basin: its bank is FREE. -/
def State.freeUnit (s : State) (core q seq u : Nat) : State :=
  s.modBsn core (fun x =>
    let mine (g : OpenGroup) : Bool := decide (g.queue = q) && decide (g.seq = seq) && decide (g.tile = u)
    let item (d : DrainItem) : Bool := decide (d.queue = q) && decide (d.seq = seq) && decide (d.tile = u)
    let gone := (x.groups.filterMap (fun g => g.bind (fun y => if mine y then some y.bank else none))) ++ (x.drain.filter item).map (·.bank)
    { x with banks := (List.range 8).map (fun b => if gone.contains b then 0 else lget 0 x.banks b),
             groups := x.groups.map (fun g => g.filter (fun y => !mine y)), drain := x.drain.filter (fun d => !item d) })

/-- Has basin tile u drained. -/
def WakeEntry.unitDone (x : WakeEntry) (p : GemmP) (u : Nat) : Bool :=
  x.tiles.any (fun d => decide (d.1 = p.unitTile u)) || x.planes.any (fun y => decide (y.1 = u))

/-- Bring one basin tile of a command to the end of its drain, from where the basin's own rows have left it. (DEDUCED: notes/assumptions/23) -/
def State.runUnit (s : State) (p : GemmP) (e : WakeEntry) (core u : Nat) : State :=
  let q := e.cmd.queue
  let n := e.cmd.seq
  match s.entry q n with
  | none => s
  | some x =>
    if x.unitDone p u then s
    else
      let b := (s.core core).bsn
      match findFirst (fun d => decide (d.queue = q) && decide (d.seq = n) && decide (d.tile = u)) b.drain with
      | some d => (s.freeUnit core q n u).drainUnit p e core u d.rows d.poisoned
      | none =>
        let g0 := ((findFirst (fun o => match o with
          | some g => decide (g.queue = q) && decide (g.seq = n) && decide (g.tile = u)
          | none => false) b.groups).bind id).getD (newGroup p e 0 u 0)
        let (s1, g) := if g0.mismatch && decide (g0.replays < 2) then s.replayed p e core g0 else (s, g0)
        let (s2, rows) := (s1.freeUnit core q n u).landGroup p e core g
        s2.drainUnit p e core u rows (decide (g.replays = 3))

/-- One tile of a command on its core: its basin tiles in ascending order. A tile with none, of GEMM_FP64S with K 0, has C +0. -/
def State.runTile (s : State) (p : GemmP) (e : WakeEntry) (core t : Nat) : State :=
  let s1 := (rangeFrom (t * p.parts) p.parts).foldl (fun st u => st.runUnit p e core u) s
  if p.parts = 0 then s1.finishTile p e core t (p.tileFp64 s1 t []) (p.tileMarks s1 t false) else s1

/-- The cores of a command no longer issue. -/
def State.idleArrays (s : State) (c : Cmd) : State := (s.shares c).foldl (fun st sh => st.modMx sh.2 (fun x => { x with busy := false })) s

/-- The tiles of a GEMM-family command: every one not already drained, in ascending number on its core, then the row statistics. -/
def State.runTiles (s : State) (e : WakeEntry) : State :=
  let cmd := e.cmd
  let p := (gemmParams cmd.opcode cmd.tensors cmd.params true).1
  let cc := cmd.coreCount
  let s0 := (s.shares cmd).foldl (fun st sh => (st.mxBusy sh.2 p true).shareStalls (p.onCore st sh.2) cc sh.2 sh.1) s
  let s1 := (List.range p.tiles).foldl (fun st t =>
    let core := s.runsFor (cmd.firstCore + shareOf t p.tiles cc)
    st.runTile (p.onCore st core) e core t) s0
  let x := (s1.entry cmd.queue cmd.seq).getD e
  let (s2, nf) := if p.rowmax || p.rowstat then p.writeStats s1 x.tiles else (s1, false)
  let s4 := p.c.pinLines (p.b.pinLines (p.a.pinLines (s2.idleArrays cmd)))
  (s4.bookTraffic cmd).ran cmd.queue cmd.seq x.code [] (if nf then [RowEffect.nonfinite p.e.layer] else [])

/-- A GEMM-family command: the cores whose check has failed for the third time fail, and its tiles drain. -/
def State.runGemm (s : State) (e : WakeEntry) : State := ((s.shares e.cmd).foldl (fun st sh => st.failGroups e.cmd sh.2) s).runTiles e

/-- The entry of a matrix command that may run now: it waits while no row may issue (R354). (DESIGN CHOICE: notes/assumptions/46) -/
def State.matrixReady (s : State) (q seq op : Nat) : Option WakeEntry := if s.rowsIssue then s.ready q seq op else none

/-- GEMM (R81): the reached command runs; nothing happens when the command is not waiting to run. -/
def execGemm (q seq : Nat) (s : State) : Host.Outcome State Fault Refusal :=
  match s.matrixReady q seq 0x1000 with
  | none => .next s
  | some e => .next (s.runGemm e)

/-- GEMM_FP32X3 (R103, R121). -/
def execGemmFp32x3 (q seq : Nat) (s : State) : Host.Outcome State Fault Refusal :=
  match s.matrixReady q seq 0x1001 with
  | none => .next s
  | some e => .next (s.runGemm e)

/-- GEMM_FP64S (R105 to R107, R121, R146). -/
def execGemmFp64s (q seq : Nat) (s : State) : Host.Outcome State Fault Refusal :=
  match s.matrixReady q seq 0x1002 with
  | none => .next s
  | some e => .next (s.runGemm e)

/-- GEMM_HORMI (R159 to R162). -/
def execGemmHormi (q seq : Nat) (s : State) : Host.Outcome State Fault Refusal :=
  match s.matrixReady q seq 0x1003 with
  | none => .next s
  | some e => .next (s.runGemm e)

/-- GEMM_REF (R163, R164). (DEDUCED: notes/assumptions/25) -/
def execGemmRef (q seq : Nat) (s : State) : Host.Outcome State Fault Refusal :=
  match s.matrixReady q seq 0x1004 with
  | none => .next s
  | some e => .next (s.runGemm e)

end Sys2Proof.Machine
end

