-- ==== Sys2Proof/Machine/CopyFam.lean ====
section
/-! DEFINITION. COPY (R264 to R266, R476): conversion between tensors, streams among them, element by element in linear order. -/

namespace Sys2Proof.Machine

open Sys2Proof

/-- DST_HANDLE of COPY. -/
def copyHandle (params : List Byte) : Nat := fieldAt params 0 4

/-- FIRST and COUNT of COPY after the clamp of R266, and how many were clamped. -/
def copyFields (params : List Byte) (dst : TDesc) : (Nat × Nat) × Nat :=
  let f := fieldAt params 8 8
  let n := fieldAt params 0x10 8
  if dst.stream then ((0, 0), b2n (decide (f ≠ 0)) + b2n (decide (n ≠ 0))) else ((f, n), 0)

/-- One past the last element of the range, bounded by an element count. -/
def copyEnd (first count bound : Nat) : Nat := if count = 0 then bound else min bound (first + count)

/-- The value and poison of element `i` of a tensor by linear index. -/
def TDesc.linVal (t : TDesc) (s : State) (i : Nat) : FVal × Bool := (t.val s (i % t.d0) (i / t.d0), t.poisoned s (i % t.d0) (i / t.d0))

/-- What a COPY reads: the elements from the range's first on, whether a read was poisoned or the stream malformed, and the expansion
of a stream source. -/
structure CopySrc where
  vals : List (FVal × Bool)
  bad : Bool
  expansion : Option Expansion
  deriving DecidableEq, Repr

/-- Element `i` of a stream that stands for a tensor: the elements that round DIM0 up are +0 and keep no value (R60, R265). -/
def TDesc.streamVal (t : TDesc) (i : Nat) (v : FVal) : FVal := if i % t.d0 < t.raw0 then v else fzero

/-- Read source elements `a` to `b − 1` (R264, R265). -/
def State.copySource (s : State) (t : TDesc) (a b : Nat) : CopySrc :=
  if t.stream then
    let x := expandStream (fun o n => s.peekBytes (t.base + o) n) (fun o n => s.anyPoison (t.base + o) n) (t.winEnd - t.base) (min b t.count)
    { vals := (rangeFrom a (x.els.length - a)).map (fun i => (t.streamVal i ((x.els[i]?.map (·.2)).getD fzero), false)), bad := decide (x.cause ≠ 0), expansion := some x }
  else
    let vs := (rangeFrom a (min b t.count - a)).map (fun i => t.linVal s i)
    { vals := vs, bad := vs.any (·.2), expansion := none }

/-- The stretches of elements `a` to `a + n − 1`, by linear index, that do not cross a row. -/
def rowCuts (d0 : Nat) : Nat → Nat → Nat → List (Nat × Nat)
  | 0, _, _ => []
  | fuel + 1, a, n => if n = 0 then [] else let k := min n (d0 - a % d0); (a, k) :: rowCuts d0 fuel (a + k) (n - k)

/-- The unit of one 32-element block of the destination (R264): elements `a` to `b − 1` come from the source; an MX block is written
whole, its other elements read back from the destination. (DEDUCED: notes/assumptions/28) -/
def copyUnit (s : State) (dst : TDesc) (first : Nat) (vals : List (FVal × Bool)) (blk a b : Nat) : List Stretch :=
  let at1 (i : Nat) : FVal × Bool := if a ≤ i ∧ i < b then lget (fzero, false) vals (i - first) else dst.linVal s i
  let cut (p : Nat × Nat) : Stretch :=
    let es := (rangeFrom p.1 p.2).map at1
    { row := p.1 / dst.d0, i0 := p.1 % dst.d0, vals := es.map (·.1), poisoned := es.map (·.2) }
  if fmtMx dst.fmt then [cut (32 * blk, 32)]
  else (rowCuts dst.d0 32 (max a (32 * blk)) (min b (32 * blk + 32) - max a (32 * blk))).map cut

/-- Refresh the bitmap bits of the blocks a stretch touches (R100). -/
def State.copyBitmap (s : State) (dst : TDesc) (st : Stretch) : State :=
  if st.vals.isEmpty then s
  else (rangeFrom (st.i0 / 32) ((st.i0 + st.vals.length - 1) / 32 - st.i0 / 32 + 1)).foldl (fun x j => dst.zbRefresh x st.row j) s

/-- Move one block on the core of its share: state, saturated, contributions. -/
def State.copyBlock (s s0 : State) (e : WakeEntry) (dst : TDesc) (first b : Nat) (vals : List (FVal × Bool)) (core blk : Nat) :
    State × Bool × List RowEffect :=
  let us := copyUnit s0 dst first vals blk first b
  let o := narrowUnit dst (e.narrowCtx s0 dst) dst.mode us
  let s1 := us.foldl (fun x u => x.copyBitmap dst u) (s.writeUnit dst o false [])
  let n (u : Stretch) : Nat := ((List.range u.vals.length).filter (fun j => dst.inside (u.i0 + j) u.row)).length
  let moved := (us.map (fun u => (n u * fmtBits dst.fmt + 7) / 8 + b2n (fmtMx dst.fmt))).sum
  let s2 := s1.modDma core (fun d => { d with bytes := d.bytes + moved })
  (s2, o.saturated, o.effects dst)

/-- COPY into a plain or MX tensor: state, code, contributions. -/
def State.copyPlain (s : State) (e : WakeEntry) (src dst : TDesc) : State × Nat × List RowEffect :=
  let (first, count) := (copyFields e.cmd.params dst).1
  let b0 := copyEnd first count (min src.count dst.count)
  let x := s.copySource src first b0
  let b := min b0 (first + x.vals.length)
  let lo := first / 32
  let total := cdiv b 32 - lo
  let put (acc : State × Bool × List RowEffect) (k : Nat) : State × Bool × List RowEffect :=
    let core := s.runsFor (e.cmd.firstCore + shareOf k total e.cmd.coreCount)
    let r := acc.1.copyBlock s e dst first b x.vals core (lo + k)
    (r.1, acc.2.1 || r.2.1, acc.2.2 ++ r.2.2)
  let (s1, sat, eff) := if first < b then (List.range total).foldl put (s, false, []) else (s, false, [])
  let s2 := match x.expansion with
    | some y => s1.countExpand y ((b - first) * fmtBits dst.fmt / 8)
    | none => s1
  (s2, (if x.bad then 0x10 else if sat then 0x03 else 0), eff)

/-- Bytes that each block of a segment adds to it: a zero run's byte is its first block's. -/
def blockLens : Bool → List Coded → List Nat
  | _, [] => []
  | z, .zero :: t => b2n (!z) :: blockLens true t
  | _, .code b :: t => b.bytes.length :: blockLens false t

/-- Bytes that `n` blocks from `a` on add to a stream whose last `absent` segments were not written. (DESIGN CHOICE: notes/assumptions/87) -/
def streamShare (blocks : List Coded) (absent a n : Nat) : Nat :=
  let segs := pieces 128 (cdiv blocks.length 128) blocks
  ((((segs.take (segs.length - absent)).flatMap (blockLens false)).drop a).take n).sum

/-- COPY into a stream (R265): the whole stream is rewritten; elements the source lacks are +0. A poisoned source element poisons
the whole stream. (DEDUCED: notes/assumptions/28) -/
def State.copyToStream (s : State) (e : WakeEntry) (src dst : TDesc) : State × Nat × List RowEffect :=
  let x := s.copySource src 0 (min src.count dst.count)
  let els := x.vals ++ List.replicate (dst.count - x.vals.length) (fzero, false)
  let vals := (List.range els.length).map (fun i => dst.streamVal i (lget (fzero, false) els i).1)
  let rs := (List.range vals.length).map (fun i => srWord e.seed dst.handle i e.step)
  let conv := (vals.zip rs).map (fun p => (p.1, convert dst.fmt dst.mode p.2 false p.1))
  let blocks := if dst.fmt < 6 then losslessBlocks dst.fmt (conv.map (fun c => c.2.1)) else lossyBlocks dst.fmt s.train.headroom dst.mode vals rs
  let nf := if dst.fmt < 6 then conv.any (fun c => nonfiniteWrite c.1 c.2.2) else vals.any (fun v => !isFin v)
  let (bytes, absent) := streamBytes dst.fmt dst.count (dst.winEnd - dst.base) (segments blocks)
  let out := bytes.take (dst.winEnd - dst.base)
  let s1 := s.store dst.base out (els.any (·.2)) dst.pin
  let s2 := s1.countEncode (vals.length * fmtBits (if dst.fmt < 6 then dst.fmt else src.fmt) / 8) out.length absent blocks
  let total := cdiv dst.count 32
  let s3 := (List.range e.cmd.coreCount).foldl (fun st i =>
    let n := shareStart (i + 1) total e.cmd.coreCount - shareStart i total e.cmd.coreCount
    let b := streamShare blocks absent (shareStart i total e.cmd.coreCount) n + (if i = 0 then min out.length (dataStart (segments blocks).length) else 0)
    st.modDma (s.runsFor (e.cmd.firstCore + i)) (fun d => { d with bytes := d.bytes + b })) s2
  let s4 := match x.expansion with
    | some y => s3.countExpand y (vals.length * fmtBits dst.fmt / 8)
    | none => s3
  (s4, (if x.bad then 0x10 else 0), if nf then [.nonfinite dst.layer] else [])

/-- A share of the command takes its place in its engine's order (R476). (DEDUCED: notes/assumptions/28) -/
def DmaSt.placeShare (d : DmaSt) (q seq : Nat) : DmaSt :=
  if d.share.map (·.2) = some (q, seq) then d else { d with share := some (d.fires, q, seq), fires := d.fires + 1 }

/-- COPY (R264, R265, R476): each share takes its place in the order of its core's DMA engine, and waits for its turn. (DEDUCED: notes/assumptions/28) -/
def execCopy (q seq : Nat) (s : State) : Host.Outcome State Fault Refusal :=
  match s.ready q seq 0x3001 with
  | none => .next s
  | some e =>
    let cores := (s.shares e.cmd).map (·.2)
    let s0 := cores.foldl (fun st c => st.modDma c (fun d => d.placeShare q seq)) s
    if !cores.all (fun c => (s0.core c).dma.shareStarts q seq) then .next s0
    else
      let s1 := cores.foldl (fun st c => st.modDma c (fun d => { d with share := none })) s0
      let src := lget TDesc.null e.cmd.tensors 0
      let dst := lget TDesc.null e.cmd.extras 0
      if dst.isNull || src.isNull then .next (s1.ran q seq 0 [] [])
      else
        let (s2, code, eff) := if dst.stream then s1.copyToStream e src dst else s1.copyPlain e src dst
        let s3 := (dst.pinLines (src.pinLines s2)).bookTraffic e.cmd
        let moved := (min src.count dst.count) * (fmtBits dst.fmt) / 8
        .next ((s3.bookCmd e.cmd 7 (cdiv moved 128)).ran q seq code [] eff)

end Sys2Proof.Machine
end

