-- ==== Sys2Proof/Machine/Attn.lean ====
section
/-! DEFINITION. ATTN_BLOCK (R193 to R201): block-sparse attention, forward and probabilities. -/

namespace Sys2Proof.Machine

open Sys2Proof

/-- Fields of an ATTN_BLOCK after the clamps of R216; `live` says that something is computed. -/
structure AttnP where
  q : TDesc
  k : TDesc
  v : TDesc
  o : TDesc
  stats : TDesc
  probs : Bool
  bq : Nat
  bk : Nat
  causal : Bool
  offset : Int
  scale : FVal
  d : Nat
  sk : Nat
  maskBase : Nat
  maskStride : Nat
  live : Bool
  deriving DecidableEq, Repr

/-- Formats of R193: the two 16-bit and the four 8-bit floating formats. -/
def attnFmt (f : Nat) : Bool := decide (f ≤ 1) || (decide (4 ≤ f) && decide (f ≤ 7))

/-- Is the value +0. -/
def posZero : FVal → Bool
  | .fin n m _ => !n && decide (m = 0)
  | _ => false

/-- PARAMS of ATTN_BLOCK with the clamps of R216, and how many were clamped. (DEDUCED: notes/assumptions/27) -/
def attnParams (s : State) (ts : List TDesc) (st : TDesc) (p : List Byte) : AttnP × Nat :=
  let q := lget TDesc.null ts 0
  let k := lget TDesc.null ts 1
  let v := lget TDesc.null ts 2
  let mode := fieldAt p 0 1
  let probs := decide (mode = 1)
  let bq := fieldAt p 1 1
  let bk := fieldAt p 2 1
  let ca := fieldAt p 3 1
  let sc := of32 (BitVec.ofNat 32 (fieldAt p 4 4))
  let stBad : Bool := !st.isNull && decide (st.fmt ≠ 0x02)
  let bad (t : TDesc) : Bool := !t.isNull && !attnFmt t.fmt
  let mb := fieldAt p 0x10 8
  let mbBad : Bool := decide (mb ≠ 0) && !s.inWindow mb
  let d := min q.raw0 k.raw0
  let k1 := if k.isNull then 0 else k.d 1
  let stats := if stBad then TDesc.null else st
  let fmtBad : Bool := bad q || bad k || (!probs && bad v)
  let scale : FVal := if isFin sc && !posZero sc then sc else rne f32 (xrsqrt (ofInt (d : Nat)))
  ({ q := q, k := k, v := v, o := lget TDesc.null ts 3, stats := stats, probs := probs,
     bq := 32 * (if bq = 0 then 4 else min bq 8), bk := 32 * (if bk = 0 then 4 else min bk 16), causal := decide (ca ≠ 0),
     offset := sext 32 (fieldAt p 0x0C 4), scale := scale, d := d, sk := if probs then k1 else min k1 v.raw0,
     maskBase := if mbBad then 0 else mb, maskStride := fieldAt p 0x18 8,
     live := !q.isNull && !k.isNull && !fmtBad && (if probs then !stats.isNull else !v.isNull) },
   b2n (decide (1 < mode)) + b2n (decide (8 < bq)) + b2n (decide (16 < bk)) + b2n (decide (1 < ca)) + b2n (!isFin sc) + b2n stBad + b2n mbBad +
     b2n (bad q) + b2n (bad k) + b2n (!probs && bad v) + b2n (!q.isNull && !k.isNull && decide (q.raw0 ≠ k.raw0)) +
     b2n (!probs && !k.isNull && !v.isNull && decide (v.raw0 ≠ k1)))

/-- Key blocks (R195). -/
def AttnP.nkb (a : AttnP) : Nat := cdiv a.sk a.bk

/-- Query blocks (R197). -/
def AttnP.nqb (a : AttnP) : Nat := cdiv (a.q.d 1) a.bq

/-- The address of the mask byte of a block (R195). -/
def AttnP.maskAddr (a : AttnP) (b qb kb : Nat) : Nat :=
  a.maskBase + b * a.maskStride + qb * upTo (cdiv a.nkb 8) 8 + kb / 8

/-- Is the block's mask bit set; MASK_BASE 0 sets every block. -/
def AttnP.maskBit (a : AttnP) (s : State) (b qb kb : Nat) : Bool :=
  decide (a.maskBase = 0) || bitOf (s.peek (a.maskAddr b qb kb)).toNat (kb % 8)

/-- Is key j masked for query row i (R196). -/
def AttnP.masked (a : AttnP) (s : State) (b i j : Nat) : Bool :=
  !a.maskBit s b (i / a.bq) (j / a.bk) || decide (a.sk ≤ j) || (a.causal && decide ((i : Int) + a.offset < (j : Int)))

/-- Is key block kb processed for row i (R196). -/
def AttnP.processed (a : AttnP) (s : State) (b i kb : Nat) : Bool := (rangeFrom (kb * a.bk) a.bk).any (fun j => !a.masked s b i j)

/-- The score product as a native GEMM of Q and K (R120, R198). -/
def AttnP.gemm (a : AttnP) : GemmP :=
  let cls := max (fmtClass a.q.fmt) (fmtClass a.k.fmt)
  { op := 0x1000, a := a.q, b := a.k, c := .null, e := .null, k := a.d, m := a.q.d 1, n := a.k.d 1, sp := 0,
    promote := if cls = 16 then 1 else 4, slices := 7, mt := 32, groups := 4, zb := false, cls := cls, path := 0,
    kp := if cls = 8 then 64 else 32, h := if cls = 8 then 6 else 5, act := 0, accum := false, rowmax := false, rowstat := false,
    sumsq := false }

/-- log2 e in binary32 (R198). -/
def log2e32 : FVal := of32 0x3FB8AA3B

/-- exp2₃₂ of the product of a rounded difference and L (R198). -/
def expDiff (x y : FVal) : FVal := rne f32 (xexp2 (mulIn f32 (addIn f32 x (fneg y)) log2e32))

/-- The scores of row i against the keys of block kb (R198): −∞ where masked; and what its promotions counted (R117, R123). -/
def AttnP.scores (a : AttnP) (s : State) (b i kb : Nat) : List FVal × BsnCounts :=
  let p := a.gemm
  let tiles := (List.range (a.bk / 32)).map (fun g => (g, p.landAll s ((b * p.tr + i / 32) * p.tc + (kb * a.bk / 32 + g)) (i % 32) p.passes 0 .clear))
  (tiles.flatMap (fun t => (List.range 32).map (fun x =>
      let j := kb * a.bk + 32 * t.1 + x
      if a.masked s b i j then .inf true else mulIn f32 a.scale (of32 (lget 0 t.2.1.t x)))),
   tiles.foldl (fun c t => c.add t.2.2) .zero)

/-- Row number of Vᵀ for output column n of batch b, broadcast by R81. -/
def AttnP.vRow (a : AttnP) (b n : Nat) : Nat := a.v.rowNo n (min (b % a.q.d 2) (a.v.d 2 - 1)) (min (b / a.q.d 2) (a.v.d 3 - 1))

/-- p narrowed for the product with Vᵀ (R199). -/
def AttnP.narrowP (a : AttnP) (x : FVal) : FVal :=
  if fmtClass a.v.fmt = 16 then rne (fmtOf 0x00) (ofF x) else scale2 (rne (fmtOf 0x04) (ofF (scale2 x 8))) (-8)

/-- K-passes of the product with Vᵀ over one key block (R120, R198). -/
def AttnP.passesV (a : AttnP) : Nat := cdiv a.bk (if fmtClass a.v.fmt = 16 then 32 else 64)

/-- The native GEMM result of narrowed p with 32 rows of Vᵀ (R120, R198), and its counts: passes from `pass` on, `n` left. -/
def AttnP.landV (a : AttnP) (s : State) (b kb g : Nat) (ps : List FVal) : Nat → Nat → RowAcc → RowAcc × BsnCounts
  | 0, _, acc => (acc, .zero)
  | n + 1, pass, acc =>
    let wide : Bool := fmtClass a.v.fmt = 16
    let kp := if wide then 32 else 64
    let col (x : Nat) : List FVal :=
      let c := 32 * g + x
      if c < a.v.d 1 then
        (rangeFrom (pass * kp) (min kp (a.bk - pass * kp))).map (fun k =>
          let j := kb * a.bk + k
          fmulExact (lget fzero ps k) (if j < a.sk then a.v.val s j (a.vRow b c) else fzero))
      else []
    let bound := decide ((pass + 1) % (if wide then 1 else 4) = 0) || decide (pass + 1 = a.passesV)
    let r := landFloat acc ((List.range 32).map col) (if wide then 5 else 6) bound
    let q := AttnP.landV a s b kb g ps n (pass + 1) r.1
    (q.1, r.2.add q.2)

/-- The state of one query row: m, l and the accumulators (R198), the basin's counts, and the blocks whose product with Vᵀ it took. -/
structure AttnRow where
  m : FVal
  l : FVal
  acc : List FVal
  cnt : BsnCounts
  used : List Nat
  deriving DecidableEq, Repr

/-- One key block of a row (R198). -/
def AttnP.block (a : AttnP) (s : State) (b i : Nat) (r : AttnRow) (kb : Nat) : AttnRow :=
  if !a.processed s b i kb then r
  else
    let (sc, c0) := a.scores s b i kb
    let mn := fmax r.m (maxAll sc)
    if mn = .inf true then { r with cnt := r.cnt.add c0 }
    else
      let c := expDiff r.m mn
      let ps := (List.range a.bk).map (fun k => if a.masked s b i (kb * a.bk + k) then fzero else expDiff (lget fzero sc k) mn)
      let np := ps.map a.narrowP
      let u := (List.range (cdiv (a.v.d 1) 32)).map (fun g => a.landV s b kb g np a.passesV 0 .clear)
      { m := mn, l := addIn f64 (mulIn f64 r.l c) (sum64 ps), acc := (r.acc.zip (u.flatMap (·.1.t))).map (fun x => fmaIn f32 x.1 c (of32 x.2)),
        cnt := u.foldl (fun x y => x.add y.2) (r.cnt.add c0), used := r.used ++ [kb] }

/-- A forward row after its last block. -/
def AttnP.forward (a : AttnP) (s : State) (b i : Nat) : AttnRow :=
  (List.range a.nkb).foldl (a.block s b i) { m := .inf true, l := fzero, acc := List.replicate (a.v.d 1) fzero, cnt := .zero, used := [] }

/-- The output values of a forward row (R200). -/
def AttnRow.out (r : AttnRow) : List FVal := r.acc.map (fun x => if posZero r.l then fzero else rne f32 (xdiv x r.l))

/-- The row and element of STATS that hold m (`which` 0) or l (1) of query row i of batch b, when it has them (R194). -/
def AttnP.statAt (a : AttnP) (b i which : Nat) : Option (Nat × Nat) :=
  let b2 := b % a.q.d 2
  let b3 := b / a.q.d 2
  if !a.stats.isNull && decide (i < a.stats.raw0) && decide (which < a.stats.d 1) && decide (b2 < a.stats.d 2) && decide (b3 < a.stats.d 3) then
    some (a.stats.rowNo which b2 b3, i) else none

/-- A statistic as read in the probabilities mode; +0 beyond the extent (R59). -/
def AttnP.stat (a : AttnP) (s : State) (b i which : Nat) : FVal :=
  match a.statAt b i which with
  | some (r, x) => a.stats.val s x r
  | none => fzero

/-- The values of a row of P (R201). -/
def AttnP.probRow (a : AttnP) (s : State) (b i : Nat) : List FVal :=
  let m := a.stat s b i 0
  let l := a.stat s b i 1
  let blocks := (List.range a.nkb).map (fun kb =>
    if !posZero l && a.processed s b i kb then
      (a.scores s b i kb).1.map (fun x => rne f32 (xdiv (expDiff x m) l))
    else List.replicate a.bk fzero)
  let vs := (blocks.flatten).take a.sk
  (vs ++ List.replicate (a.o.d0 - vs.length) fzero).take a.o.d0

/-- Poison of a row: Q's row, the unmasked keys, the mask, the statistics (R48). -/
def AttnP.rowPoison (a : AttnP) (s : State) (b i : Nat) : Bool :=
  let p := a.gemm
  a.q.rowPoison s (p.aRow b i) 0 a.d ||
  (List.range a.sk).any (fun j => !a.masked s b i j && a.k.rowPoison s (p.bRow b j) 0 a.d) ||
  (decide (a.maskBase ≠ 0) && (List.range a.nkb).any (fun kb => s.peekPoison (a.maskAddr b (i / a.bq) kb))) ||
  (a.probs && [0, 1].any (fun w => match a.statAt b i w with | some (r, x) => a.stats.poisoned s x r | none => false))

/-- Poison of output column n of a forward row: Vᵀ's elements of the processed blocks. -/
def AttnP.colPoison (a : AttnP) (s : State) (b i n : Nat) : Bool :=
  (List.range a.sk).any (fun j => a.processed s b i (j / a.bk) && a.v.poisoned s j (a.vRow b n))

/-- Row number in TENSOR3 of query row i of batch b, when it has it. -/
def AttnP.oRow (a : AttnP) (b i : Nat) : Option Nat :=
  let b2 := b % a.q.d 2
  let b3 := b / a.q.d 2
  if !a.o.isNull && decide (i < a.o.d 1) && decide (b2 < a.o.d 2) && decide (b3 < a.o.d 3) then some (a.o.rowNo i b2 b3) else none

/-- Write m and l of a row to STATS (R200): state and whether a non-finite one was written. -/
def AttnP.putStats (a : AttnP) (s : State) (b i : Nat) (r : AttnRow) (on : Bool) : State × Bool :=
  let put (x : State × Bool) (w : Nat) (v : FVal) : State × Bool :=
    match a.statAt b i w with
    | some (row, i0) => (a.stats.writeRow x.1 row i0 [encodeElem 0x02 v] on [], x.2 || !isFin v)
    | none => x
  put (put (s, false) 0 r.m) 1 (rne f32 (ofF r.l))

/-- Cut a row of values and poison into 32-element stretches. -/
def rowStretches (r : Nat) (vals : List (FVal × Bool)) : List Stretch :=
  (List.range (cdiv vals.length 32)).map (fun j =>
    let es := (vals.drop (32 * j)).take 32
    { row := r, i0 := 32 * j, vals := es.map (·.1), poisoned := es.map (·.2) })

/-- The MX_ counts and matrix activity of `n` rows through each of `passes` passes (R92, R375). -/
def State.attnPasses (s : State) (cmd : Cmd) (core macs n passes : Nat) : State :=
  if n = 0 then s
  else
    (s.modMx core (fun x => { x with passes := x.passes + passes, rowsIssued := x.rowsIssued + n * passes, activeCycles := x.activeCycles + n * passes,
                                     stallPlane := x.stallPlane + (32 - n) * passes })).bookCmd cmd 0 (n * passes * macs)

/-- The work of a tile on its core (R117, R123, R196, R197): for each key block, the rows it is processed for pass through the array,
for the scores and in the forward mode again for the product with Vᵀ. A tile with no processed block costs nothing. (DEDUCED: notes/assumptions/27) -/
def State.attnWork (s0 s : State) (a : AttnP) (cmd : Cmd) (core b : Nat) (rows : List (Nat × AttnRow)) : State :=
  let p := a.gemm
  let macs (c : Nat) : Nat := if c = 16 then 1 else 2
  let nq (kb : Nat) : Nat := (rows.filter (fun r => a.processed s0 b r.1 kb)).length
  let s1 := (List.range a.nkb).foldl (fun st kb =>
    (st.attnPasses cmd core (macs p.cls) (nq kb) (a.bk / 32 * p.passes)).attnPasses cmd core (macs (fmtClass a.v.fmt))
      (rows.filter (fun r => r.2.used.contains kb)).length (cdiv (a.v.d 1) 32 * a.passesV)) s
  let s2 := s1.addBsn core (rows.foldl (fun c r => c.add r.2.cnt) .zero)
  if (List.range a.nkb).any (fun kb => decide (nq kb ≠ 0)) then s2.vecWork cmd core 0 else s2

/-- The counts of a row in the probabilities mode, which takes the scores alone (R201). -/
def AttnP.probCounts (a : AttnP) (s : State) (b i : Nat) : AttnRow :=
  { m := fzero, l := fzero, acc := [], used := [],
    cnt := (List.range a.nkb).foldl (fun c kb => if a.processed s b i kb then c.add (a.scores s b i kb).2 else c) .zero }

/-- The first-row stalls of the cores whose shares process a block (R92). -/
def State.attnStalls (s : State) (a : AttnP) (cmd : Cmd) : State :=
  let total := a.q.d 2 * a.q.d 3 * a.nqb
  let busy (t : Nat) : Bool := (rangeFrom (t % a.nqb * a.bq) (min a.bq (a.q.d 1 - t % a.nqb * a.bq))).any (fun i =>
    (List.range a.nkb).any (fun kb => a.processed s (t / a.nqb) i kb))
  (s.shares cmd).foldl (fun st sh =>
    let x := shareStart sh.1 total cmd.coreCount
    if (rangeFrom x (shareStart (sh.1 + 1) total cmd.coreCount - x)).any busy then st.stallCounts sh.2 else st) s

/-- One tile (R197, R200, R201): state, saturated, poisoned, contributions. -/
def AttnP.tile (a : AttnP) (s0 s : State) (e : WakeEntry) (t : Nat) : State × Bool × Bool × List RowEffect :=
  let b := t / a.nqb
  let qb := t % a.nqb
  let rows := rangeFrom (qb * a.bq) (min a.bq (a.q.d 1 - qb * a.bq))
  let fw (i : Nat) : AttnRow := a.forward s0 b i
  let rowVals (i : Nat) : List (FVal × Bool) :=
    let pz := a.rowPoison s0 b i
    if a.probs then (a.probRow s0 b i).map (fun v => (v, pz))
    else
      let vs := (fw i).out.take a.o.raw0
      ((List.range vs.length).zip vs).map (fun x => (x.2, pz || a.colPoison s0 b i x.1))
  let all := rows.map (fun i => (i, rowVals i))
  let us := all.flatMap (fun x => match a.oRow b x.1 with | some r => rowStretches r x.2 | none => [])
  let o := if a.o.isNull then { parts := [], reruns := 0, saturated := false, observed := none, nonfinite := false }
    else narrowUnit a.o (e.narrowCtx s0 a.o) a.o.mode us
  let s1 := s.writeUnit a.o o a.o.zbMap []
  let (s2, nf) := if a.probs then (s1, false)
    else rows.foldl (fun x i => let r := a.putStats x.1 b i (fw i) (a.rowPoison s0 b i); (r.1, x.2 || r.2)) (s1, false)
  let core := s.runsFor (e.cmd.firstCore + shareOf t (a.q.d 2 * a.q.d 3 * a.nqb) e.cmd.coreCount)
  let s3 := s2.modBsn core (fun x => { x with recomputes := x.recomputes + o.reruns, saturatedTiles := x.saturatedTiles + b2n o.saturated })
  (State.attnWork s0 s3 a e.cmd core b (rows.map (fun i => (i, if a.probs then a.probCounts s0 b i else fw i))), o.saturated, all.any (fun x => x.2.any (·.2)),
   o.effects a.o ++ (if nf then [RowEffect.nonfinite a.stats.layer] else []))

/-- ATTN_BLOCK (R193 to R201). -/
def execAttnBlock (q seq : Nat) (s : State) : Host.Outcome State Fault Refusal :=
  match s.matrixReady q seq 0x1010 with
  | none => .next s
  | some e =>
    let a := (attnParams s e.cmd.tensors (lget TDesc.null e.cmd.extras 0) e.cmd.params).1
    if !a.live then .next (s.ran q seq 0 [] [])
    else
      let one (x : State × Bool × Bool × List RowEffect) (t : Nat) : State × Bool × Bool × List RowEffect :=
        let r := a.tile s x.1 e t
        (r.1, x.2.1 || r.2.1, x.2.2.1 || r.2.2.1, x.2.2.2 ++ r.2.2.2)
      let (s1, sat, pz, eff) := (List.range (a.q.d 2 * a.q.d 3 * a.nqb)).foldl one (s.attnStalls a e.cmd, false, false, [])
      let s2 := a.v.pinLines (a.k.pinLines (a.q.pinLines s1))
      .next ((s2.bookTraffic e.cmd).ran q seq (if pz then 0x10 else if sat then 0x03 else 0) [] eff)

end Sys2Proof.Machine
end

