-- ==== Sys2Proof/Machine/BasinFam.lean ====
section
/-! DEFINITION. The basin's own events: a group opens (R124), a row lands (R93), a tile completes or replays (R396), a bank
drains to C or to the sluice (R125, R185). -/

namespace Sys2Proof.Machine

open Sys2Proof

/-- The GEMM-family computation a reached command runs through the basin: its own, or its feeder's (R170). -/
def WakeEntry.gemmP (e : WakeEntry) : Option GemmP :=
  let c := e.cmd
  if 0x1000 ≤ c.opcode ∧ c.opcode ≤ 0x1004 then some (gemmParams c.opcode c.tensors c.params true).1
  else if c.opcode = 0x2000 then c.feeder.map (fun f => (gemmParams f.1 f.2.1 f.2.2 true).1)
  else none

/-- Is the command at work through the basin: a GEMM before its own row, a VPROG while it runs. -/
def WakeEntry.basinOpen (e : WakeEntry) : Bool := !e.ended && !e.ran && (e.started == decide (e.cmd.opcode = 0x2000))

/-- The slot of basin tile u in its run (R94, R124): runs start at the share's first tile and at each tile row. The slice pairs of
GEMM_FP64S are runs of one. (DEDUCED: notes/assumptions/81) -/
def GemmP.slotOf (p : GemmP) (u cc : Nat) : Nat :=
  if p.op = 0x1002 then 0
  else (u - max (shareStart (shareOf u p.tiles cc) p.tiles cc) (u / p.tc * p.tc)) % p.groups

/-- The basin tiles of the run that u belongs to (R94): up to GROUPS, of one share and one tile row. -/
def GemmP.runOf (p : GemmP) (u cc : Nat) : List Nat :=
  let first := u - p.slotOf u cc
  if p.op = 0x1002 then [u]
  else (rangeFrom first p.groups).filter (fun v => decide (v < shareStart (shareOf u p.tiles cc + 1) p.tiles cc) && decide (v / p.tc = u / p.tc))

/-- Is a basin tile of a command already drained, waiting or open on a core. -/
def State.tileTaken (s : State) (e : WakeEntry) (p : GemmP) (core u : Nat) : Bool :=
  let x := (s.core core).bsn
  let q := e.cmd.queue
  let n := e.cmd.seq
  e.unitDone p u ||
  x.drain.any (fun d => decide (d.queue = q) && decide (d.seq = n) && decide (d.tile = u)) ||
  x.groups.any (fun g => match g with
    | some y => decide (y.queue = q) && decide (y.seq = n) && decide (y.tile = u)
    | none => false)

/-- May a core open basin tile u now: it is of a share the core runs, and every lower one of the share has been taken. -/
def State.tileNext (s : State) (e : WakeEntry) (p : GemmP) (core u : Nat) : Bool :=
  let cc := e.cmd.coreCount
  let i := shareOf (p.unitTile u) p.tiles cc
  let a := shareStart i p.tiles cc * p.parts
  let vec := (s.core core).vec
  decide (u < p.units) && decide (s.runsFor (e.cmd.firstCore + i) = core) &&
  (decide (e.cmd.opcode ≠ 0x2000) || (decide (vec.queue = e.cmd.queue) && decide (vec.seq = e.cmd.seq) && decide (vec.share = i))) &&
  !s.tileTaken e p core u && (rangeFrom a (u - a)).all (fun v => s.tileTaken e p core v)

/-! ### Landing -/

/-- Put a group into its slot. -/
def State.setGroup (s : State) (core slot : Nat) (g : Option OpenGroup) : State :=
  s.modBsn core (fun x => { x with groups := lset x.groups slot g })

/-- Land the next row of a group, skipped or not, and move on (R93, R115). The counts of a pass are taken at its row 0. -/
def State.landNext (s : State) (p : GemmP) (e : WakeEntry) (core : Nat) (g : OpenGroup) : State × OpenGroup :=
  let s1 := if g.row = 0 then s.countPass p e.cmd core (p.unitTile g.tile) g.pass 1 else s
  let (acc, c) := p.landUnit s g.tile g.row g.pass (lget RowAcc.clear g.rows g.row)
  let last := decide (g.row + 1 = p.unitRows g.tile)
  (s1.addBsn core c, { g with rows := lset g.rows g.row acc, row := if last then 0 else g.row + 1, pass := if last then g.pass + 1 else g.pass })

/-- Take every skipped row until a row must be issued or the tile is complete (R99, R124); `n` bounds the rows. (DEDUCED: notes/assumptions/23) -/
def State.settle (p : GemmP) (e : WakeEntry) (core : Nat) : Nat → State → OpenGroup → State × OpenGroup
  | 0, s, g => (s, g)
  | n + 1, s, g =>
    if g.pass < p.unitPasses g.tile ∧ p.unitSkips s g.tile g.row g.pass = true then
      (let r := s.landNext p e core g
       State.settle p e core n r.1 r.2)
    else (s, g)

/-- A group with its skipped rows taken. -/
def State.settled (s : State) (p : GemmP) (e : WakeEntry) (core : Nat) (g : OpenGroup) : State × OpenGroup :=
  State.settle p e core (p.unitPasses g.tile * p.unitRows g.tile) s g

/-- A group closes: its bank becomes backwater (R124), every row poisoned after a third mismatch (R396). -/
def State.closeGroup (s : State) (core slot : Nat) (g : OpenGroup) : State :=
  (s.setGroup core slot none).modBsn core (fun x =>
    { x with banks := lset x.banks g.bank 2,
             drain := x.drain ++ [{ bank := g.bank, queue := g.queue, seq := g.seq, tile := g.tile, rows := g.rows,
                                    poisoned := decide (g.replays = 3), started := false, pushed := 0 }] })

/-- The open groups of a command on a core. -/
def BsnSt.open' (x : BsnSt) (q seq : Nat) : List OpenGroup :=
  x.groups.filterMap (fun o => o.bind (fun g => if g.queue = q ∧ g.seq = seq then some g else none))

/-- Close the complete groups of a command that no lower tile of it holds back: groups close in ascending tile number (R94). (DEDUCED: notes/assumptions/23) -/
def State.closeReady (p : GemmP) (q seq core : Nat) : Nat → State → State
  | 0, s => s
  | n + 1, s =>
    let x := (s.core core).bsn
    let may (slot : Nat) : Bool := match lget none x.groups slot with
      | some g => decide (g.queue = q) && decide (g.seq = seq) && decide (g.pass = p.unitPasses g.tile) &&
          !(x.open' q seq).any (fun y => decide (y.tile < g.tile))
      | none => false
    match findFirst may (List.range 4) with
    | none => s
    | some slot =>
      match lget none x.groups slot with
      | none => s
      | some g => State.closeReady p q seq core n (s.closeGroup core slot g)

/-- After a row: keep the group, or when its tile is complete close or replay it (R94, R124, R396). -/
def State.afterRow (s : State) (p : GemmP) (e : WakeEntry) (core slot : Nat) (g : OpenGroup) : State :=
  if g.pass < p.unitPasses g.tile then s.setGroup core slot (some g)
  else
    let (s1, g1) := if g.mismatch then
        (let m := s.mismatched p e core g
         m.1.settled p e core m.2)
      else (s, g)
    State.closeReady p g.queue g.seq core 4 (s1.setGroup core slot (some g1))

/-- Must a group wait for another of its command: rows issue run by run, in a run pass by pass, in a pass in ascending tile number
(R94). -/
def OpenGroup.after (g o : OpenGroup) (p : GemmP) (cc : Nat) : Bool :=
  let a := o.tile - p.slotOf o.tile cc
  let b := g.tile - p.slotOf g.tile cc
  decide (a < b) || (decide (a = b) && (decide (o.pass < g.pass) || (decide (o.pass = g.pass) && decide (o.tile < g.tile))))

/-- May the group's next row issue now: no open group of the command goes first, and beyond pass 0 every tile of the run has opened. (DEDUCED: notes/assumptions/23) -/
def State.mayLand (s : State) (p : GemmP) (e : WakeEntry) (core : Nat) (g : OpenGroup) : Bool :=
  let cc := e.cmd.coreCount
  decide (g.pass < p.unitPasses g.tile) && !((s.core core).bsn.open' g.queue g.seq).any (fun o => g.after o p cc) &&
  (decide (g.pass = 0) || (p.runOf g.tile cc).all (fun u => s.tileTaken e p core u))

/-- GROUP_OPEN (R124): the tile opens in its slot on the slot's free bank, the lower-numbered when both are. Nothing happens
when the tile may not open now. A group that cannot open for want of a bank stalls issue. A slot whose group is open opens no other,
its free bank or not (R113). A tile with no issued row completes at once. (DEDUCED: notes/assumptions/23) (DESIGN CHOICE: notes/assumptions/77) -/
def execGroupOpen (core slot q seq tile : Nat) (s : State) : Host.Outcome State Fault Refusal :=
  match s.entry q seq with
  | none => .next s
  | some e =>
    match e.gemmP with
    | none => .next s
    | some p0 =>
      let p := p0.onCore s core
      let x := (s.core core).bsn
      if e.basinOpen ∧ s.tileNext e p core tile ∧ slot = p.slotOf tile e.cmd.coreCount then
        match findFirst (fun b => decide (lget 0 x.banks b = 0)) [2 * slot, 2 * slot + 1] with
        | none => .next (s.modBsn core (fun y => { y with stallBank := y.stallBank + 1 }))
        | some b =>
          if (lget none x.groups slot).isSome then .next s
          else
            let s1 := (s.modBsn core (fun y => { y with banks := lset y.banks b 1 })).mxBusy core p true
            let (s2, g) := s1.settled p e core (newGroup p e b tile 0)
            if g.pass < p.unitPasses tile then .next (s2.setGroup core slot (some g)) else .next (s2.closeGroup core slot g)
      else .next s

/-- ROW_LAND (R93): the next issued row of the slot's group lands; `mismatch` says that the row's check of R395 fails, which is made as
the row's last promotion lands, with CHECK_EN set, no non-finite total and no saturation. The row waits its turn in its run (R94), and at spillway level 0 it does not issue (R354). -/
def execRowLand (core slot : Nat) (mismatch : Bool) (s : State) : Host.Outcome State Fault Refusal :=
  match lget none (s.core core).bsn.groups slot with
  | none => .next s
  | some g =>
    match s.entry g.queue g.seq with
    | none => .next s
    | some e =>
      match e.gemmP with
      | none => .next s
      | some p0 =>
        let p := p0.onCore s core
        if e.ended || !s.rowsIssue || !s.mayLand p e core g then .next s
        else
          let left := p.unitPasses g.tile - g.pass - 1
          let (s1, g1) := s.landNext p e core g
          let last1 := (p.landRest s g.tile g.row left (g.pass + 1) (lget RowAcc.clear g1.rows g.row)).1
          let checked := (s.core core).mx.checkEn && (rangeFrom (g.pass + 1) left).all (fun k => p.unitSkips s g.tile g.row k) &&
            last1.nf.all (· = 0) && (p.tInt || decide (p.op = 0x1002) || last1.t.all (fun w => isFin (of32 w)))
          let (s2, g2) := s1.settled p e core { g1 with mismatch := g.mismatch || (mismatch && checked) }
          .next (s2.afterRow p e core slot g2)

/-! ### The drain -/

/-- Is a program of this command running on the core (R171). -/
def VecSt.runs (v : VecSt) (q seq : Nat) : Bool := v.running && decide (v.queue = q) && decide (v.seq = seq)

/-- The lowest-numbered FREE sluice slot (R185). -/
def SlcSt.freeSlot (x : SlcSt) : Option Nat := findFirst (fun k => !x.slots.any (fun y => y.slot = k)) (List.range 8)

/-- The head item has drained: its bank is FREE, and a feeder tile is delivered. -/
def State.drained (s : State) (core : Nat) (d : DrainItem) (feeder : Bool) : State :=
  let s1 := s.modBsn core (fun x => { x with banks := lset x.banks d.bank 0, drain := x.drain.drop 1 })
  if feeder then
    s1.modCore core (fun x =>
      { x with slc := { x.slc with tilesLeft := x.slc.tilesLeft - 1 }, vec := { x.vec with feedActive := decide (1 < x.slc.tilesLeft) } })
  else s1

/-- Move rows of a started feeder tile into the sluice while slots are FREE (R185); rows of a program that has ended are
dropped (R171). `n` bounds the slots. (DEDUCED: notes/assumptions/21) -/
def State.pushRows (core : Nat) (d0 : DrainItem) (cols : Nat) (v3 : List (List W64)) (marks : List (List Bool)) : Nat → State → State
  | 0, s => s
  | n + 1, s =>
    match (s.core core).bsn.drain with
    | [] => s
    | d :: rest =>
      let total := d0.rows.length
      let left := total - d.pushed
      if left = 0 then s.drained core d true
      else if !(s.core core).vec.runs d.queue d.seq then
        ((s.modSlc core (fun x => { x with rowsIn := x.rowsIn + left, rowsDiscarded := x.rowsDiscarded + left })).modBsn core
          (fun x => { x with drainRows := x.drainRows + left })).drained core d true
      else
        match (s.core core).slc.freeSlot with
        | none =>
          let (k, s1) := s.fresh
          (s1.modBsn core (fun x => { x with stallSluice := x.stallSluice + 1 + k })).modSlc core (fun x => { x with refusedCycles := x.refusedCycles + 1 + k })
        | some k =>
          let m := min 32 left
          let rows := ((v3.drop d.pushed).take m).map (fun r => (r.map (fun w => to32 (of64 w))) ++ List.replicate (32 - cols) 0)
          let sl : SluiceSlot := { slot := k, tile := d.tile, index := d.pushed / 32, cols := cols, pops := 0, rows := rows,
                                   marks := (marks.drop d.pushed).take m, filledNs := s.nowNs }
          let s1 := s.modSlc core (fun x => { x with slots := x.slots ++ [sl], rowsIn := x.rowsIn + m })
          let s2 := s1.modBsn core (fun x => { x with drain := { d with pushed := d.pushed + m } :: rest, drainRows := x.drainRows + m })
          State.pushRows core d0 cols v3 marks n s2

/-- Continue the head item of a core's drain when it is a started feeder tile. (DEDUCED: notes/assumptions/21) -/
def State.drainMore (s : State) (core : Nat) : State :=
  match (s.core core).bsn.drain with
  | [] => s
  | d :: _ =>
    if !d.started then s
    else
      match s.entry d.queue d.seq with
      | none => s
      | some e =>
        match e.gemmP with
        | none => s
        | some p =>
          match findFirst (fun x => x.1 = d.tile) e.tiles with
          | none => s
          | some t =>
            let marks := p.tileMarks s d.tile d.poisoned
            State.pushRows core d (p.tileCols d.tile) t.2 marks (d.rows.length / 32 + 3) s

/-! ### Programs: start and end of a share (R167 to R171) -/

/-- PARAMS of a VPROG: PROG_BASE, INSN_LIMIT, ARG k (R168). -/
def Cmd.progBase (c : Cmd) : Nat := fieldAt c.params 0 8

/-- The limit on instructions retired, 0 for none (R168). -/
def Cmd.insnLimit (c : Cmd) : Nat := fieldAt c.params 0x0C 4 * 1024

/-- ARG k (R168). -/
def Cmd.progArg (c : Cmd) (k : Nat) : W64 := BitVec.ofNat 64 (fieldAt c.params (0x18 + 8 * k) 8)

/-- A vector engine at the start of share `i` of a command (R167, R169). -/
def VecSt.start (v : VecSt) (c : Cmd) (i : Nat) (feed : Bool) : VecSt :=
  let resident := decide (v.progBase = c.progBase) && decide (v.prog = c.prog) && !c.prog.isEmpty
  let sregs : Tbl W64 := [(1, BitVec.ofNat 64 i), (2, BitVec.ofNat 64 c.coreCount), (3, c.progArg 0), (4, c.progArg 1), (5, c.progArg 2),
    (6, c.progArg 3), (7, c.progArg 4)]
  { v with running := !c.prog.isEmpty, feedActive := feed, pc := 0, flags := 0, v := [], vPoison := [],
           s := sregs.filter (fun x => x.2 ≠ 0), m := (List.range 8).map (fun k => (k, BitVec.allOnes 64)), r := [],
           prog := c.prog, progBase := c.progBase, queue := c.queue, seq := c.seq, retired := 0, loads := [], poisonOut := false,
           lastV := false, progLoads := v.progLoads + b2n (!resident && !c.prog.isEmpty), share := i }

/-- Feeder tiles of share `i` (R83, R170). -/
def Cmd.feederTiles (c : Cmd) (i : Nat) : Nat :=
  match c.feeder with
  | none => 0
  | some f =>
    let p := (gemmParams f.1 f.2.1 f.2.2 true).1
    shareStart (i + 1) p.tiles c.coreCount - shareStart i p.tiles c.coreCount

/-- Start share `i` on a core. -/
def State.startShare (s : State) (c : Cmd) (core i : Nat) : State :=
  let n := c.feederTiles i
  s.modCore core (fun x => { x with vec := x.vec.start c i (decide (n ≠ 0)), slc := { x.slc with slots := [], tilesLeft := n } })

/-- Has a core done every share of a command: no program running, no feeder tile left, no further share. -/
def State.vecDone (s : State) (q seq core : Nat) : Bool :=
  let x := s.core core
  !x.vec.runs q seq && (!(decide (x.vec.queue = q) && decide (x.vec.seq = seq)) || (decide (x.slc.tilesLeft = 0) && x.vec.sharesLeft.isEmpty))

/-- The work of a VPROG is done: the feeder's statistics are written and the code stands (R171). -/
def State.vprogFinish (s : State) (e : WakeEntry) : State :=
  let (s1, nf, lay) := match e.gemmP with
    | none => (s, false, 0)
    | some p => let r := if p.rowmax || p.rowstat then p.writeStats s e.tiles else (s, false); (r.1, r.2, p.e.layer)
  let s2 := s1.idleArrays e.cmd
  let s3 := e.cmd.tensors.foldl (fun st t => t.pinLines st) s2
  (s3.bookTraffic e.cmd).ran e.cmd.queue e.cmd.seq e.code [] (if nf then [RowEffect.nonfinite lay] else [])

/-- A share ended on a core: start the core's next share, or finish the command once every core is done; `n` bounds the shares. -/
def State.vprogCheck (q seq core : Nat) : Nat → State → State
  | 0, s => s
  | n + 1, s =>
    match s.entry q seq with
    | none => s
    | some e =>
      let x := s.core core
      if e.ran || !e.started || x.vec.runs q seq || decide (x.slc.tilesLeft ≠ 0) then s
      else match x.vec.sharesLeft with
        | i :: rest => State.vprogCheck q seq core n ((s.modVec core (fun v => { v with sharesLeft := rest })).startShare e.cmd core i)
        | [] => if (s.shares e.cmd).all (fun sh => s.vecDone q seq sh.2) then s.vprogFinish e else s

/-- A program ends on a core (R171): rows it did not pop are dropped; free stall counts are taken. -/
def State.endProgram (s : State) (core : Nat) : State :=
  let v := (s.core core).vec
  let lost := ((s.core core).slc.slots.map (fun y => y.rows.length - 2 * y.pops)).sum
  let (a, s1) := s.fresh
  let (b, s2) := s1.fresh
  let s3 := s2.modCore core (fun x =>
    { x with vec := { x.vec with running := false, loads := [], stallDep := x.vec.stallDep + a, stallMem := x.vec.stallMem + b },
             slc := { x.slc with slots := [], rowsDiscarded := x.slc.rowsDiscarded + lost } })
  State.vprogCheck v.queue v.seq core (v.sharesLeft.length + 2) (s3.drainMore core)

/-- DRAIN_START (R125): the oldest backwater bank drains, to C or through the epilogue into the sluice. -/
def execDrainStart (core : Nat) (s : State) : Host.Outcome State Fault Refusal :=
  match (s.core core).bsn.drain with
  | [] => .next s
  | d :: _ =>
    if d.started then .next (State.vprogCheck d.queue d.seq core ((s.core core).vec.sharesLeft.length + 2) (s.drainMore core))
    else
      match s.entry d.queue d.seq with
      | none => .next (s.drained core d false)
      | some e =>
        match e.gemmP with
        | none => .next (s.drained core d false)
        | some p0 =>
          let p := p0.onCore s core
          if e.cmd.opcode = 0x2000 then
            let v3 := p.tileV3 s true d.tile d.rows
            let sq : List RowEffect := if p.sumsq then
                (let v := tileSumSq v3
                 [RowEffect.sumSq p.c.layer 0 (exactUnits v) (d.rows.length * p.tileCols d.tile)])
              else []
            let s1 := s.modEntry d.queue d.seq (fun x => { x with tiles := x.tiles ++ [(d.tile, packV3 v3)], effects := x.effects ++ sq })
            let s2 := s1.modBsn core (fun x => { x with drain := lmod x.drain 0 (fun y => { y with started := true }) })
            .next (State.vprogCheck d.queue d.seq core ((s.core core).vec.sharesLeft.length + 2) (s2.drainMore core))
          else .next ((s.drained core d false).drainUnit p e core d.tile d.rows d.poisoned)

end Sys2Proof.Machine
end

