-- ==== Sys2Proof/Machine/Ford.lean ====
section
/-! DEFINITION. The ford link (R339 to R348): flits, credits and replay, mirroring and its flips, the wake-log entry that is mirrored
(R402), the failover record. -/

namespace Sys2Proof.Machine

open Sys2Proof

/-! ### The wake-log entry (R402) -/

/-- The rows a command reads, at most 8. -/
def WakeEntry.rows8 (e : WakeEntry) : List Nat := (e.epochs.map (·.1)).take 8

/-- Version-store copies of a command: descriptors, feeder frame, group descriptor, program. -/
def Cmd.copies (c : Cmd) : Nat :=
  ((c.tensors ++ c.extras).filter (fun t => decide (t.handle ≠ 0))).length + b2n c.feeder.isSome + b2n c.group.isSome + b2n (!c.prog.isEmpty)

/-- Version-store bytes of a command. -/
def Cmd.copyBytes (c : Cmd) : Nat :=
  64 * ((c.tensors ++ c.extras).filter (fun t => decide (t.handle ≠ 0))).length + (if c.feeder.isSome then 128 else 0) +
    (match c.group with | some g => 64 + 16 * g.entries.length | none => 0) + 8 * c.prog.length

/-- Is the command a collective. -/
def collOp (op : Nat) : Bool := decide (0x5000 ≤ op ∧ op ≤ 0x5003)

/-- The 256 bytes of a wake-log entry; `ref` is the index of its first copy in the version store. -/
def WakeEntry.bytes (e : WakeEntry) (ref : Nat) : List Byte :=
  let rows := e.rows8
  let row (i : Nat) : Nat := lget 0xFFFF rows i
  let est (i : Nat) : List Byte := if i < rows.length then leBytes 2 (e.est (row i) true).bits ++ leBytes 2 (e.est (row i) false).bits else leBytes 4 0
  leBytes 8 e.wakeSeq ++ leBytes 2 e.cmd.queue ++ leBytes 1 e.phase ++ leBytes 1 e.replays ++
    leBytes 2 (b2n e.cmd.selfOverlap + 2 * b2n e.noReplay) ++ leBytes 2 e.cmd.coreFirst ++ leBytes 2 e.cmd.coreCount ++ leBytes 2 e.cmd.copies ++
    leBytes 4 ref ++ leBytes 8 e.reachMark ++ List.replicate 32 0 ++ padTo 128 e.cmd.frame ++ leBytes 8 e.step.toNat ++ leBytes 8 e.seed.toNat ++
    leBytes 8 (if collOp e.cmd.opcode then e.collSeq else 0) ++ (List.range 8).flatMap (fun i => leBytes 2 (row i)) ++
    leBytes 1 (((List.range 8).map (fun i => if i < rows.length && e.epoch (row i) then 2 ^ i else 0)).sum) ++ List.replicate 7 0 ++
    (List.range 4).flatMap est

/-! ### Sending (R340, R341) -/

/-- Change the ford link. -/
def State.modFrd (s : State) (f : FrdSt → FrdSt) : State := { s with frd := f s.frd }

/-- A flit of a type that returns no credits. -/
def Flit.of (type vc : Nat) (payload : List Byte) : Flit := { seq := 0, type := type, vc := vc, creditVc := 0, creditN := 0, payload := payload }

/-- The 256 bytes of a flit (R340) with an ACK field and a CRC field. -/
def Flit.bytes (f : Flit) (ack crc : Nat) : List Byte :=
  leBytes 1 f.type ++ leBytes 1 f.vc ++ leBytes 2 f.seq ++ leBytes 2 ack ++ leBytes 1 f.creditVc ++ leBytes 1 f.creditN ++ leBytes 4 f.payload.length ++
    leBytes 4 crc ++ padTo 240 f.payload

/-- The CRC-32C of a flit: of its 256 bytes with the CRC field zero (R340). -/
def Flit.crc (f : Flit) (ack : Nat) : W32 := crc32c (f.bytes ack 0)

/-- Does a flit take one of a channel's receive buffers: every type but IDLE and ACK. (DEDUCED: notes/assumptions/37) -/
def Flit.buffered (f : Flit) : Bool := decide (f.type ≠ 0) && decide (f.type ≠ 6)

/-- Does a flit take a sequence number of its own, and is it kept for replay: one that takes a buffer or returns credits. (DEDUCED: notes/assumptions/37) -/
def Flit.numbered (f : Flit) : Bool := f.buffered || decide (0 < f.creditN)

/-- Can a flit leave now: a credit if it takes a buffer, and room among the 512 kept if it is numbered (R341). -/
def FrdSt.canSend (x : FrdSt) (f : Flit) : Bool := (!f.buffered || decide (0 < lget 0 x.credits f.vc)) && (!f.numbered || decide (x.kept.length < 512))

/-- The last sequence number received in order. -/
def FrdSt.lastSeq (x : FrdSt) : Nat := (x.expSeq + 65535) % 65536

/-- Put a flit on the lanes with the current ACK. -/
def State.emitFlit (s : State) (f : Flit) : State :=
  { s.send (.flit (f.bytes s.frd.lastSeq (f.crc s.frd.lastSeq).toNat)) with frd := { s.frd with txFlits := s.frd.txFlits + 1 } }

/-- Send a flit with the next sequence number. -/
def State.putFlit (s : State) (f : Flit) : State :=
  let g := { f with seq := s.frd.nextSeq }
  let s1 := s.emitFlit g
  if g.numbered then
    s1.modFrd (fun x => { x with nextSeq := (x.nextSeq + 1) % 65536, kept := x.kept ++ [g],
                                 credits := if g.buffered then lmod x.credits g.vc (· - 1) else x.credits })
  else s1

/-- Send a flit, or queue it behind those of its channel that wait. -/
def State.queueFlit (s : State) (f : Flit) : State :=
  if s.frd.txWait.all (fun w => decide (w.vc ≠ f.vc)) && s.frd.canSend f then s.putFlit f else s.modFrd (fun x => { x with txWait := x.txWait ++ [f] })

/-- Send a flit on a link that is up. -/
def State.sendFlit (s : State) (type vc : Nat) (payload : List Byte) : State := if s.frd.linkUp then s.queueFlit (Flit.of type vc payload) else s

/-- Send queued flits while credits last; `n` bounds their number. -/
def drainFlits : Nat → State → State
  | 0, s => s
  | n + 1, s =>
    match findFirst (fun w => s.frd.canSend w) s.frd.txWait with
    | none => s
    | some w => drainFlits n ((s.modFrd (fun x => { x with txWait := x.txWait.erase w })).putFlit w)

/-- Send a long payload as flits of 240 bytes. -/
def State.sendFlits (s : State) (type vc : Nat) (bytes : List Byte) : State :=
  (List.range (cdiv bytes.length 240)).foldl (fun st k => st.sendFlit type vc ((bytes.drop (240 * k)).take 240)) s

/-- Every kept flit is sent again (R341). -/
def State.replayFlits (s : State) : State :=
  (s.frd.kept.foldl (fun st f => st.emitFlit f) s).modFrd (fun x => { x with replays := x.replays + 1 })

/-- Say HELLO: the pair identity and the side (R339). -/
def State.sayHello (s : State) : State := s.queueFlit (Flit.of 1 0 (leBytes 8 s.frd.pairKey.toNat ++ leBytes 1 (b2n s.frd.side)))

/-! ### Mirroring (R343, R348) -/

/-- Does this module mirror: its partner is present, and the bring-up of both has ended (R343, R348). (DESIGN CHOICE: notes/assumptions/88) -/
def State.mirroring (s : State) : Bool := s.frd.partnerPresent && s.frd.partnerReady && s.boot.ready

/-- Cut mirror data into write flits: an 8-byte address and 232 bytes (R340, R343). -/
def State.mirrorWrite (s : State) (a : Nat) (bytes : List Byte) : State :=
  (List.range (cdiv bytes.length 232)).foldl (fun st k =>
    st.sendFlit 2 1 (leBytes 8 (s.frd.mirrorBase + a + 232 * k) ++ (bytes.drop (232 * k)).take 232)) s

/-- Mirror the rows of a pending master or silt copy that an update engine wrote or read (R343). -/
def State.mirrorTensor (s : State) (t : TDesc) : State :=
  if t.isNull || !s.mirroring then s
  else (List.range t.rows).foldl (fun st r => st.mirrorWrite (t.addr 0 r) (s.peekBytes (t.addr 0 r) (t.d0 * fmtBits t.fmt / 8))) s

/-- The flags byte of a FLAGS flit: NONFINITE, UPDATED, HELD as in RFLAGS (R269, R343). -/
def NormRow.flagByte (x : NormRow) : BitVec 8 := BitVec.ofNat 8 (b2n x.nonfinite + 2 * b2n x.updated + 4 * b2n x.held)

/-- Mirror the rows whose flags changed between two states (R343). -/
def State.mirrorFlags (s old : State) : State :=
  if s.mirroring then
    ((s.train.rows ++ old.train.rows).map (·.1)).eraseDups.foldl (fun st r =>
      if (s.row r).flagByte = (old.row r).flagByte then st else st.sendFlit 4 1 (leBytes 2 r ++ [(s.row r).flagByte])) s
  else s

/-- Mirror a wake-log entry as it now stands (R343). -/
def State.mirrorEntry (s : State) (e : WakeEntry) (ref : Nat) : State := if s.mirroring then s.sendFlits 3 1 (e.bytes ref) else s

/-- Are WRITE flits unacknowledged (R344, MIRROR_BUSY). -/
def FrdSt.mirrorBusy (x : FrdSt) : Bool := (x.kept ++ x.txWait).any (fun f => decide (f.type = 2))

/-! ### Receiving (R341) -/

/-- Is sequence number `a` at or before `b`, modulo 65,536. -/
def seqLe (a b : Nat) : Bool := decide ((b + 65536 - a % 65536) % 65536 < 32768)

/-- The flit a header and a payload make. -/
def Flit.arrived (h : FlitHdr) (type : Nat) (payload : List Byte) : Flit :=
  { seq := h.seq, type := type, vc := h.vc, creditVc := h.creditVc, creditN := h.creditN, payload := payload }

/-- Take the acknowledgement and the returned credits of a flit. -/
def State.flitAck (s : State) (h : FlitHdr) : State :=
  let s1 := s.modFrd (fun x => { x with kept := x.kept.filter (fun k => !seqLe k.seq h.ack),
                                        credits := lmod x.credits h.creditVc (fun c => min 64 (c + h.creditN)) })
  drainFlits s1.frd.txWait.length s1

/-- Answer a discarded flit with the ACK of the last good one. -/
def State.answerAck (s : State) : State := s.putFlit (Flit.of 6 0 [])

/-- Return the buffer of an accepted flit, freed at once: an ACK that carries a credit. -/
def State.returnCredit (s : State) (vc : Nat) : State := s.queueFlit { Flit.of 6 0 [] with creditVc := vc, creditN := 1 }

/-- Receive a flit: whether it is accepted (lanes trained, CRC good and, if it is numbered, the sequence number expected). A discarded flit is
answered with the ACK of the last good one; an ACK that returns no credit is such an answer, and what is kept after it is sent again (R341). (DEDUCED: notes/assumptions/37) -/
def State.flitIn (s : State) (h : FlitHdr) (type : Nat) (payload : List Byte) : State × Bool :=
  let f := Flit.arrived h type payload
  if !s.frd.linkUp && !s.frd.helloWait then (s, false)
  else if f.crc h.ack ≠ h.crc then ((s.modFrd (fun x => { x with crcErrors := x.crcErrors + 1 })).answerAck, false)
  else if f.numbered && decide (h.seq ≠ s.frd.expSeq) then (s.answerAck, false)
  else
    let s1 := (s.modFrd (fun x => { x with rxFlits := x.rxFlits + 1, expSeq := if f.numbered then (x.expSeq + 1) % 65536 else x.expSeq })).flitAck h
    let s2 := if decide (type = 6) && decide (h.creditN = 0) && !s1.frd.kept.isEmpty then s1.replayFlits else s1
    (if f.buffered then s2.returnCredit h.vc else s2, true)

/-- Receive a flit that needs the partner present. (DEDUCED: notes/assumptions/37) -/
def State.partnerIn (s : State) (h : FlitHdr) (type : Nat) (payload : List Byte) (f : State → State) : State :=
  let (s1, ok) := s.flitIn h type payload
  if ok && s1.frd.partnerPresent then f s1 else s1

/-- HELLO (R339, R348): the pair identity must match and the sides differ; any other keeps the link down. The first one after training brings the link up
and the partner with it; one that follows says that the partner's bring-up has ended. (DESIGN CHOICE: notes/assumptions/88) -/
def execFordHello (hdr : FlitHdr) (pairKey : BitVec 64) (side : Bool) (s : State) : Host.Outcome State Fault Refusal :=
  let (s1, ok) := s.flitIn hdr 1 (leBytes 8 pairKey.toNat ++ leBytes 1 (b2n side))
  if !ok then .next s1
  else if s.boot.licPaired && decide (pairKey = s.frd.pairKey) && (side != s.frd.side) then
    (if s.frd.helloWait then
      (let s2 := s1.wakeTrigger.modFrd (fun x => { x with linkUp := true, helloWait := false, partnerPresent := true, partnerReady := false, partnerLost := false })
       .next (if s2.boot.ready then s2.sayHello else s2))
     else .next (s1.modFrd (fun x => { x with partnerReady := x.partnerPresent })))
  else .next (s1.modFrd (fun x => { x with helloReject := x.helloReject + 1, linkUp := false, partnerPresent := false, partnerReady := false }))

/-- WRITE (R340, R343): mirror bytes land at the target address. -/
def execFordWrite (hdr : FlitHdr) (addr : Nat) (data : List Byte) (s : State) : Host.Outcome State Fault Refusal :=
  .next (s.partnerIn hdr 2 (leBytes 8 addr ++ data) (fun st =>
    let bs := data.take 232
    (st.poke addr bs).modFrd (fun x => { x with mirrorBytes := x.mirrorBytes + st.cutLen addr bs.length })))

/-- Append the bytes of a WAKE flit: an entry may come in several flits. -/
def joinEntry (es : List (List Byte)) (b : List Byte) : List (List Byte) :=
  match es.reverse with
  | l :: t => if l.length < 256 then (t.reverse ++ [l ++ b]) else es ++ [b]
  | [] => [b]

/-- Of a mirrored entry (R402): its opcode. -/
def entryOp (b : List Byte) : Nat := fieldAt b 0x40 2

/-- Of a mirrored UPDATE: the row of its masters, the last its descriptors name. (DEDUCED: notes/assumptions/37) -/
def entryRow (b : List Byte) : Nat := (((List.range 8).map (fun i => fieldAt b (0xD8 + 2 * i) 2)).filter (· ≠ 0xFFFF)).getLast?.getD 0xFFFF

/-- Are two mirrored entries of one command: WAKE_SEQ and partition. -/
def sameEntry (a b : List Byte) : Bool := decide (fieldAt a 0 8 = fieldAt b 0 8) && decide (fieldAt a 8 2 / 64 = fieldAt b 8 2 / 64)

/-- A complete mirrored entry is taken (R343, R345, R347): a new one raises the queue's REACHED; one that is completing takes the command out of those in
flight, but for a COMMIT, whose flip the mirror makes itself. (DEDUCED: notes/assumptions/37) -/
def FrdSt.takeEntry (x : FrdSt) (before : List (List Byte)) (l : List Byte) : FrdSt :=
  if fieldAt l 0x0A 1 = 2 then
    { x with mirrorWake := if entryOp l = 0x6001 then before else before.filter (fun b => !sameEntry b l),
             mirrorUpdates := if entryOp l = 0x6000 then x.mirrorUpdates ++ [(entryRow l, fieldAt l 0x84 4, fieldAt l 0x88 4)] else x.mirrorUpdates }
  else
    { x with mirrorWake := before ++ [l], wakeEntries := x.wakeEntries + 1, mirrorReached := tset 0 x.mirrorReached (fieldAt l 8 2) (fieldAt l 0xB8 8 + 1) }

/-- WAKE (R343): a wake-log entry of the partner, which may come in several flits. -/
def execFordWake (hdr : FlitHdr) (entry : List Byte) (s : State) : Host.Outcome State Fault Refusal :=
  .next (s.partnerIn hdr 3 entry (fun st =>
    let es := joinEntry st.frd.mirrorWake entry
    match es.reverse with
    | l :: t => if 256 ≤ l.length then st.modFrd (fun x => x.takeEntry t.reverse l) else st.modFrd (fun x => { x with mirrorWake := es })
    | [] => st))

/-- FLAGS (R343): row flags of the partner. -/
def execFordFlags (hdr : FlitHdr) (row : Nat) (flags : BitVec 8) (s : State) : Host.Outcome State Fault Refusal :=
  .next (s.partnerIn hdr 4 (leBytes 2 row ++ [flags]) (fun st => st.modFrd (fun x => { x with mirrorFlags := tset 0 x.mirrorFlags (row % 4096) flags })))

/-- VOTE (R343): the partner's vote result, 0 pass, 1 fail. -/
def execFordVote (hdr : FlitHdr) (result : Nat) (s : State) : Host.Outcome State Fault Refusal :=
  .next (s.partnerIn hdr 5 (leBytes 8 result) (fun st => st.modFrd (fun x => { x with mirrorVote := some result })))

/-- ACK (R341): acknowledges flits and returns credits; with none it answers a discarded flit. -/
def execFordAck (hdr : FlitHdr) (s : State) : Host.Outcome State Fault Refusal := .next (s.flitIn hdr 6 []).1

/-- COLL (R340): a flit of collective data; the message it belongs to is taken when whole, as ARRIVE, START, DATA, RESULT, FP or BISECT. -/
def execFordColl (hdr : FlitHdr) (data : List Byte) (s : State) : Host.Outcome State Fault Refusal := .next (s.partnerIn hdr 7 data (fun st => st))

/-- IDLE (R342): a valid flit that carries nothing but its header. -/
def execFordIdle (hdr : FlitHdr) (s : State) : Host.Outcome State Fault Refusal := .next (s.flitIn hdr 0 []).1

/-- FORD_REPLAY_TIMEOUT (R341): no progress for 2 µs: every kept flit is sent again. -/
def execFordReplayTimeout (s : State) : Host.Outcome State Fault Refusal :=
  if (s.frd.linkUp || s.frd.helloWait) && !s.frd.kept.isEmpty then .next s.replayFlits else .next s

/-- FORD_IDLE_TIMER (R342): nothing else was sent for 1 µs. -/
def execFordIdleTimer (s : State) : Host.Outcome State Fault Refusal := .next (s.sendFlit 0 0 [])

/-- The lanes have trained: the link starts afresh and waits for HELLO, having said its own (R339). -/
def State.fordTrained (s : State) : State :=
  (s.modFrd (fun x => { x with linkUp := false, helloWait := true, partnerPresent := false, partnerReady := false, partnerLost := false,
                               nextSeq := 0, expSeq := 0, kept := [], txWait := [], credits := [64, 64, 64] })).sayHello

/-- FORD_RETRAIN_TIMER (R342): a try at the stage 7 width, every 1 s while the link is down or the partner lost. -/
def execFordRetrainTimer (trained : Bool) (s : State) : Host.Outcome State Fault Refusal :=
  if (s.frd.linkUp && !s.frd.partnerLost) || decide (s.frd.lanesInUse = 0) then .next s
  else if trained then .next s.fordTrained
  else .next (s.modFrd (fun x => { x with linkUp := false, helloWait := false }))

/-! ### The mirror (R345 to R347) -/

/-- Fields of a mirrored COMMIT: MODE, VOTE byte, TIDE_MARK; none for other entries. -/
def mirroredCommit (b : List Byte) : Option (Nat × Nat × Nat) :=
  if entryOp b = 0x6001 then some (if 2 < fieldAt b 0x70 1 then 0 else fieldAt b 0x70 1, fieldAt b 0x71 1, fieldAt b 0x58 8) else none

/-- Does the mirrored data let a COMMIT with this VOTE byte pass (R345, R280). -/
def FrdSt.mirrorPass (x : FrdSt) (vote : Nat) : Bool :=
  x.mirrorFlags.all (fun r => !r.2.getLsbD 0) && (decide (vote = 1) || decide (x.mirrorVote = some 0))

/-- FLIP of the failover record (R347): no COMMIT of the partner pending, one that will be applied, one that fails. -/
def FrdSt.pendingFlip (x : FrdSt) : Nat :=
  match x.mirrorWake.filterMap mirroredCommit with
  | (0, v, _) :: _ => if x.mirrorPass v then 1 else 2
  | _ => 0

/-- A tensor of the partner as it lies in the mirror region (R343). -/
def State.inMirror (s : State) (t : TDesc) : TDesc :=
  let m := s.frd.mirrorBase
  { t with base := m + t.base, winEnd := (s.window (m + t.base)).getD 0, siltBase := m + t.siltBase, scaleBase := m + t.scaleBase, metaBase := m + t.metaBase }

/-- The copy that the partner's flip of a row makes committed: MASTER1 where its EPOCH was 0. Its shape is that of the same handle here (R334). (DEDUCED: notes/assumptions/40) -/
def State.mirrorCopy (s : State) (u : Nat × Nat × Nat) : Nat × Nat × TDesc :=
  (u.1, u.2.1, s.inMirror (readTensor s (if tget false s.frd.mirrorEpoch u.1 then u.2.1 else u.2.2) false false).1)

/-- The partner's UPDATEs reached and not completed, by row (R345). -/
def FrdSt.inFlightRows (x : FrdSt) : List Nat := (x.mirrorWake.filter (fun b => decide (entryOp b = 0x6000))).map entryRow

/-- What a mirrored COMMIT of MODE 0 does to the mirror (R345, R281): rows UPDATED, not HELD and with no UPDATE in flight flip. -/
def State.mirrorCommit (s : State) (f vote : Nat) : State :=
  let x := s.frd
  if !x.mirrorPass vote then s
  else
    let flips := (x.mirrorFlags.filter (fun r => r.2.getLsbD 1 && !r.2.getLsbD 2 && !x.inFlightRows.contains r.1)).map (·.1)
    let new := (x.mirrorUpdates.filter (fun u => flips.contains u.1)).map s.mirrorCopy
    s.modFrd (fun y => { y with mirrorEpoch := flips.foldl (fun t r => tmod false t r (!·)) y.mirrorEpoch, mirrorStep := y.mirrorStep + 1, mirrorMark := f,
                                mirrorMasters := y.mirrorMasters.filter (fun (m : Nat × Nat × TDesc) => !flips.contains m.1) ++ new })

/-- A mirrored SET_STATE sets the partner's EPOCH bits and step (R284, R345). (DEDUCED: notes/assumptions/37) -/
def State.mirrorSet (s : State) (f : Nat) (b : List Byte) : State :=
  s.modFrd (fun x => { x with mirrorEpoch := if fieldAt b 0x72 1 = 1 then (List.range 4096).map (fun r => (r, true)) else [],
                              mirrorStep := fieldAt b 0x80 8, mirrorMark := f, mirrorMasters := [] })

/-- MIRROR_FLIP (R345): at mark `f`, a mirrored COMMIT whose mark has come acts on the mirror, whether or not the partner is still present. -/
def State.mirrorFlip (s : State) (f : Nat) : State :=
  let due (b : List Byte) : Bool := match mirroredCommit b with
    | some (_, _, m) => decide (m ≤ f) && decide (fieldAt b 0x18 8 < f)
    | none => false
  match findFirst due s.frd.mirrorWake with
  | none => s
  | some b =>
    let s1 := match mirroredCommit b with
      | some (0, vote, _) => s.mirrorCommit f vote
      | some (1, _, _) => s.mirrorSet f b
      | _ => s
    s1.modFrd (fun x => { x with mirrorFlags := [], mirrorVote := none, mirrorUpdates := [], mirrorWake := x.mirrorWake.filter (fun e => decide (f ≤ fieldAt e 0x18 8)) })

/-- The failover record (R347). (DEDUCED: notes/assumptions/37) -/
def State.failoverRecord (s : State) (cause flip : Nat) : List Byte :=
  padTo 8 (leBytes 2 1 ++ leBytes 1 cause ++ leBytes 1 flip) ++ leBytes 8 s.tide.count ++ leBytes 8 s.frd.mirrorStep ++ leBytes 8 s.frd.mirrorMark ++
    (List.range 256).flatMap (fun q => leBytes 8 (tget 0 s.frd.mirrorReached q)) ++
    (List.range 512).map (fun k => BitVec.ofNat 8 (((List.range 8).map (fun i => if tget false s.frd.mirrorEpoch (8 * k + i) then 2 ^ i else 0)).sum)) ++
    List.replicate 1504 0

end Sys2Proof.Machine
end

