-- ==== Sys2Proof/Machine/Train.lean ====
section
/-! DEFINITION. The update engines (R268, R273 to R276, R288 to R292, R294): UPDATE, DERIVE, EXPORT and SNAPSHOT, with silt (R155,
R156), learning-rate scaling (R157, R158) and fingerprints (R334). -/

namespace Sys2Proof.Machine

open Sys2Proof

/-! ### Engines (R274) -/

/-- The update engine of a partition. -/
def State.upd (s : State) (p : Nat) : UpdSt := tget .zero s.train.engines p

/-- Change an update engine. -/
def State.modUpd (s : State) (p : Nat) (f : UpdSt → UpdSt) : State :=
  { s with train := { s.train with engines := tmod .zero s.train.engines p f } }

/-- Does an opcode run on an update engine and occupy it (R274). -/
def engineOp (op : Nat) : Bool := decide (op = 0x6000) || decide (0x6002 ≤ op ∧ op ≤ 0x6004)

/-- May a reached command run on its engine now: the engine is idle and no command reached before it waits for it. -/
def State.engineFree (s : State) (e : WakeEntry) : Bool :=
  let p := e.cmd.queue / 64
  (s.upd p).running.isNone && !s.unitInReset 7 p &&
    !(s.seqr p).wake.any (fun x => engineOp x.cmd.opcode && !x.started && !x.ended && decide (x.wakeSeq < e.wakeSeq))

/-- The engine takes a command of a row. -/
def State.takeEngine (s : State) (e : WakeEntry) (layer : Nat) (pre : Bool) : State :=
  s.modUpd (e.cmd.queue / 64) (fun u => { u with running := some (e.cmd.queue, e.cmd.seq), layer := layer, prepass := pre })

/-! ### Master pairs (R268) -/

/-- A master pair: its handles and its two descriptors. -/
structure Pair where
  h0 : Nat
  h1 : Nat
  m0 : TDesc
  m1 : TDesc
  deriving DecidableEq, Repr

/-- Is the pair legal (R294): distinct, BF16 or FP32, same FORMAT, shape and LAYER_ID. -/
def Pair.ok (p : Pair) : Bool :=
  decide (p.h0 ≠ p.h1) && !p.m0.isNull && !p.m1.isNull && (decide (p.m0.fmt = 0x00) || decide (p.m0.fmt = 0x02)) &&
    decide (p.m0.fmt = p.m1.fmt) && decide (p.m0.dims = p.m1.dims) && decide (p.m0.layer = p.m1.layer)

/-- The row of a pair: the LAYER_ID of its first master that is not null. -/
def Pair.row (p : Pair) : Option Nat := if !p.m0.isNull then some p.m0.layer else if !p.m1.isNull then some p.m1.layer else none

/-- The pair a command's PARAMS name, at byte `off`, from its extra descriptors. -/
def Cmd.pair (c : Cmd) (off : Nat) : Pair :=
  { h0 := fieldAt c.params off 4, h1 := fieldAt c.params (off + 4) 4, m0 := lget TDesc.null c.extras 0, m1 := lget TDesc.null c.extras 1 }

/-- The committed copy of an epoch. -/
def Pair.committed (p : Pair) (epoch : Bool) : TDesc := if epoch then p.m1 else p.m0

/-- The pending copy of an epoch. -/
def Pair.pending (p : Pair) (epoch : Bool) : TDesc := if epoch then p.m0 else p.m1

/-- The silt tensor of a BF16 master; an FP32 master has none (R294). -/
def TDesc.masterSilt (t : TDesc) (s : State) : TDesc := if t.fmt = 0x00 then t.siltTensor s else .null

/-! ### Silt (R155, R156) -/

/-- The exponent of the BF16 ulp of a value (R136, R155). -/
def ulpExp : FVal → Int
  | .fin _ m e => if m = 0 then -133 else max (eVal m e - 1) (-126) - 7
  | _ => 0

/-- An exact result that is dyadic, as a value. -/
def dyadicOf : XVal → FVal
  | .nan => .nan
  | .inf n => .inf n
  | .rat n num _ e _ => .fin n num e

/-- Exact sum of two values. -/
def faddExact (a b : FVal) : FVal := dyadicOf (xadd false a b)

/-- The value W of a master element with silt (R155). -/
def siltValue (w : FVal) (t : Int) : FVal := if t = 0 then w else faddExact w (.fin (decide (t < 0)) t.natAbs (ulpExp w - 8))

/-- The silt of a finite x beside a BF16 value w: (x − w) / u(w) × 256 rounded to an integer. -/
def siltOf (x w : FVal) : Int := intOf (rne (fmtOf 0x0B) (ofF (scale2 (faddExact x (fneg w)) (8 - ulpExp w))))

/-- The next BF16 pattern toward +∞. -/
def bf16Up (b : Nat) : Nat := if b < 0x8000 then b + 1 else if b = 0x8000 then 1 else b - 1

/-- w and t written for x (R156): the BF16 bits and the silt. -/
def siltWrite (x : FVal) : Nat × Int :=
  let w := rne (fmtOf 0x00) (ofF x)
  let b := encodeElem 0x00 w
  if !isFin w then (b, 0)
  else
    let t := siltOf x w
    if t < 128 then (b, t)
    else if b = 0x7F7F then (b, 127)
    else
      let b' := bf16Up b
      (b', siltOf x (decodeElem 0x00 b'))

/-! ### UPDATE: parameters (R273, R294) -/

/-- PARAMS of UPDATE after their clamps; `gmax` is absent when there is no limit, `gradLost` says the gradient was clamped to null. -/
structure UpdP where
  rule : Nat
  lrAlways : Bool
  prepass : Bool
  lr : FVal
  gscale : FVal
  decay : FVal
  gmax : Option FVal
  pair : Pair
  grad : TDesc
  gradLost : Bool
  deriving DecidableEq, Repr

/-- Is a learning rate illegal: not finite or negative (R294). −0 is zero. -/
def badRate (v : FVal) : Bool :=
  match v with
  | .fin n m _ => n && decide (m ≠ 0)
  | _ => true

/-- Is GNORM_MAX illegal: negative or a NaN. -/
def badLimit (v : FVal) : Bool :=
  match v with
  | .fin n m _ => n && decide (m ≠ 0)
  | .inf n => n
  | .nan => true

/-- PARAMS of UPDATE and how many fields were clamped. -/
def updParams (c : Cmd) : UpdP × Nat :=
  let p := c.params
  let rule := fieldAt p 0 1
  let f (o : Nat) : FVal := of32 (BitVec.ofNat 32 (fieldAt p o 4))
  let lr := f 4
  let gs := f 8
  let wd := f 0x0C
  let gm := f 0x10
  let pair := c.pair 0x14
  let grad := lget TDesc.null c.tensors 0
  let wide (t : TDesc) : Nat := b2n (!t.isNull && decide (t.fmt = 0x02) && decide (t.silt ≠ 0))
  ({ rule := if rule ≤ 3 then rule else 0, lrAlways := decide (fieldAt p 1 1 ≠ 0), prepass := decide (fieldAt p 2 1 ≠ 0),
     lr := if badRate lr then fzero else lr, gscale := if !isFin gs || decide (fieldAt p 8 4 = 0) then ofInt 1 else gs,
     decay := if badRate wd then fzero else wd,
     gmax := if badLimit gm || isZero gm || !isFin gm then none else some gm, pair := pair, grad := grad,
     gradLost := grad.isNull && decide (fieldAt c.frame 0x20 4 ≠ 0) },
   b2n (decide (3 < rule)) + b2n (decide (1 < fieldAt p 1 1)) + b2n (decide (1 < fieldAt p 2 1)) + b2n (badRate lr) + b2n (!isFin gs) +
     b2n (badRate wd) + b2n (badLimit gm) + b2n (!pair.ok) + b2n (pair.ok && !grad.isNull && decide (grad.count < pair.m0.count)) +
     (if pair.ok then wide pair.m0 + wide pair.m1 else 0))

/-! ### UPDATE: the guard and the arithmetic (R275, R276, R157, R158) -/

/-- The exact sum of squares of all elements of a tensor: finite in units of 2^-2148, or what a non-finite element makes it. -/
def TDesc.sumSquares (t : TDesc) (s : State) : Option Nat × FVal :=
  let vs := (List.range t.count).map (fun i => (t.linVal s i).1)
  let u := vs.foldl (fun a v => match a, squareUnits v with
    | some x, some y => some (x + y)
    | _, _ => none) (some 0)
  match u with
  | some x => (some x, .fin false x (-2148))
  | none => (none, if vs.any isNan then .nan else .inf false)

/-- g2 of R275. (DEDUCED: notes/assumptions/33) -/
def guardNorm (sq gscale : FVal) : FVal := mulIn f64 (mulIn f64 sq (fabs gscale)) (fabs gscale)

/-- What an UPDATE reads of its row when it is reached (R275). -/
def NormRow.guardRow (x : NormRow) : GuardRow := { nonfinite := x.nonfinite, held := x.held, tapSq := x.tapSq, tapN := x.tapN }

/-- The hold decision of R275: the reason, if held; 0 keeps the reason the row already has. (DEDUCED: notes/assumptions/33) -/
def holdReason (x : GuardRow) (g2 : FVal) (gmax : Option FVal) : Option Nat :=
  if x.nonfinite then some 1
  else if x.held then some 0
  else if g2 = .inf false then some 2
  else match gmax with
    | none => none
    | some g => if flt (fmulExact g g) g2 then some 2 else none

/-- Square root rounded to binary64. -/
def sqrt64 (v : FVal) : FVal := rne f64 (xsqrt v)

/-- k of R158: the smallest power that makes the update survive, up to Kmax. -/
def lrPower (x : NormRow) (rule kmax : Nat) (g2 : FVal) (n : Nat) (eta : FVal) : Nat :=
  let rho : FVal := if n = 0 then fzero
    else if rule = 0 then sqrt64 (divIn f64 g2 (ofInt (n : Nat)))
    else if rule = 1 then sqrt64 (divIn f64 (ofInt 1) (ofInt (n : Nat)))
    else ofInt 1
  let omega : FVal := if x.wn = 0 then fzero else sqrt64 (divIn f64 (unitsTo64 x.wsq) (ofInt (x.wn : Nat)))
  if isZero rho || !isFin rho || isZero omega then 0
  else
    let enough (k : Nat) : Bool := !flt (scale2 (fmulExact eta rho) (k : Nat)) (scale2 omega (-8))
    match findFirst enough (List.range (kmax + 1)) with
    | some k => k
    | none => kmax

/-- The direction d of R276. -/
def direction (rule : Nat) (g gscale g2 : FVal) : FVal :=
  let pr := fmulExact g gscale
  if rule = 0 then rne f32 (ofF pr)
  else if rule = 1 then (let v := sqrt64 g2; if isZero v then fzero else rne f32 (xdiv pr v))
  else if flt fzero pr then ofInt 1 else if flt pr fzero then .fin true 1 0 else fzero

/-- x of R276 for one element. -/
def updateValue (p : UpdP) (eta g2 g w : FVal) : FVal :=
  let d := direction p.rule g p.gscale g2
  let delta := rne f32 (ofF (fneg (fmulExact eta (faddExact d (fmulExact p.decay w)))))
  rne f32 (xadd false w delta)

/-- What an UPDATE writes for one element: master bits, silt, whether non-finite, whether poisoned. -/
structure UpdElem where
  bits : Nat
  silt : Int
  nonfinite : Bool
  poisoned : Bool
  deriving DecidableEq, Repr

/-- One element of an UPDATE. -/
def updElem (s : State) (p : UpdP) (scaling : Bool) (eta g2 : FVal) (com csilt : TDesc) (i : Nat) : UpdElem :=
  let (gv, gp) := if i < p.grad.count then p.grad.linVal s i else (fzero, false)
  let g := if p.grad.fmt = 0x03 then rne f32 (ofF gv) else gv
  let (w, wp) := com.linVal s i
  let useSilt : Bool := !scaling && !csilt.isNull
  let (tv, tp) := if useSilt then csilt.linVal s i else (fzero, false)
  let x := updateValue p eta g2 g (siltValue w (intOf tv))
  let pz := gp || wp || tp
  if com.fmt = 0x02 then { bits := encodeElem 0x02 x, silt := 0, nonfinite := !isFin x, poisoned := pz }
  else
    let (b, t) := if scaling then (encodeElem 0x00 (rne (fmtOf 0x00) (ofF x)), 0) else siltWrite x
    { bits := b, silt := t, nonfinite := !isFin (decodeElem 0x00 b), poisoned := pz }

/-- Write a list of elements by linear index, row by row. -/
def TDesc.writeLinear (t : TDesc) (s : State) (es : List (Nat × Bool)) : State :=
  (List.range t.rows).foldl (fun st r =>
    let row := (es.drop (r * t.d0)).take t.d0
    t.writeMarked st r 0 (row.map (·.1)) (row.map (·.2)) []) s

/-- The bytes of elements packed densely (R291). -/
def packElems (fmt : Nat) (bits : List Nat) : List Byte :=
  if fmtBits fmt = 4 then (List.range (cdiv bits.length 2)).map (fun k => BitVec.ofNat 8 (lget 0 bits (2 * k) % 16 + 16 * (lget 0 bits (2 * k + 1) % 16)))
  else bits.flatMap (fun b => leBytes (fmtBits fmt / 8) b)

/-- The XOR of the block fingerprints of a byte string (R334), from block j on; `n` bounds the blocks. -/
def mixBlocks (h row : Nat) : Nat → Nat → List Byte → W64
  | 0, _, _ => 0
  | n + 1, j, bs =>
    if bs.isEmpty then 0
    else
      let c := crc32c (padTo 4096 bs)
      let (w0, w1, _, _) := philox c (BitVec.ofNat 32 h) (BitVec.ofNat 32 j) (BitVec.ofNat 32 (j / 2 ^ 32)) 0x5A44F1F1 (BitVec.ofNat 32 row)
      (w0.setWidth 64 + (w1.setWidth 64 <<< 32)) ^^^ mixBlocks h row n (j + 1) (bs.drop 4096)

/-- The tensor fingerprint of a master's bytes (R334). -/
def fingerprint (h row : Nat) (bs : List Byte) : W64 := mixBlocks h row (cdiv bs.length 4096) 0 bs

/-- A master copy as bytes: elements, then silt (R334). -/
def TDesc.masterBytes (t : TDesc) (s : State) : List Byte :=
  let si := t.masterSilt s
  let at1 (x : TDesc) (i : Nat) : Nat := x.bits s (i % x.d0) (i / x.d0)
  packElems t.fmt ((List.range t.count).map (at1 t)) ++ (if si.isNull then [] else packElems 0x0C ((List.range t.count).map (at1 si)))

/-- The writing rules of an UPDATE that is not held (R276): state, contributions, poisoned. -/
def State.updWrite (s : State) (e : WakeEntry) (p : UpdP) (row : Nat) (x : NormRow) (g2 : FVal) (n : Nat) : State × List RowEffect × Bool :=
  let ep := e.epoch row
  let com := p.pair.committed ep
  let pen := p.pair.pending ep
  let scaling := p.lrAlways || (decide (com.fmt = 0x00) && decide (com.silt = 0))
  let k := if scaling then lrPower x p.rule s.train.kmax g2 n p.lr else 0
  let eta := scale2 p.lr (k : Nat)
  let es := (List.range com.count).map (updElem s p scaling eta g2 com (com.masterSilt s))
  let psilt := pen.masterSilt s
  let s1 := pen.writeLinear s (es.map (fun y => (y.bits, y.poisoned)))
  let s2 := if psilt.isNull then s1 else psilt.writeLinear s1 (es.map (fun y => (wrap 8 y.silt, y.poisoned)))
  let bytes := packElems pen.fmt (es.map (·.bits)) ++ (if psilt.isNull then [] else packElems 0x0C (es.map (fun y => wrap 8 y.silt)))
  let s3 := ((s2.mirrorTensor pen).mirrorTensor psilt).modUpd (e.cmd.queue / 64) (fun u => { u with elements := u.elements + es.length })
  (s3, [.lrK row k, .fingerprint row p.pair.h0 (fingerprint p.pair.h0 row bytes) pen] ++ (if es.any (·.nonfinite) then [.nonfinite row] else []),
   es.any (·.poisoned))

/-- UPDATE (R275, R276): waits for its engine; it holds by what its row was when it was reached; what it adds to its row comes about at its completion. (DEDUCED: notes/assumptions/33) -/
def execUpdate (q seq : Nat) (s : State) : Host.Outcome State Fault Refusal :=
  match s.ready q seq 0x6000 with
  | none => .next s
  | some e =>
    if !s.engineFree e then .next s
    else
      let p := (updParams e.cmd).1
      let row := p.pair.row.getD 0
      let s0 := s.takeEngine e row p.prepass
      if !p.pair.ok || p.gradLost then
        .next (s0.ran q seq 0x02 [] (match p.pair.row with | some r => [.held r 5] | none => []))
      else
        let x := s.row row
        let pre := p.grad.sumSquares s
        let pz0 := p.prepass && (List.range p.grad.count).any (fun i => (p.grad.linVal s i).2)
        let (sq, n) := if p.prepass then (pre.2, p.grad.count) else (unitsTo64 e.guard.tapSq, e.guard.tapN)
        let eff0 : List RowEffect := if p.prepass then [.sumSq row 1 pre.1 p.grad.count] else []
        let g2 := guardNorm sq p.gscale
        match holdReason e.guard g2 p.gmax with
        | some r => .next (s0.ran q seq 0x02 [] (eff0 ++ [.held row r]))
        | none =>
          let pen := p.pair.pending (e.epoch row)
          let (s1, eff, pz) := if p.rule = 3 then
              ((s0.mirrorTensor pen).mirrorTensor (pen.masterSilt s), [RowEffect.fingerprint row p.pair.h0 (fingerprint p.pair.h0 row (pen.masterBytes s)) pen], false)
            else s0.updWrite e p row x g2 n
          let bad := pz || pz0
          let last : RowEffect := if bad then .held row 4 else .updated row
          .next ((s1.bookTraffic e.cmd).ran q seq (if bad then 0x10 else 0) [] (eff0 ++ eff ++ [last]))

/-! ### DERIVE (R288, R289) -/

/-- Clamps of DERIVE (R294). -/
def deriveClamps (c : Cmd) : Nat :=
  let pair := c.pair 0
  let work := lget TDesc.null c.extras 2
  b2n (!pair.ok) + b2n (pair.ok && decide (work.count ≠ pair.m0.count))

/-- Convert one block of WORK and write it (R288): linear elements 32 × j to the end of the block or of the shorter extent. The estimate is
WORK's N entry, also under its FLAGS bit 2. (DESIGN CHOICE: notes/assumptions/83) -/
def State.deriveBlock (s0 s : State) (e : WakeEntry) (com work : TDesc) (n j : Nat) : State × NarrowOut :=
  let cx := { e.narrowCtx s0 work with est := e.est work.layer false }
  let cut (p : Nat × Nat) : Stretch :=
    let es := (rangeFrom p.1 p.2).map (com.linVal s0)
    { row := p.1 / work.d0, i0 := p.1 % work.d0, vals := es.map (·.1), poisoned := es.map (·.2) }
  let us := (rowCuts work.d0 32 (32 * j) (min 32 (n - 32 * j))).map cut
  let o := narrowUnit work cx work.mode us
  (us.foldl (fun x u => x.copyBitmap work u) (s.writeUnit work o false []), o)

/-- DERIVE (R288, R289): `misses` names the blocks whose check finds a mismatch, in order; a block named twice fails its second check. (DEDUCED: notes/assumptions/34) -/
def execDerive (q seq : Nat) (misses : List Nat) (s : State) : Host.Outcome State Fault Refusal :=
  match s.ready q seq 0x6002 with
  | none => .next s
  | some e =>
    if !s.engineFree e then .next s
    else
      let pair := e.cmd.pair 0
      let work := lget TDesc.null e.cmd.extras 2
      let row := pair.row.getD 0
      let s0 := s.takeEngine e row false
      if !pair.ok then .next (s0.ran q seq 0 [] [])
      else
        let com := pair.committed (e.epoch row)
        let n := min com.count work.count
        let nb := cdiv n 32
        let checked := if s.train.checkEn then (List.range nb).filter (fun j => (j + e.step.toNat) % 64 = 0) else []
        let seen := misses.filter (fun j => checked.contains j)
        let again := seen.filter (fun j => decide (2 ≤ seen.count j))
        -- the command ends at the first block whose second check fails
        let last := match findFirst (fun j => again.contains j) checked with
          | some j => j + 1
          | none => nb
        let one (a : State × Bool × List RowEffect) (j : Nat) : State × Bool × List RowEffect :=
          let (st, o) := s.deriveBlock a.1 e com work n j
          (st, a.2.1 || o.saturated,
           a.2.2 ++ (if o.nonfinite then [.nonfinite work.layer] else []) ++
             (match o.observed with | some b => [.observe work.layer false b] | none => []))
        let (s1, sat, eff) := (List.range last).foldl one (s0, false, [])
        let done := min n (32 * last)
        let sq := (List.range done).foldl (fun a i => match a, squareUnits (com.linVal s i).1 with
          | some x, some y => some (x + y)
          | _, _ => none) (some 0)
        let pz := (List.range done).any (fun i => (com.linVal s i).2)
        let inRange := seen.filter (fun j => decide (j < last))
        let nChecked := (checked.filter (fun j => decide (j < last))).length + (inRange.eraseDups).length
        let s2 := s1.modUpd (q / 64) (fun u => { u with elements := u.elements + done, deriveChecked := u.deriveChecked + nChecked,
                                                        deriveMismatch := u.deriveMismatch + inRange.length })
        let s3 := inRange.foldl (fun st j => st.raise 0x09 (if again.contains j then 8 else 0) 7 (q / 64) (some (q, seq)) (work.addr (32 * j % work.d0) (32 * j / work.d0)) j
          (if again.contains j then 4 else 0)) s2
        let s4 := (work.pinLines s3).bookTraffic e.cmd
        let code := if !again.isEmpty then 0x11 else if pz then 0x10 else if sat then 0x03 else 0
        .next (s4.ran q seq code [] (eff ++ [.sumSq row 2 sq done]))

/-! ### EXPORT and SNAPSHOT (R290 to R292) -/

/-- Clamps of EXPORT and SNAPSHOT (R294). -/
def exportClamps (c : Cmd) : Nat :=
  if c.opcode = 0x6004 then b2n (decide (0x0B < fieldAt c.params 0x12 1)) + b2n (!(c.pair 0x14).ok)
  else
    let k := fieldAt c.params 0x12 1
    b2n (decide (2 < k)) + b2n ((decide (k = 0) || decide (2 < k)) && !(c.pair 0x14).ok)

/-- Element and scale bytes of a tensor as stored (R291). -/
def TDesc.storedBytes (t : TDesc) (s : State) : List Byte :=
  let at1 (i : Nat) : Nat := t.bits s (i % t.d0) (i / t.d0)
  packElems t.fmt ((List.range t.count).map at1) ++
    (if fmtMx t.fmt then (List.range t.rows).flatMap (fun r => (List.range (cdiv t.d0 32)).map (fun j => s.peek (t.scaleAddr (32 * j) r))) else [])

/-- Element and scale bytes of a master converted to TARGET (R292), row by row in blocks of 32. -/
def TDesc.snapshotBytes (t : TDesc) (s : State) (target : Nat) : List Byte :=
  let vals (r : Nat) : List FVal := (List.range t.d0).map (fun i => t.val s i r)
  if fmtMx target then
    let blocks := (List.range t.rows).flatMap (fun r => pieces 32 (cdiv t.d0 32) (vals r))
    let out := blocks.map (fun b => narrowBlock target 0 false (scaleExp target (max s.train.headroom 1) .zero (blockAmax b)) b (b.map (fun _ => 0)))
    packElems target (out.flatMap (·.2)) ++ out.map (fun x => BitVec.ofNat 8 x.1)
  else packElems target ((List.range t.rows).flatMap (fun r => (vals r).map (fun v => (convert target 0 0 false v).1)))

/-- The 128-byte header of R291 followed by the data. -/
def exportRecord (p : List Byte) (t : TDesc) (fmt fl : Nat) (step : W64) (data silt : List Byte) : List Byte :=
  let g := (List.range 4).map (fun k => fieldAt p (0x30 + 4 * k) 4)
  let whole := g.all (· = 0)
  let dims := (List.range 4).map (fun k => if t.isNull && decide (k = 0) then 0 else t.d k)
  let four (l : List Nat) : List Byte := l.flatMap (leBytes 4)
  leBytes 2 1 ++ leBytes 1 fmt ++ leBytes 1 t.rank ++ leBytes 2 (fieldAt p 0x10 2) ++ leBytes 2 fl ++ leBytes 8 (fieldAt p 8 8) ++
    leBytes 8 step.toNat ++ four dims ++ four (if whole then dims else g) ++
    four (if whole then [0, 0, 0, 0] else (List.range 4).map (fun k => fieldAt p (0x20 + 4 * k) 4)) ++ leBytes 8 data.length ++ leBytes 8 silt.length ++
    leBytes 4 (crc32c (data ++ silt)).toNat ++ leBytes 2 t.layer ++ List.replicate 34 0 ++ data ++ silt

/-- Write a record at DEST and end the command (R59, R290). (DEDUCED: notes/assumptions/34) -/
def State.putRecord (s : State) (e : WakeEntry) (bytes : List Byte) (pz : Bool) : State :=
  let dest := fieldAt e.cmd.params 0 8
  let n := s.cutLen dest bytes.length
  let s1 := (s.store dest bytes pz false).modUpd (e.cmd.queue / 64) (fun u => { u with exportBytes := u.exportBytes + n })
  (s1.bookTraffic e.cmd).ran e.cmd.queue e.cmd.seq (if pz then 0x10 else 0) [] []

/-- Does reading a tensor whole touch poison. -/
def TDesc.anyPoisoned (t : TDesc) (s : State) : Bool := (List.range t.count).any (fun i => (t.linVal s i).2)

/-- RFLAGS bit 2 of R291. -/
def lrFlag (s : State) (row : Nat) : Nat := if (s.row row).lrK = 0 then 0 else 4

/-- EXPORT (R290, R291). (DEDUCED: notes/assumptions/34) -/
def execExportShard (q seq : Nat) (s : State) : Host.Outcome State Fault Refusal :=
  match s.ready q seq 0x6003 with
  | none => .next s
  | some e =>
    if !s.engineFree e then .next s
    else
      let p := e.cmd.params
      let k := fieldAt p 0x12 1
      let pair := e.cmd.pair 0x14
      if k = 2 then
        .next ((s.takeEngine e 0 false).putRecord e ((List.range 4096).flatMap (fun r => (s.row r).bytes)) false)
      else if k = 1 then
        (let t := lget TDesc.null e.cmd.tensors 0
         .next ((s.takeEngine e t.layer false).putRecord e (exportRecord p t t.fmt (lrFlag s t.layer) e.step (t.storedBytes s) []) (t.anyPoisoned s)))
      else
        let row := pair.row.getD 0
        let s0 := s.takeEngine e row false
        if !pair.ok then .next (s0.ran q seq 0 [] [])
        else
          let t := pair.committed (e.epoch row)
          let si := t.masterSilt s
          let silt := si.storedBytes s
          .next (s0.putRecord e (exportRecord p t t.fmt (b2n (!si.isNull) + lrFlag s row) e.step (t.storedBytes s) silt) (t.anyPoisoned s || si.anyPoisoned s))

/-- SNAPSHOT (R292). -/
def execSnapshot (q seq : Nat) (s : State) : Host.Outcome State Fault Refusal :=
  match s.ready q seq 0x6004 with
  | none => .next s
  | some e =>
    if !s.engineFree e then .next s
    else
      let p := e.cmd.params
      let pair := e.cmd.pair 0x14
      let row := pair.row.getD 0
      let s0 := s.takeEngine e row false
      if !pair.ok then .next (s0.ran q seq 0 [] [])
      else
        let t := pair.committed (e.epoch row)
        let f := if fieldAt p 0x12 1 ≤ 0x0B then fieldAt p 0x12 1 else 0
        .next (s0.putRecord e (exportRecord p t f (2 + lrFlag s row) e.step (t.snapshotBytes s f) []) (t.anyPoisoned s))

end Sys2Proof.Machine
end

