-- ==== Sys2Proof/Machine/Coll.lean ====
section
/-! DEFINITION. Collectives (R317 to R333): group descriptors, windows, the member set, the ring and halving orders, stragglers,
the vote and the report; and the loss of the ford partner, which ends collectives (R346). -/

namespace Sys2Proof.Machine

open Sys2Proof

/-! ### What a collective command says -/

/-- A QPN that stands for a rank that never arrives (R333). -/
def noQpn : Nat := 0xFFFFFFFF

/-- One queue pair. -/
def State.qp (s : State) (qpn : Nat) : Qp := tget .zero s.est.qps qpn

/-- Change a queue pair. -/
def State.modQp (s : State) (qpn : Nat) (f : Qp → Qp) : State := { s with est := { s.est with qps := tmod .zero s.est.qps qpn f } }

/-- Change the estuary's counters. -/
def State.modEst (s : State) (f : EstCtr → EstCtr) : State := { s with est := { s.est with ctr := f s.est.ctr } }

/-- Is a QPN a connected peer QP. -/
def State.peerQp (s : State) (qpn : Nat) : Bool := decide ((s.qp qpn).phase = 2) && (s.qp qpn).peer

/-- Packets of a message at a path MTU. -/
def packets (mtu n : Nat) : Nat := max 1 (cdiv n (max 1 mtu))

/-- Count `n` packets sent; their length on the wire is not in the manual. -/
def State.countTx (s : State) (n : Nat) : State :=
  let (b, s1) := s.fresh
  s1.modEst (fun x => { x with txPkts := x.txPkts + n, txBytes := x.txBytes + b })

/-- Issue a request of the device's own on a peer QP (R315): it stays until acknowledged. `n` is the length that fixes its packets. -/
def State.qpRequest (s : State) (qpn n : Nat) (isRead : Bool) (data : List Byte) (row addr : Nat) : State :=
  let x := s.qp qpn
  let k := packets x.mtu n
  (s.modQp qpn (fun y => { y with nextPsn := (y.nextPsn + k) % 2 ^ 24,
                                  sent := y.sent ++ [{ psn := y.nextPsn, pkts := if isRead then 1 else k, isRead := isRead, retries := 0, data := data, row := row, addr := addr }] })).countTx
    (if isRead then 1 else k)

/-- One rank entry of a group descriptor (R317), and whether its QPN is clamped (R333). -/
def State.groupEntry (s : State) (a me r : Nat) : (Nat × Bool) × Nat :=
  let qpn := s.peekWord (a + 0x40 + 16 * r) 4
  let ford := bitOf (s.peek (a + 0x44 + 16 * r)).toNat 0
  if ford || decide (r = me) || s.peerQp qpn then ((qpn, ford), 0) else ((noQpn, false), 1)

/-- RANKS of a group descriptor after its clamp (R333). -/
def State.groupRanks (s : State) (a : Nat) : Nat := let n := s.peekWord (a + 8) 2; if n = 0 ∨ 256 < n then 256 else n

/-- The bytes of a group descriptor (R317). -/
def State.groupBytes (s : State) (a : Nat) : Nat := 0x40 + 16 * s.groupRanks a

/-- The group descriptor at an address, with its clamps (R317, R333); none outside the data windows. (DEDUCED: notes/assumptions/38) -/
def State.readGroup (s : State) (a : Nat) : Option GroupDesc × Nat :=
  if !s.inWindow a then (none, 1)
  else
    let n0 := s.peekWord (a + 8) 2
    let n := s.groupRanks a
    let me0 := s.peekWord (a + 0x0A) 2
    let me := min me0 (n - 1)
    let pol := (s.peek (a + 0x0C)).toNat
    let es := (List.range n).map (s.groupEntry a me)
    (some { gid := s.peekWord a 8, myRank := me, policy := if 2 < pol then 0 else pol, lateLimitUs := s.peekWord (a + 0x10) 4,
            lostLimitMs := s.peekWord (a + 0x14) 4, entries := es.map (·.1) },
     b2n (decide (n ≠ n0)) + b2n (decide (me ≠ me0)) + b2n (decide (2 < pol)) + (es.map (·.2)).sum)

/-- Formats a collective takes (R333). -/
def collFmt (f : Nat) : Bool := decide (f = 0x00) || decide (f = 0x02) || decide (f = 0x0B)

/-- A tensor as a collective sees it. -/
def collTensor (t : TDesc) : TDesc := if !t.isNull && collFmt t.fmt then t else .null

/-- The fields of a collective command after their clamps (R320, R333). `carry` is the carry tensor, null when none. -/
structure CollP where
  group : GroupDesc
  window : Nat
  op : Nat
  algo : Nat
  vote : Bool
  root : Nat
  policy : Nat
  input : TDesc
  output : TDesc
  carry : TDesc

/-- The fields of a collective and how many were clamped, the group descriptor's own clamps aside. -/
def collParams (c : Cmd) : CollP × Nat :=
  let g := c.group.getD { gid := 0, myRank := 0, policy := 0, lateLimitUs := 0, lostLimitMs := 0, entries := [(0, false)] }
  let op := fieldAt c.params 0x10 1
  let algo := fieldAt c.params 0x11 1
  let root := fieldAt c.params 0x14 2
  let t0 := lget TDesc.null c.tensors 0
  let t1 := lget TDesc.null c.tensors 1
  let ca := lget TDesc.null c.extras 0
  let carryOk := !ca.isNull && decide (ca.fmt = 0x02)
  let noCarry := decide (g.policy = 2) && !carryOk
  ({ group := g, window := fieldAt c.params 8 8, op := if 2 < op then 0 else op, algo := if 1 < algo then 0 else algo,
     vote := bitOf (fieldAt c.params 0x12 1) 0, root := if root < g.entries.length then root else 0,
     policy := if noCarry then 1 else g.policy, input := collTensor t0, output := collTensor t1, carry := if carryOk then ca else .null },
   b2n (decide (2 < op)) + b2n (decide (1 < algo)) + b2n (decide (g.entries.length ≤ root)) + b2n noCarry +
     b2n (!t0.isNull && !collFmt t0.fmt) + b2n (!t1.isNull && !collFmt t1.fmt))

/-- Ranks of the group. -/
def CollP.n (p : CollP) : Nat := p.group.entries.length

/-- Is rank r reached over the ford link. -/
def CollP.ford (p : CollP) (r : Nat) : Bool := (lget (0, false) p.group.entries r).2

/-- May S be fixed without late ranks (R322): an ALLREDUCE without VOTE under DROP or CARRY. -/
def CollP.mayDrop (p : CollP) (opcode : Nat) : Bool := decide (opcode = 0x5000) && !p.vote && decide (p.policy ≠ 0)

/-- Are the words integers (R324). -/
def CollP.int (p : CollP) : Bool := if p.input.isNull then decide (p.output.fmt = 0x0B) && !p.output.isNull else decide (p.input.fmt = 0x0B)

/-! ### Arithmetic (R324) -/

/-- A 32-bit sum that saturates. -/
def satAdd (a b : W32) : W32 := BitVec.ofInt 32 (max (-2147483648) (min 2147483647 (a.toInt + b.toInt)))

/-- a ⊕ b on wire words: RNE binary32 addition, or the MAX and MIN of R176; saturating sums of INT32. -/
def CollP.add (p : CollP) (a b : W32) : W32 :=
  if p.int then (match p.op with
    | 0 => satAdd a b
    | 1 => if a.toInt < b.toInt then b else a
    | _ => if b.toInt < a.toInt then b else a)
  else to32 (match p.op with
    | 0 => addIn f32 (of32 a) (of32 b)
    | 1 => fmax (of32 a) (of32 b)
    | _ => fmin (of32 a) (of32 b))

/-- Elements combined pairwise. -/
def CollP.addAll (p : CollP) (a b : List W32) : List W32 := (a.zip b).map (fun x => p.add x.1 x.2)

/-- The first element of chunk j of k (R324). -/
def chunkAt (j e k : Nat) : Nat := j * e / k

/-- Words as wire bytes. -/
def wordBytes (ws : List W32) : List Byte := ws.flatMap (fun w => leBytes 4 w.toNat)

/-- Wire bytes as words. -/
def bytesWords (bs : List Byte) : List W32 := (List.range (bs.length / 4)).map (fun i => BitVec.ofNat 32 (fieldAt bs (4 * i) 4))

/-- The range that member index i holds after h halvings of E elements (R325): first element, count. -/
def halfRange (i e : Nat) : Nat → Nat × Nat
  | 0 => (0, e)
  | h + 1 =>
    let (a, n) := halfRange i e h
    if bitOf i h then (a + n / 2, n - n / 2) else (a, n / 2)

/-! ### Open collectives and messages -/

/-- Total throttled ns (R362). -/
def SpwSt.throttled (x : SpwSt) : Nat := ((x.throttleNs.filter (fun c => decide (c.1 ≠ 0))).map (·.2)).sum

/-- Throttled ns at mark w. -/
def SpwSt.throttledAt (x : SpwSt) (w : Nat) : Nat := ((x.throttleMarks.filter (fun m => decide (m.1 ≤ w))).getLast?.map (·.2)).getD 0

/-- One open collective. -/
def State.coll? (s : State) (gid cs : Nat) : Option CollSt := findFirst (fun c => decide (c.gid = gid) && decide (c.collSeq = cs)) s.coll.openColls

/-- Change an open collective. -/
def State.modColl (s : State) (gid cs : Nat) (f : CollSt → CollSt) : State :=
  { s with coll := { s.coll with openColls := s.coll.openColls.map (fun c => if c.gid = gid ∧ c.collSeq = cs then f c else c) } }

/-- Forget a collective. -/
def State.dropColl (s : State) (gid cs : Nat) : State :=
  { s with coll := { s.coll with openColls := s.coll.openColls.filter (fun c => !(decide (c.gid = gid) && decide (c.collSeq = cs))) } }

/-- Messages still kept for a collective that is complete are strays (R321). -/
def State.dropKept (s : State) (gid cs : Nat) : State :=
  let mine (b : Nat × Nat × Instr) : Bool := decide (b.1 = gid) && decide (b.2.1 = cs)
  let n := (s.coll.buffered.filter mine).length
  { s with coll := { s.coll with buffered := s.coll.buffered.filter (fun b => !mine b) }, est := { s.est with ctr := { s.est.ctr with collStray := s.est.ctr.collStray + n } } }

/-- The stamp of R79 with the throttle reason (R361), as an ARRIVE or a header carries it. -/
def State.collInfo (s : State) (rank w vote : Nat) : RankInfo :=
  { rank := rank, arrived := true, tideCount := s.tide.count, phaseNs := s.tide.phaseNs, throttle := s.spw.reason,
    throttleUs := min 0xFFFFFFFF ((s.spw.throttled - s.spw.throttledAt w) / 1000), vote := vote, tideState := s.tide.st }

/-- The 64-byte header of a message (R323). -/
def collHeader (gid cs kind off len : Nat) (i : RankInfo) : List Byte :=
  leBytes 8 gid ++ leBytes 8 cs ++ leBytes 8 i.tideCount ++ leBytes 4 i.phaseNs ++ leBytes 2 i.rank ++ leBytes 1 kind ++ leBytes 1 i.throttle ++
    leBytes 4 i.throttleUs ++ leBytes 1 i.vote ++ leBytes 1 i.tideState ++ leBytes 2 0 ++ leBytes 8 off ++ leBytes 4 len ++ List.replicate 12 0

/-- This rank's own vote (R330, R338, R344): 0 pass, 1 fail. -/
def State.ownVote (s : State) : Nat :=
  b2n (s.train.rows.any (fun r => r.2.nonfinite) || !s.coll.repairs.isEmpty || (s.frd.partnerPresent && s.frd.mirrorBusy))

/-- The most data a message carries: a message has up to 2^31 bytes (R302), 64 of them its header. -/
def maxCollData : Nat := 2 ^ 31 - 64

/-- Send one message to a rank: over the ford link on channel 2, or as a SEND on its peer QP. -/
def State.collSend1 (s : State) (p : CollP) (c : CollSt) (dest kind off : Nat) (data : List Byte) : State :=
  let e := lget (noQpn, false) p.group.entries dest
  let msg := collHeader c.gid c.collSeq kind off data.length (s.collInfo p.group.myRank c.window c.vote) ++ data
  let s1 := s.modColl c.gid c.collSeq (fun x => if kind = 2 ∨ kind = 3 then { x with bytesSent := x.bytesSent + data.length } else x)
  if e.2 then s1.sendFlits 7 2 msg
  else if s1.peerQp e.1 then (s1.sendRoce (.collMsg dest kind c.gid c.collSeq msg)).qpRequest e.1 msg.length false msg 0 0
  else s1

/-- Send data from a byte offset of its chunk on, cut into messages (R302, R323). -/
def State.collSend (s : State) (p : CollP) (c : CollSt) (dest kind off : Nat) (data : List Byte) : State :=
  (List.range (max 1 (cdiv data.length maxCollData))).foldl (fun st k =>
    st.collSend1 p c dest kind (off + maxCollData * k) ((data.drop (maxCollData * k)).take maxCollData)) s

/-! ### Reading the input and writing the output -/

/-- One element of this rank's input as a wire word, +0 beyond TENSOR0 (R324). -/
def CollP.word (p : CollP) (s : State) (i : Nat) : W32 :=
  if i < p.input.count then
    (if p.int then BitVec.ofNat 32 (p.input.bits s (i % p.input.d0) (i / p.input.d0)) else to32 (p.input.linVal s i).1)
  else 0

/-- One element of this rank's input, +0 beyond TENSOR0, and whether its read is poisoned. -/
def CollP.inputAt (p : CollP) (s : State) (i : Nat) : FVal × Bool := if i < p.input.count then p.input.linVal s i else (fzero, false)

/-- One element of the carry tensor, +0 beyond it, and whether its read is poisoned. -/
def CollP.carryAt (p : CollP) (s : State) (i : Nat) : FVal × Bool := if i < p.carry.count then p.carry.linVal s i else (fzero, false)

/-- rne32(x[i] + carry[i]) as a wire word (R328); an INT32 word is that value rounded to an integer. (DESIGN CHOICE: notes/assumptions/85) -/
def CollP.carried (p : CollP) (s : State) (i : Nat) : W32 :=
  let v := addIn f32 (p.inputAt s i).1 (p.carryAt s i).1
  if p.int then BitVec.ofNat 32 (convert 0x0B 0 0 false v).1 else to32 v

/-- The rows of a result whose elements may overlap; its elements arrive in any order (R44). -/
def TDesc.rowsOut (t : TDesc) : List (Nat × Nat × Nat) := if t.tight then [] else (List.range t.rows).map (fun r => (r, 0, t.raw0))

/-- Write element bits from linear index `a`, dropping those beyond the tensor, and its bitmap (R100). (DEDUCED: notes/assumptions/10) -/
def TDesc.putLinear (t : TDesc) (s : State) (a : Nat) (bits : List Nat) (on : Bool) : State :=
  let n := min bits.length (t.count - a)
  (rowCuts t.d0 (n + 1) a n).foldl (fun st cut =>
    let st1 := t.writeRow st (cut.1 / t.d0) (cut.1 % t.d0) ((bits.drop (cut.1 - a)).take cut.2) on t.rowsOut
    (rangeFrom (cut.1 % t.d0 / 32) ((cut.1 % t.d0 + cut.2 - 1) / 32 - cut.1 % t.d0 / 32 + 1)).foldl (fun x j => t.zbRefresh x (cut.1 / t.d0) j) st1) s

/-- This rank's contribution to `n` elements from `a` on, read from memory now (R327): x, or in an ALLREDUCE with a carry tensor x plus the carry, which is
then +0 (R328). Whether the read was poisoned. -/
def State.contrib (s : State) (p : CollP) (c : CollSt) (a n : Nat) : State × List W32 × Bool :=
  let idx := rangeFrom a n
  if c.opcode = 0x5000 ∧ p.carry.isNull = false then
    let pz := idx.any (fun i => (p.inputAt s i).2 || (p.carryAt s i).2)
    ((p.carry.putLinear s a (List.replicate n 0) false).modColl c.gid c.collSeq (fun x => { x with ownPz := x.ownPz || pz }), idx.map (p.carried s), pz)
  else
    let pz := idx.any (fun i => (p.inputAt s i).2)
    (s.modColl c.gid c.collSeq (fun x => { x with ownPz := x.ownPz || pz }), idx.map (p.word s), pz)

/-- A non-finite value was written into the output (R147). -/
def State.collNonfinite (s : State) (p : CollP) (c : CollSt) (on : Bool) : State :=
  if on then s.modEntry c.queue c.seq (fun y => { y with effects := y.effects ++ [.nonfinite p.output.layer] }) else s

/-- Write output elements from linear index `a` (R324, R139), with the flag of R147; `pz` marks them poisoned. (DEDUCED: notes/assumptions/10) -/
def State.collWrite (s : State) (p : CollP) (c : CollSt) (a : Nat) (ws : List W32) (pz : Bool) : State :=
  let t := p.output
  let val (w : W32) : FVal := if p.int then ofInt w.toInt else of32 w
  let conv := (List.range (min ws.length (t.count - a))).map (fun i =>
    let v := val (lget 0 ws i)
    (v, convert t.fmt t.mode (srWord c.seed t.handle (a + i) c.step) false v))
  ((t.putLinear s a (conv.map (fun x => x.2.1)) pz).collNonfinite p c (conv.any (fun x => nonfiniteWrite x.1 x.2.2))).modColl c.gid c.collSeq
    (fun x => { x with written := x.written + ws.length })

/-- Write raw element bits of a RESULT (R329), with the flag of R147. -/
def State.collWriteRaw (s : State) (p : CollP) (c : CollSt) (a : Nat) (bits : List Nat) : State :=
  let t := p.output
  ((t.putLinear s a bits false).collNonfinite p c ((bits.take (t.count - a)).any (fun b => !isFin (decodeElem t.fmt b)))).modColl c.gid c.collSeq
    (fun x => { x with written := x.written + bits.length })

/-! ### The report and completion (R332) -/

/-- Lateness in ns of an ARRIVE (R323). -/
def lateNs (s : State) (w : Nat) (i : RankInfo) : Nat := ((((i.tideCount : Int) - w) * (s.tide.periodUs * 1000) + i.phaseNs)).toNat

/-- The report. (DEDUCED: notes/assumptions/39) -/
def State.collReport (s : State) (p : CollP) (c : CollSt) : List Byte :=
  let mem := c.members.getD []
  let bits := (mem.map (fun r => 2 ^ r)).sum
  let carried (r : Nat) : Bool := c.members.isSome && !mem.contains r
  let entry (r : Nat) : List Byte :=
    let i := findFirst (fun x => decide (x.rank = r) && x.arrived) c.table
    let late := match i with
      | some x => min 0xFFFFFFFF (lateNs s c.window x / 1000)
      | none => 0xFFFFFFFF
    let fl := b2n (mem.contains r) + 2 * b2n (carried r && decide (p.policy = 2)) + 4 * b2n (carried r && decide (p.policy ≠ 2)) + 8 * b2n (p.ford r)
    leBytes 4 late ++ leBytes 4 ((i.map (·.throttleUs)).getD 0) ++ leBytes 1 ((i.map (·.throttle)).getD 0) ++
      leBytes 1 ((i.map (·.tideState)).getD 0) ++ leBytes 1 fl ++ [0]
  let algo := if p.algo = 1 ∧ c.opcode = 0x5000 ∧ 2 ^ Nat.log2 mem.length = mem.length then 1 else 0
  leBytes 8 c.collSeq ++ leBytes 8 c.window ++ leBytes 32 bits ++ leBytes 2 p.n ++
    leBytes 1 (if c.excluded then (if p.policy = 2 then 1 else 2) else 0) ++ leBytes 1 c.vote ++ leBytes 1 algo ++ leBytes 3 0 ++
    leBytes 8 c.bytesSent ++ (List.range p.n).flatMap entry

/-- Record the vote result of a completing collective and mirror it (R330, R343). -/
def State.recordVote (s : State) (e : WakeEntry) (members : List Nat) (pass : Bool) : State :=
  let p := (collParams e.cmd).1
  let s1 := { s with train := { s.train with vote := some pass },
                     coll := { s.coll with lastVote := some { group := p.group, members := members, collSeq := e.collSeq, window := p.window } } }
  if s1.mirroring then s1.sendFlit 5 1 (leBytes 8 (b2n (!pass))) else s1

/-- The work of a collective ends here with a code and a vote result, which count when its command completes. -/
def State.collEnds (s : State) (p : CollP) (c : CollSt) (code : Nat) (pass : Bool) : State :=
  let s1 := s.ran c.queue c.seq code (s.collReport p c) []
  (if p.vote then s1.modEntry c.queue c.seq (fun (e : WakeEntry) => { e with voted := some (pass, c.members.getD []) }) else s1).dropKept c.gid c.collSeq

/-- A collective ends PEER_LOST here (R331). -/
def State.collLost (s : State) (p : CollP) (c : CollSt) : State :=
  (((s.collEnds p { c with vote := if p.vote then 1 else 2 } 0x20 false).modEst (fun x => { x with collPeerLost := x.collPeerLost + 1 }))).dropColl c.gid c.collSeq

/-- How many output elements this rank writes: none while only the sender knows. A rank left out is done with its RESULT. -/
def collTarget (p : CollP) (c : CollSt) : Option Nat :=
  let k := max 1 (c.members.getD []).length
  if c.excluded then c.total.map (fun _ => 0)
  else if c.opcode = 0x5001 then some (chunkAt (p.group.myRank + 1) c.elems k - chunkAt p.group.myRank c.elems k)
  else if c.opcode = 0x5002 then some (k * c.elems)
  else if c.opcode = 0x5003 then c.total
  else some c.elems

/-- Has this rank written its output and passed on all it must pass on. -/
def collDone (p : CollP) (c : CollSt) : Bool :=
  let k := max 1 (c.members.getD []).length
  let first := (p.group.myRank + k - 1) % k
  (collTarget p c).any (fun t => decide (t ≤ c.written)) &&
    (c.excluded || decide (c.opcode ≠ 0x5001) || decide (c.elems ≤ c.got + (chunkAt (first + 1) c.elems k - chunkAt first c.elems k)))

/-- The result bits of TENSOR1, for RESULT messages. -/
def State.collBits (s : State) (p : CollP) (e : Nat) : List Nat :=
  (List.range (min e p.output.count)).map (fun i => p.output.bits s (i % p.output.d0) (i / p.output.d0))

/-- Send the RESULT to an excluded rank (R329): the last message of it is not a full one. (DEDUCED: notes/assumptions/39) -/
def State.sendResult (s : State) (p : CollP) (c : CollSt) (r : Nat) : State :=
  let data := c.part.flatMap (fun w => leBytes (fmtBits p.output.fmt / 8) w.toNat)
  let s1 := s.collSend p c r 3 0 data
  if data.length ≠ 0 ∧ data.length % maxCollData = 0 then s1.collSend p c r 3 data.length [] else s1

/-- Complete a collective whose output is written (R329, R332); a coordinator stays to serve excluded ranks. (DEDUCED: notes/assumptions/39) -/
def State.collFinish (s : State) (p : CollP) (c : CollSt) : State :=
  if c.members.isNone || c.finished || !collDone p c then s
  else
    let mem := c.members.getD []
    let s1 := (s.collEnds p c (if c.ownPz then 0x10 else 0) (decide (c.vote = 0))).modEst (fun x => { x with collDone := x.collDone + 1 })
    if p.group.myRank = 0 && decide (mem.length < p.n) then
      let c1 := { c with finished := true, part := (s1.collBits p c.elems).map (fun b => BitVec.ofNat 32 b) }
      let s2 := s1.modColl c.gid c.collSeq (fun _ => c1)
      let s3 := ((c.infos.map (·.rank)).filter (fun r => !mem.contains r)).foldl (fun st r => st.sendResult p c1 r) s2
      if c.infos.length < p.n then s3 else s3.dropColl c.gid c.collSeq
    else s1.dropColl c.gid c.collSeq

/-! ### The ring (R324, R326) -/

/-- The member after index i. -/
def nextMember (mem : List Nat) (i : Nat) : Nat := lget 0 mem ((i + 1) % mem.length)

/-- This rank's index among the members. -/
def myIndex (p : CollP) (c : CollSt) : Nat := ((c.members.getD []).idxOf p.group.myRank)

/-- Send elements at an element offset of their chunk to the next member, unless there is no other. -/
def State.nextSend (s : State) (p : CollP) (c : CollSt) (o : Nat) (ws : List W32) : State :=
  let mem := c.members.getD []
  if mem.length < 2 then s else s.collSend p c (nextMember mem (myIndex p c)) 2 (4 * o) (wordBytes ws)

/-- Send elements round the ring, unless there are none. -/
def State.ringSend (s : State) (p : CollP) (c : CollSt) (o : Nat) (ws : List W32) : State := if ws.isEmpty then s else s.nextSend p c o ws

/-- Reduced elements of chunk j, from offset `o` of it: write them, and under ALLREDUCE send them round. -/
def State.ringReduced (s : State) (p : CollP) (c : CollSt) (j o : Nat) (ws : List W32) (pz : Bool) : State :=
  let k := (c.members.getD []).length
  if c.opcode = 0x5001 then s.collWrite p c o ws pz
  else (s.collWrite p c (chunkAt j c.elems k + o) ws pz).ringSend p c o ws

/-- Elements of a BROADCAST segment come by (R326): written and passed on up to the member before ROOT; the last of them say how many there are. (DEDUCED: notes/assumptions/38) -/
def State.broadcastData (s : State) (p : CollP) (c : CollSt) (j : Nat) (last : Bool) (o : Nat) (ws : List W32) : State :=
  let s1 := s.collWrite p c (262144 * j + o) ws false
  let s2 := if last then s1.modColl c.gid c.collSeq (fun x => { x with total := some (262144 * j + o + ws.length) }) else s1
  if (myIndex p c + 1) % (c.members.getD []).length = p.root then s2 else s2.nextSend p c o ws

/-- Elements from the member before: of a chunk being reduced, or going round (R324, R326, R327). -/
def State.ringData (s : State) (p : CollP) (c : CollSt) (j : Nat) (gather : Bool) (o : Nat) (ws : List W32) : State :=
  let k := (c.members.getD []).length
  let i := myIndex p c
  if c.opcode = 0x5003 then s.broadcastData p c j gather o ws
  else if gather then
    let s1 := s.collWrite p c ((if c.opcode = 0x5002 then j * c.elems else chunkAt j c.elems k) + o) ws false
    if (i + 1) % k = j then s1 else s1.ringSend p c o ws
  else
    let (s1, own, pz) := s.contrib p c (chunkAt j c.elems k + o) ws.length
    let sum := p.addAll ws own
    let s2 := s1.modColl c.gid c.collSeq (fun x => { x with got := x.got + ws.length })
    if i = j then s2.ringReduced p c j o sum pz else s2.ringSend p c o sum

/-- ROOT sends its TENSOR0 round in segments of 1 MiB (R326). -/
def State.broadcastStart (s : State) (p : CollP) (c : CollSt) : State :=
  let n := p.input.count
  let (s1, own, pz) := s.contrib p c 0 n
  let s2 := (s1.collWrite p c 0 own pz).modColl c.gid c.collSeq (fun x => { x with total := some n })
  (List.range (max 1 (cdiv n 262144))).foldl (fun st j => st.nextSend p c 0 ((own.drop (262144 * j)).take 262144)) s2

/-- The first sends of a member (R324, R326). -/
def State.ringStart (s : State) (p : CollP) (c : CollSt) : State :=
  let k := (c.members.getD []).length
  let i := myIndex p c
  if c.opcode = 0x5003 then (if i = p.root then s.broadcastStart p c else s)
  else if c.opcode = 0x5002 then
    (let (s1, own, pz) := s.contrib p c 0 c.elems
     (s1.collWrite p c (i * c.elems) own pz).ringSend p c 0 own)
  else
    let j := (i + k - 1) % k
    let (s1, ws, pz) := s.contrib p c (chunkAt j c.elems k) (chunkAt (j + 1) c.elems k - chunkAt j c.elems k)
    if k = 1 then s1.ringReduced p c 0 0 ws pz else s1.ringSend p c 0 ws

/-! ### Halving and doubling (R325) -/

/-- Does HALVING_DOUBLING run: an ALLREDUCE over a power of two of members, more than one. -/
def halving (p : CollP) (c : CollSt) : Bool :=
  let k := (c.members.getD []).length
  decide (c.opcode = 0x5000) && decide (p.algo = 1) && decide (2 ≤ k) && decide (2 ^ Nat.log2 k = k)

/-- Exchanges of one direction. -/
def halvings (c : CollSt) : Nat := Nat.log2 (c.members.getD []).length

/-- The partner index of exchange h: halving for h below log2 k, doubling back after. -/
def exchangeBit (c : CollSt) (h : Nat) : Nat := if h < halvings c then h else 2 * halvings c - 1 - h

/-- The partner index. -/
def partnerOf (i b : Nat) : Nat := if bitOf i b then i - 2 ^ b else i + 2 ^ b

/-- Elements exchange h brings. -/
def exchangeLen (p : CollP) (c : CollSt) (h : Nat) : Nat :=
  let i := myIndex p c
  let b := exchangeBit c h
  if h < halvings c then (halfRange i c.elems (h + 1)).2 else (halfRange (partnerOf i b) c.elems (b + 1)).2

/-- Begin the current exchange: send half of the range held, or all of it. The first half sent is read from memory, the half kept is read as its
partner's arrives (R327). Afterwards `part` is the kept half, or the joined range with the partner's half still to come. -/
def State.exchangeSend (s : State) (p : CollP) (c : CollSt) : State :=
  let i := myIndex p c
  let b := exchangeBit c c.hop
  let dest := lget 0 (c.members.getD []) (partnerOf i b)
  let put (x : List W32) (st : State) : State := st.modColl c.gid c.collSeq (fun y => { y with part := x })
  let send (ws : List W32) (st : State) : State := if ws.isEmpty then st else st.collSend p c dest 2 0 (wordBytes ws)
  if c.hop = 0 then
    let n := c.elems / 2
    let (s1, ws, _) := if bitOf i b then s.contrib p c 0 n else s.contrib p c n (c.elems - n)
    put (List.replicate (c.elems - ws.length) 0) (send ws s1)
  else if c.hop < halvings c then
    let n := c.part.length / 2
    if bitOf i b then put (c.part.drop n) (send (c.part.take n) s) else put (c.part.take n) (send (c.part.drop n) s)
  else
    let z := List.replicate (exchangeLen p c c.hop) (0 : W32)
    put (if bitOf i b then z ++ c.part else c.part ++ z) (send c.part s)

/-- Go on while the current exchange is complete; `n` bounds the exchanges left. -/
def exchangeNext (p : CollP) (gid cs : Nat) : Nat → State → State
  | 0, s => s
  | n + 1, s =>
    match s.coll? gid cs with
    | none => s
    | some c =>
      if c.hop < 2 * halvings c ∧ exchangeLen p c c.hop ≤ c.got then
        let h := c.hop + 1
        let s1 := s.modColl gid cs (fun x => { x with hop := h, got := 0 })
        let c1 := { c with hop := h, got := 0 }
        let s2 := if h = halvings c then s1.collWrite p c1 (halfRange (myIndex p c) c.elems h).1 c.part c.ownPz else s1
        let s3 := if h < 2 * halvings c then s2.exchangeSend p c1 else s2
        exchangeNext p gid cs n s3
      else s

/-- Data of exchange h (R325); false when that exchange has not begun. -/
def State.exchangeData (s : State) (p : CollP) (c : CollSt) (h o : Nat) (ws : List W32) : State × Bool :=
  if c.hop ≠ h then (s, decide (h < c.hop))
  else
    let i := myIndex p c
    let b := exchangeBit c h
    let upd (l : List W32) (a : Nat) (x : List W32) : List W32 := l.take a ++ x ++ l.drop (a + x.length)
    let s1 := if h < halvings c then
        let (s0, own, _) := if h = 0 then s.contrib p c ((halfRange i c.elems 1).1 + o) ws.length else (s, (c.part.drop o).take ws.length, false)
        let sum := if bitOf i b then p.addAll ws own else p.addAll own ws
        s0.modColl c.gid c.collSeq (fun x => { x with part := upd x.part o sum, got := x.got + ws.length })
      else
        let at0 := (if bitOf i b then 0 else c.part.length - exchangeLen p c h) + o
        let sb := (halfRange (partnerOf i b) c.elems (b + 1)).1
        (s.modColl c.gid c.collSeq (fun x => { x with part := upd x.part at0 ws, got := x.got + ws.length })).collWrite p c (sb + o) ws false
    (exchangeNext p c.gid c.collSeq (2 * halvings c) s1, true)

/-! ### START, exclusion, the member set (R322, R328) -/

/-- A member begins once it knows S, the vote, E and the table. (DEDUCED: notes/assumptions/38) -/
def State.collBegin (s : State) (p : CollP) (c0 : CollSt) (members : List Nat) (vote elems : Nat) (table : List RankInfo) : State :=
  let c := { c0 with members := some members, vote := vote, elems := elems, table := table }
  let s1 := s.modColl c.gid c.collSeq (fun x => { c with bytesSent := x.bytesSent })
  if halving p c then exchangeNext p c.gid c.collSeq (2 * halvings c) (s1.exchangeSend p c) else s1.ringStart p c

/-- A rank learns that it is left out (R328). -/
def State.collExcluded (s : State) (p : CollP) (c : CollSt) (members : List Nat) (vote elems : Nat) (table : List RankInfo) : State :=
  let s1 := s.modColl c.gid c.collSeq (fun x => { x with members := some members, vote := vote, elems := elems, table := table, excluded := true })
  if p.policy = 2 then
    let cs := (List.range p.carry.count).map (fun i =>
      ((to32 (addIn f32 (p.carryAt s i).1 (p.inputAt s i).1)).toNat, (p.inputAt s i).2 || (p.carryAt s i).2))
    (p.carry.writeLinear s1 cs).modEst (fun x => { x with collCarried := x.collCarried + 1 })
  else s1.modEst (fun x => { x with collDropped := x.collDropped + 1 })

/-- The payload of a START: S, E, the rank table. (DEDUCED: notes/assumptions/38) -/
def startPayload (c : CollSt) : List Byte :=
  leBytes 32 (((c.members.getD []).map (fun r => 2 ^ r)).sum) ++ leBytes 8 c.elems ++
    c.table.flatMap (fun i => leBytes 8 i.tideCount ++ leBytes 4 i.phaseNs ++ leBytes 2 i.rank ++ leBytes 1 i.throttle ++ leBytes 1 i.tideState ++
      leBytes 4 i.throttleUs)

/-- The coordinator fixes S: the ranks that have arrived (R322). -/
def State.fixSet (s : State) (p : CollP) (c : CollSt) : State :=
  let mem := (List.range p.n).filter (fun r => c.infos.any (fun i => decide (i.rank = r)))
  let vote := if p.vote then b2n (c.infos.any (fun i => decide (i.vote ≠ 0))) else 2
  let elems := p.input.count
  let c1 := { c with members := some mem, vote := vote, elems := elems, table := c.infos }
  let s1 := s.modEst (fun x => { x with collLate := x.collLate + (p.n - mem.length) })
  let s2 := s1.modColl c.gid c.collSeq (fun _ => c1)
  let s3 := (mem.filter (· ≠ 0)).foldl (fun st r => st.collSend p c1 r 1 0 (startPayload c1)) s2
  s3.collBegin p c1 mem vote elems c.infos

/-- Fix S when every rank has arrived. -/
def State.tryFix (s : State) (p : CollP) (gid cs : Nat) : State :=
  match s.coll? gid cs with
  | none => s
  | some c => if c.members.isNone && decide (c.infos.length = p.n) && decide (p.group.myRank = 0) then s.fixSet p c else s

/-- Does a rank never arrive: its QPN was no connected peer QP (R333). -/
def CollP.never (p : CollP) (r : Nat) : Bool := decide (r ≠ p.group.myRank) && decide (lget (noQpn, false) p.group.entries r = (noQpn, false))

/-- The coordinator records an ARRIVE (R322); after S is fixed it answers with the START that excludes the rank, and the RESULT once it
has it. -/
def State.recordArrive (s : State) (p : CollP) (c : CollSt) (i : RankInfo) : State :=
  if c.infos.any (fun x => decide (x.rank = i.rank)) || decide (p.n ≤ i.rank) || p.never i.rank then s
  else
    let c1 := { c with infos := c.infos ++ [i] }
    let s1 := s.modColl c.gid c.collSeq (fun x => { x with infos := c1.infos })
    if c.members.isSome then
      let s2 := s1.collSend p c1 i.rank 1 0 (startPayload c1)
      if c.finished then
        let s3 := s2.sendResult p c1 i.rank
        if c1.infos.length < p.n then s3 else s3.dropColl c.gid c.collSeq
      else s2
    else s1.tryFix p c.gid c.collSeq

/-- Has the collective lost a member: a ford partner lost, or a QP in the error state (R331). -/
def State.memberLost (s : State) (p : CollP) : Bool :=
  (List.range p.n).any (fun r => decide (r ≠ p.group.myRank) &&
    (if p.ford r then s.frd.partnerLost else decide ((s.qp (lget (noQpn, false) p.group.entries r).1).phase = 3)))

/-- The window opens here (R322): this rank arrives; a member lost already ends the collective (R331). -/
def State.openWindow (s : State) (p : CollP) (c : CollSt) : State :=
  if c.isOpen then s
  else
    let c1 := { c with isOpen := true }
    let s1 := s.modColl c.gid c.collSeq (fun _ => c1)
    let i := s1.collInfo p.group.myRank c.window (if p.vote then s1.ownVote else 2)
    if s1.memberLost p then s1.collLost p c1
    else if p.group.myRank = 0 then s1.recordArrive p c1 i
    else s1.collSend p { c1 with vote := i.vote } 0 0 0 []

/-! ### Messages (R300, R321) -/

/-- Deliver one message to an open collective; false when it must wait. -/
def State.collDeliver (s : State) (p : CollP) (c : CollSt) : Instr → State × Bool
  | .collArrive _ _ i => if p.group.myRank = 0 then (s.recordArrive p c i, true) else (s, true)
  | .collStart _ _ mem vote elems table =>
    if c.members.isSome || !c.isOpen then (s, c.members.isSome)
    else if mem.contains p.group.myRank then (s.collBegin p c mem vote elems table, true)
    else (s.collExcluded p c mem vote elems table, true)
  | .collData _ _ chunk gather off data =>
    if c.members.isNone then (s, false)
    else if c.excluded || c.finished then (s, true)
    else if halving p c then s.exchangeData p c chunk (off / 4) (bytesWords data)
    else (s.ringData p c chunk gather (off / 4) (bytesWords data), true)
  | .collResult _ _ off data =>
    if c.members.isNone then (s, false)
    else if !c.excluded then (s, true)
    else
      let w := max 1 (fmtBits p.output.fmt / 8)
      let s1 := s.collWriteRaw p c (off / w) ((List.range (data.length / w)).map (fun i => fieldAt data (w * i) w))
      (if data.length < maxCollData then s1.modColl c.gid c.collSeq (fun x => { x with total := some 0 }) else s1, true)
  | _ => (s, true)

/-- The first kept message of a collective that can be delivered now: the state after it, or none. -/
def State.collFirst (s : State) (p : CollP) (c : CollSt) : List (Nat × Nat × Instr) → Option State
  | [] => none
  | b :: t =>
    if b.1 = c.gid ∧ b.2.1 = c.collSeq then
      let (s1, ok) := s.collDeliver p c b.2.2
      if ok then some { s1 with coll := { s1.coll with buffered := s1.coll.buffered.erase b } } else s.collFirst p c t
    else s.collFirst p c t

/-- Deliver every kept message that can be delivered, and complete the collective when it is done; `n` bounds the messages. -/
def collPump (p : CollP) (gid cs : Nat) : Nat → State → State
  | 0, s => s
  | n + 1, s =>
    match s.coll? gid cs with
    | none => s
    | some c =>
      match s.collFirst p c s.coll.buffered with
      | some s1 => collPump p gid cs n s1
      | none => s.collFinish p c

/-- Run a step of a collective and then all that it makes possible. -/
def State.collRun (s : State) (gid cs : Nat) (f : CollP → CollSt → State → State) : State :=
  match s.coll? gid cs with
  | none => s
  | some c =>
    let p := (collParams c.cmd).1
    collPump p gid cs (s.coll.buffered.length + 1) (f p c s)

/-- Is a message for a collective this rank has not begun yet but will take (R321). -/
def State.collAwaited (s : State) (gid cs : Nat) : Bool :=
  let n := tget 0 s.coll.seqs gid
  (decide (n ≤ cs) && decide (cs < n + 4)) ||
    s.allEntries.any (fun e => collOp e.cmd.opcode && decide ((e.cmd.group.map (·.gid)) = some gid) && decide (e.collSeq = cs) && !e.started && !e.ended)

/-- Is a message one that a collective has a use for: after its end only the ARRIVE of a rank not seen yet (R321, R322). -/
def CollSt.wants (c : CollSt) : Instr → Bool
  | .collArrive _ _ i => !c.finished || !c.infos.any (fun x => decide (x.rank = i.rank))
  | _ => !c.finished

/-- May a message have come from the partner, over the ford link: a DATA message comes from any member. -/
def GroupDesc.mayFord (g : GroupDesc) : Instr → Bool
  | .collArrive _ _ i => (lget (0, false) g.entries i.rank).2
  | .collData _ _ _ _ _ _ => g.entries.any (·.2)
  | _ => (lget (0, false) g.entries 0).2

/-- Does a collective message reach this module: it is lost while the link it comes by is down (R300). (DEDUCED: notes/assumptions/38) -/
def State.collHeard (s : State) (gid : Nat) (m : Instr) : Bool :=
  let gs := ((s.coll.openColls.map (·.cmd.group)) ++ (s.allEntries.map (·.cmd.group))).filterMap id
  s.est.linkUp || (s.frd.linkUp && ((findFirst (fun g => decide (g.gid = gid)) gs).map (fun g => g.mayFord m)).getD true)

/-- Take a message: kept for its collective, which takes what it can; a stray is counted (R321). -/
def State.collMessage (s : State) (gid cs : Nat) (m : Instr) : State :=
  let keep (st : State) : State := { st with coll := { st.coll with buffered := st.coll.buffered ++ [(gid, cs, m)] } }
  let stray (st : State) : State := st.modEst (fun x => { x with collStray := x.collStray + 1 })
  if !s.collHeard gid m then s
  else match s.coll? gid cs with
    | some c => if c.wants m then (keep s).collRun gid cs (fun _ _ st => st) else stray s
    | none => if s.collAwaited gid cs then keep s else stray s

/-- ARRIVE (R322). -/
def execCollArrive (group collSeq : Nat) (info : RankInfo) (s : State) : Host.Outcome State Fault Refusal :=
  .next (s.collMessage group collSeq (.collArrive group collSeq info))

/-- START (R322, R328). -/
def execCollStart (group collSeq : Nat) (members : List Nat) (vote elems : Nat) (table : List RankInfo) (s : State) : Host.Outcome State Fault Refusal :=
  .next (s.collMessage group collSeq (.collStart group collSeq members vote elems table))

/-- DATA (R324, R327). -/
def execCollData (group collSeq chunk : Nat) (gather : Bool) (off : Nat) (data : List Byte) (s : State) : Host.Outcome State Fault Refusal :=
  .next (s.collMessage group collSeq (.collData group collSeq chunk gather off data))

/-- RESULT (R329). -/
def execCollResult (group collSeq off : Nat) (data : List Byte) (s : State) : Host.Outcome State Fault Refusal :=
  .next (s.collMessage group collSeq (.collResult group collSeq off data))

/-- STRAGGLER_DEADLINE (R322): at D the coordinator fixes S without the late ranks, if it has arrived itself. -/
def execStragglerDeadline (group collSeq : Nat) (s : State) : Host.Outcome State Fault Refusal :=
  .next (s.collRun group collSeq (fun p c st =>
    if p.group.myRank = 0 && p.mayDrop c.opcode && c.members.isNone && c.isOpen then st.fixSet p c else st))

/-- May some rank not have arrived, as far as this rank knows: the coordinator by the ARRIVEs, another by the S of its START (R331). -/
def CollSt.missing (c : CollSt) (p : CollP) : Bool :=
  match c.members with
  | none => true
  | some mem => if p.group.myRank = 0 then decide (c.infos.length < p.n) else decide (mem.length < p.n)

/-- PEER_LOST_DEADLINE (R331): some rank has not arrived by W + LOST_LIMIT_MS. (DEDUCED: notes/assumptions/39) -/
def execPeerLostDeadline (group collSeq : Nat) (s : State) : Host.Outcome State Fault Refusal :=
  .next (s.collRun group collSeq (fun p c st =>
    if !c.isOpen then st
    else if c.finished then st.dropColl c.gid c.collSeq
    else if c.missing p then st.collLost p c
    else st))

/-- End every collective that satisfies a test PEER_LOST: those that have arrived, or with `every` those whose window is to come as well. -/
def State.losePeers (s : State) (every : Bool) (lost : CollP → CollSt → Bool) : State :=
  s.coll.openColls.foldl (fun st c =>
    let p := (collParams c.cmd).1
    if (c.isOpen || every) && !c.finished && lost p c then st.collLost p c else st) s

/-- A QP in the error state ends the collectives it serves as a member's (R331). -/
def State.qpLost (s : State) (qpn : Nat) : State :=
  s.losePeers false (fun p c => (List.range p.n).any (fun r =>
    decide (lget (noQpn, false) p.group.entries r = (qpn, false)) && decide (r ≠ p.group.myRank) && ((c.members.map (fun m => m.contains r)).getD true)))

/-! ### The commands -/

/-- Has the mark come at which a window opens: it opens at step 4 of its mark (R77, R322). (DEDUCED: notes/assumptions/43) -/
def State.windowDue (s : State) (w : Nat) : Bool := decide (w < s.tide.count) || (decide (w = s.tide.count) && !s.tide.rest)

/-- Run a reached collective: it opens with the COLL_SEQ taken at reach, and arrives if its window is open (R321, R322); with a ford member lost it ends at
once (R346). -/
def State.startColl (s : State) (q seq opcode : Nat) : State :=
  match s.ready q seq opcode with
  | none => s
  | some e =>
    let p := (collParams e.cmd).1
    let c : CollSt := { gid := if e.cmd.group.isSome then p.group.gid else 2 ^ 64 + e.wakeSeq, collSeq := e.collSeq, queue := q, seq := seq, opcode := opcode, window := p.window, isOpen := false, infos := [],
                        members := none, vote := 2, elems := 0, table := [], excluded := false, cmd := e.cmd, seed := e.seed, step := e.step, ownPz := false, part := [],
                        hop := 0, got := 0, written := 0, bytesSent := 0, total := none, finished := false }
    let s1 := s.modEntry q seq (fun x => { x with started := true, phase := 1 })
    let s2 := { s1 with coll := { s1.coll with openColls := s1.coll.openColls ++ [c] } }
    s2.collRun c.gid c.collSeq (fun p1 c1 st =>
      if st.frd.partnerLost && (List.range p1.n).any p1.ford then st.collLost p1 c1
      else if st.windowDue p1.window then st.openWindow p1 c1
      else st)

/-- ALLREDUCE (R324). -/
def execAllreduce (q seq : Nat) (s : State) : Host.Outcome State Fault Refusal := .next (s.startColl q seq 0x5000)

/-- REDUCE_SCATTER (R326). -/
def execReduceScatter (q seq : Nat) (s : State) : Host.Outcome State Fault Refusal := .next (s.startColl q seq 0x5001)

/-- ALLGATHER (R326). -/
def execAllgather (q seq : Nat) (s : State) : Host.Outcome State Fault Refusal := .next (s.startColl q seq 0x5002)

/-- BROADCAST (R326). -/
def execBroadcast (q seq : Nat) (s : State) : Host.Outcome State Fault Refusal := .next (s.startColl q seq 0x5003)

/-- Windows that open at a mark (R322), in the order the collectives were reached. -/
def State.openWindows (s : State) : State :=
  s.coll.openColls.foldl (fun st c =>
    st.collRun c.gid c.collSeq (fun p1 c1 st1 => if st1.windowDue p1.window && !c1.isOpen then st1.openWindow p1 c1 else st1)) s

/-! ### Loss of the ford partner (R346, R347) -/

/-- The partner is lost: mirroring stops, ford collectives end PEER_LOST, a record, a count and the failover record. -/
def State.partnerLoss (s : State) (cause : Nat) : State :=
  if !s.frd.partnerPresent then s
  else
    let pend := s.frd.pendingFlip
    let s1 := s.modFrd (fun x => { x with partnerPresent := false, partnerReady := false, partnerLost := true, failovers := x.failovers + 1, txWait := [], kept := [] })
    let s2 := s1.losePeers true (fun p _ => (List.range p.n).any p.ford)
    let s3 := s2.raise 0x0B 0 9 0 none 0 cause 0
    s3.store (s3.frd.mirrorBase + 0x6000000000) (s3.failoverRecord cause pend) false false

/-- GOODBYE (R342, R346). -/
def execFordGoodbye (hdr : FlitHdr) (s : State) : Host.Outcome State Fault Refusal := .next (s.partnerIn hdr 8 [] (fun st => st.partnerLoss 1))

/-- FORD_SILENCE_TIMEOUT (R342): no valid flit for 20 µs. -/
def execFordSilenceTimeout (s : State) : Host.Outcome State Fault Refusal := .next (s.partnerLoss 2)

/-- FORD_LINK_DOWN (R347): the link goes down and the partner with it. -/
def execFordLinkDown (s : State) : Host.Outcome State Fault Refusal :=
  if s.frd.linkUp then .next ((s.partnerLoss 3).modFrd (fun x => { x with linkUp := false, helloWait := false, linkDowns := x.linkDowns + 1 })) else .next s

end Sys2Proof.Machine
end

