-- ==== Sys2Proof/Machine/Delta.lean ====
section
/-! DEFINITION. The delta router (R202 to R216): ROUTE with its lists, history and prediction, DISPATCH and COMBINE. -/

namespace Sys2Proof.Machine

open Sys2Proof

/-- Fields of a ROUTE after the clamps of R216. `bad` says that the logits give nothing to route. -/
structure RouteP where
  bad : Bool
  logits : TDesc
  disp : TDesc
  comb : TDesc
  cnt : TDesc
  bias : TDesc
  e : Nat
  ntok : Nat
  k : Nat
  gate : Nat
  overflow : Nat
  pfMax : Nat
  c : Nat
  spill : Nat
  table : Nat
  renorm : Bool
  deriving DecidableEq, Repr

/-- A list tensor that is not INT32 is null (R216); and whether that clamps. -/
def listTensor (t : TDesc) : TDesc × Nat := if !t.isNull && decide (t.fmt ≠ 0x0B) then (.null, 1) else (t, 0)

/-- PARAMS of ROUTE with the clamps of R203, R205 and R216, and how many were clamped. (DEDUCED: notes/assumptions/26) (DEDUCED: notes/assumptions/29) -/
def routeParams (s : State) (ts : List TDesc) (bias : TDesc) (p : List Byte) : RouteP × Nat :=
  let x := lget TDesc.null ts 0
  let okFmt : Bool := decide (x.fmt ≤ 2)
  let (d, nd) := listTensor (lget TDesc.null ts 1)
  let (c, nc) := listTensor (lget TDesc.null ts 2)
  let (n, nn) := listTensor (lget TDesc.null ts 3)
  let e := if x.isNull then 0 else min 256 x.raw0
  let ntok := if x.isNull then 0 else x.rows
  let k0 := fieldAt p 0 1
  let k := min e (if k0 = 0 then 2 else min k0 8)
  let gate := fieldAt p 1 1
  let ov := fieldAt p 2 1
  let pf := fieldAt p 3 1
  let cap := if fieldAt p 4 2 = 0 then (if e = 0 then 0 else cdiv (5 * k * ntok) (4 * e)) else fieldAt p 4 2
  let sp := fieldAt p 6 2
  let biasBad : Bool := !bias.isNull && (decide (bias.fmt ≠ 0x02) || decide (bias.raw0 < e))
  let tbl := fieldAt p 0x10 8
  let tblBad : Bool := decide (pf ≠ 0) && !s.inWindow tbl
  ({ bad := x.isNull || !okFmt, logits := x, disp := d, comb := c, cnt := n, bias := if biasBad then TDesc.null else bias, e := e, ntok := ntok,
     k := k, gate := if gate ≤ 2 then gate else 0, overflow := if ov ≤ 2 then ov else 0, pfMax := if tblBad then 0 else pf, c := cap,
     spill := min sp (65536 - cap), table := tbl, renorm := bitOf (fieldAt p 0x18 1) 0 },
   b2n (!x.isNull && !okFmt) + b2n (!x.isNull && (decide (256 < x.raw0) || decide (x.raw0 = 0))) + b2n (decide (8 < k0)) + b2n (decide (2 < gate)) + b2n (decide (2 < ov)) +
     b2n (decide (65536 < cap + sp)) + b2n biasBad + b2n tblBad + nd + nc + nn)

/-! ### Selection and gate weights (R203, R204) -/

/-- Does score `a` rank strictly above `b`: numbers by size, a NaN below every number. -/
def outranks (a b : FVal) : Bool := (isNan b && !isNan a) || flt b a

/-- Put an expert into a ranking, behind every expert it does not outrank. -/
def rankInsert (x : Nat × FVal) : List (Nat × FVal) → List (Nat × FVal)
  | [] => [x]
  | y :: t => if outranks x.2 y.2 then x :: y :: t else y :: rankInsert x t

/-- The experts by descending score, equal scores by ascending index (R203). -/
def ranking (ys : List FVal) : List Nat := (((List.range ys.length).zip ys).foldl (fun a x => rankInsert x a) []).map (·.1)

/-- log2 e in binary64 (R204). -/
def log2e64 : FVal := of64 0x3FF71547652B82FE

/-- The correctly rounded binary64 exponential (R175). -/
def exp2r64 (v : FVal) : FVal := rne f64 (xexp2 v)

/-- The gate weights of a token's choices (R204): logits of all experts, the choices in rank order. -/
def gateWeights (gate : Nat) (xs : List FVal) (choices : List Nat) : List FVal :=
  let at1 (e : Nat) : FVal := lget fzero xs e
  let ex (mx x : FVal) : FVal := exp2r64 (mulIn f64 (addIn f64 x (fneg mx)) log2e64)
  if gate = 2 then
    choices.map (fun e => rne f32 (ofF (divIn f64 (ofInt 1) (addIn f64 (ofInt 1) (exp2r64 (mulIn f64 (fneg (at1 e)) log2e64))))))
  else
    let pool := if gate = 1 then xs else choices.map at1
    let mx := maxAll pool
    let total := sum64 (pool.map (ex mx))
    choices.map (fun e => rne f32 (xdiv (ex mx (at1 e)) total))

/-! ### Capacity (R205) -/

/-- A choice that holds a slot: token, rank, expert, slot. -/
structure Held where
  tok : Nat
  rank : Nat
  expert : Nat
  slot : Nat
  deriving DecidableEq, Repr

/-- The fill so far: accepted and spilled counts, choices that hold a slot, choices waiting for NEXT, choices moved and dropped. -/
structure Fill where
  acc : List Nat
  sp : List Nat
  held : List Held
  excess : List (Nat × Nat)
  moved : Nat
  dropped : Nat
  deriving DecidableEq, Repr

/-- One choice of rank c of token t for expert e. -/
def Fill.offer (f : Fill) (p : RouteP) (t c e : Nat) : Fill :=
  if lget 0 f.acc e < p.c then
    { f with acc := lmod f.acc e (· + 1), held := f.held ++ [{ tok := t, rank := c, expert := e, slot := lget 0 f.acc e }] }
  else if p.overflow = 1 then { f with excess := f.excess ++ [(t, c)] }
  else if p.overflow = 2 ∧ lget 0 f.sp e < p.spill then
    { f with sp := lmod f.sp e (· + 1), held := f.held ++ [{ tok := t, rank := c, expert := e, slot := p.c + lget 0 f.sp e }] }
  else { f with dropped := f.dropped + 1 }

/-- A NEXT visit of an overflowed choice: the token's ranking from rank k on. -/
def Fill.revisit (f : Fill) (p : RouteP) (ranks : List (List Nat)) (tc : Nat × Nat) : Fill :=
  let free (e : Nat) : Bool := decide (lget 0 f.acc e < p.c) && !f.held.any (fun h => decide (h.tok = tc.1) && decide (h.expert = e))
  match findFirst free ((lget [] ranks tc.1).drop p.k) with
  | some e =>
    { f with acc := lmod f.acc e (· + 1), moved := f.moved + 1,
             held := f.held ++ [{ tok := tc.1, rank := tc.2, expert := e, slot := lget 0 f.acc e }] }
  | none => { f with dropped := f.dropped + 1 }

/-- The whole fill: rank-major, then the NEXT visits token by token in rank order. -/
def routeFill (p : RouteP) (ranks : List (List Nat)) : Fill :=
  let start : Fill := { acc := List.replicate p.e 0, sp := List.replicate p.e 0, held := [], excess := [], moved := 0, dropped := 0 }
  let f := (List.range p.k).foldl (fun a c => (List.range p.ntok).foldl (fun b t => b.offer p t c (lget 0 (lget [] ranks t) c)) a) start
  (List.range p.ntok).foldl (fun a t => (f.excess.filter (fun x => x.1 = t)).foldl (fun b x => b.revisit p ranks x) a) f

/-- The slot a choice holds, if it holds one. -/
def Fill.holder (f : Fill) (t c : Nat) : Option Held := findFirst (fun h => decide (h.tok = t) && decide (h.rank = c)) f.held

/-- Weights renormalised over a token's choices that hold a slot (R207). -/
def renormWeights (f : Fill) (t : Nat) (ws : List FVal) : List FVal :=
  let on (c : Nat) : Bool := (f.holder t c).isSome
  let total := sum64 (((List.range ws.length).filter on).map (fun c => lget fzero ws c))
  (List.range ws.length).map (fun c => if on c then rne f32 (xdiv (lget fzero ws c) total) else lget fzero ws c)

/-! ### ROUTE (R202 to R208, R211, R213, R215) -/

/-- Write a row of a list tensor; a row beyond DIM1 is not written (R59). -/
def listRow (t : TDesc) (s : State) (r : Nat) (ws : List Nat) (on : Bool) : State :=
  if !t.isNull && decide (r < t.d 1) then t.writeRow s r 0 ws on [] else s

/-- Max demand × E / total demand in 8.8 fixed point, saturating; 0 without demand (DLT_LAST_ROUTE). -/
def imbalance (demand : List Nat) : Nat :=
  let total := demand.sum
  if total = 0 then 0 else min 0xFFFF (demand.foldl max 0 * demand.length * 256 / total)

/-- What a ROUTE with fill `f` leaves for its completion (R211, R215). -/
def routeEnd (cmd : Cmd) (p : RouteP) (f : Fill) (demand : List Nat) (nonfinite : Nat) : RouteEnd :=
  { queue := cmd.queue, seq := cmd.seq, hist := some { layer := p.logits.layer, counts := f.acc.map (fun n => min n 65535) }, experts := p.e, topk := p.k,
    imbalance := imbalance demand, choices := p.k * p.ntok, dropped := f.dropped, moved := f.moved, spilled := f.sp.sum, nonfinite := nonfinite,
    accepted := f.acc }

/-- What a ROUTE with nothing to route leaves (R216). -/
def routeEmpty (cmd : Cmd) : RouteEnd :=
  { queue := cmd.queue, seq := cmd.seq, hist := none, experts := 0, topk := 0, imbalance := 0, choices := 0, dropped := 0, moved := 0, spilled := 0,
    nonfinite := 0, accepted := [] }

/-- A ROUTE completes (R211, R213, R215): the history and the counters, the accuracy of its prediction, and the lines of experts with no
accepted token, which are discarded. (DEDUCED: notes/assumptions/29) -/
def State.routeDone (s : State) (cmd : Cmd) : State :=
  match s.dlt.ending with
  | none => s
  | some r =>
    if r.queue ≠ cmd.queue ∨ r.seq ≠ cmd.seq then s
    else
      let d := s.dlt
      let d1 := match r.hist with
        | none => d
        | some h => { d with history := tset none d.history (h.layer % 256) (some h), lastExperts := r.experts, lastTopk := r.topk, lastLayer := h.layer,
                             lastImbalance := r.imbalance }
      let s1 := { s with dlt := { d1 with ending := none, choices := d.choices + r.choices, dropped := d.dropped + r.dropped, moved := d.moved + r.moved,
                                          spilled := d.spilled + r.spilled, nonfinite := d.nonfinite + r.nonfinite } }
      match cmd.predicted with
      | none => s1
      | some pr =>
        let used (e : Nat) : Bool := decide (lget 0 r.accepted e ≠ 0)
        let hits := (pr.filter (fun x => used x.1)).length
        let extra := ((List.range r.accepted.length).filter (fun e => used e && !pr.any (fun x => x.1 = e))).length
        let mine (o : PfOwned) : Bool := decide (o.queue = cmd.queue) && decide (o.seq = cmd.seq)
        let s2 := (s1.discardProv (fun _ st pl => match st.ownedAt pl with
          | some o => mine o && !used o.expert
          | none => false)).1
        { s2 with dlt := { s2.dlt with
          pfPredicted := s2.dlt.pfPredicted + pr.length, pfHits := s2.dlt.pfHits + hits, pfWrong := s2.dlt.pfWrong + (pr.length - hits),
          pfUnpredicted := s2.dlt.pfUnpredicted + extra,
          owned := (s2.dlt.owned.filter (fun o => !(mine o && !used o.expert))).map (fun o => if mine o then { o with done := true } else o) } }

/-- The logits of token t (R203). -/
def RouteP.logitRow (p : RouteP) (s : State) (t : Nat) : List FVal := (List.range p.e).map (fun x => p.logits.val s x t)

/-- The experts of token t in rank order, by logits and bias (R203). -/
def RouteP.rank (p : RouteP) (s : State) (t : Nat) : List Nat :=
  ranking (if p.bias.isNull then p.logitRow s t
    else (p.logitRow s t).zip ((List.range p.e).map (fun x => p.bias.val s x 0)) |>.map (fun y => addIn f32 y.1 y.2))

/-- The choices of every token, and which of them hold a slot (R205). -/
def RouteP.fill (p : RouteP) (s : State) : Fill := routeFill p ((List.range p.ntok).map (p.rank s))

/-- The gate weights of token t's choices (R204, R207). -/
def RouteP.weights (p : RouteP) (s : State) (f : Fill) (t : Nat) : List FVal :=
  let w := gateWeights p.gate (p.logitRow s t) ((p.rank s t).take p.k)
  if p.renorm then renormWeights f t w else w

/-- How many choices name each expert, whether or not they hold a slot (R206). -/
def RouteP.demand (p : RouteP) (s : State) : List Nat :=
  (List.range p.e).map (fun x => ((List.range p.ntok).map (fun t => (((p.rank s t).take p.k).filter (· = x)).length)).sum)

/-- Does a read of a ROUTE touch poison. -/
def RouteP.poison (p : RouteP) (s : State) : Bool :=
  (List.range p.ntok).any (fun t => p.logits.rowPoison s t 0 p.e) || p.bias.rowPoison s 0 0 p.e

/-- The word of the dispatch list for a slot of an expert (R206). -/
def Fill.dispWord (f : Fill) (x sl : Nat) : Nat :=
  match findFirst (fun h => decide (h.expert = x) && decide (h.slot = sl)) f.held with
  | some h => h.tok
  | none => 0xFFFFFFFF

/-- The first word of the combine list for a choice (R206). -/
def Fill.combWord (f : Fill) (t c : Nat) : Nat :=
  match f.holder t c with
  | some h => h.expert * 65536 + h.slot
  | none => 0xFFFFFFFF

/-- The words of the combine list's row of token t (R206). -/
def RouteP.combRow (p : RouteP) (f : Fill) (t : Nat) (ws : List FVal) : List Nat :=
  (List.range p.k).flatMap (fun c => [f.combWord t c, (to32 (lget fzero ws c)).toNat])

/-- The work of a ROUTE. -/
def State.runRoute (s : State) (e : WakeEntry) (p : RouteP) : State :=
  let cmd := e.cmd
  let pz := p.poison s
  let f := p.fill s
  let ws := (List.range p.ntok).map (p.weights s f)
  let demand := p.demand s
  let bad := (ws.filter (fun r => r.any (fun v => !isFin v))).length
  let s1 := (List.range p.e).foldl (fun st x => listRow p.disp st x ((List.range (p.c + p.spill)).map (f.dispWord x)) pz) s
  let s2 := ((List.range p.ntok).zip ws).foldl (fun st y => listRow p.comb st y.1 (p.combRow f y.1 y.2) pz) s1
  let s3 := listRow p.cnt (listRow p.cnt (listRow p.cnt s2 0 f.acc pz) 1 demand pz) 2 f.sp pz
  let s4 := { s3 with dlt := { s3.dlt with ending := some (routeEnd cmd p f demand bad) } }
  s4.ran cmd.queue cmd.seq (if pz then 0x10 else 0) [] (if bad = 0 then [] else [.nonfinite p.logits.layer])

/-- The place of a reached ROUTE among others (R208): when it was reached, then its partition and queue, then its order there. -/
def WakeEntry.routePlace (e : WakeEntry) : List Nat := [e.reachedAt, e.cmd.queue / 64, e.cmd.queue, e.wakeSeq]

/-- Is one place before another. -/
def placeBefore : List Nat → List Nat → Bool
  | a :: t, b :: u => decide (a < b) || (decide (a = b) && placeBefore t u)
  | _, _ => false

/-- Does a ROUTE reached before this one still wait for the router (R208). -/
def State.routeWaits (s : State) (e : WakeEntry) : Bool :=
  s.allEntries.any (fun x => decide (x.cmd.opcode = 0x4000) && !x.started && !x.ended && placeBefore x.routePlace e.routePlace)

/-- Pin the resident lines of what a command accesses through descriptors that ask for it (R228). -/
def State.pinNamed (s : State) (c : Cmd) : State := (c.tensors ++ c.extras).foldl (fun st t => t.pinLines st) s

/-- ROUTE (R202 to R208): the router takes one ROUTE at a time, in the order of reach; another waits. (DESIGN CHOICE: notes/assumptions/9) -/
def execRoute (q seq : Nat) (s : State) : Host.Outcome State Fault Refusal :=
  match s.ready q seq 0x4000 with
  | none => .next s
  | some e =>
    if s.dlt.busyQueue.isSome || s.unitInReset 2 0 || s.routeWaits e then .next s
    else
      let p := (routeParams s e.cmd.tensors (lget TDesc.null e.cmd.extras 0) e.cmd.params).1
      let s1 := { s with dlt := { s.dlt with busyQueue := some q, routes := s.dlt.routes + 1, ending := some (routeEmpty e.cmd) } }
      if p.bad then .next (s1.ran q seq 0 [] [])
      else .next (((s1.runRoute e p).pinNamed e.cmd).bookTraffic e.cmd)

/-! ### The prediction (R212) -/

/-- Put an expert into a ranking by descending count, behind equal counts. -/
def countInsert (x : Nat × Nat) : List (Nat × Nat) → List (Nat × Nat)
  | [] => [x]
  | y :: t => if y.2 < x.2 then x :: y :: t else y :: countInsert x t

/-- Take experts while their bytes stay within the budget: those taken, and how many are left out. (DEDUCED: notes/assumptions/29) -/
def takeBudget (budget : Nat) : Nat → List (Nat × List (Nat × Nat)) → List (Nat × List (Nat × Nat)) × Nat
  | _, [] => ([], 0)
  | used, x :: t =>
    let n := used + rangeBytes x.2
    if n ≤ budget then let r := takeBudget budget n t; (x :: r.1, r.2) else ([], t.length + 1)

/-- The prediction of a decoded ROUTE and its prefetch as provisional lines of queue `q` (R212). (DEDUCED: notes/assumptions/29) -/
def State.routePredict (s : State) (q seq : Nat) (p : RouteP) : State × Option (List (Nat × List (Nat × Nat))) :=
  if p.logits.isNull || decide (p.pfMax = 0) || !(s.seqr (q / 64)).expertPf || !s.dlt.pfEn then (s, none)
  else
    match tget none s.dlt.history (p.logits.layer % 256) with
    | none => (s, none)
    | some h =>
      if h.layer ≠ p.logits.layer then (s, none)
      else
        let live := ((List.range (min p.e h.counts.length)).filterMap (fun e => let n := lget 0 h.counts e; if n = 0 then none else some (e, n)))
        let order := (live.foldl (fun a x => countInsert x a) []).map (·.1)
        let handles (e : Nat) : List Nat := [0, 4].map (fun o => s.peekWord (p.table + 8 * e + o) 4)
        let ranges (e : Nat) : List (Nat × Nat) := (handles e).flatMap (fun h => (readTensor s h false false).1.dataRanges)
        let (take, cut) := takeBudget (s.dlt.pfBudgetMib * 1048576) 0 ((order.take p.pfMax).map (fun e => (e, ranges e)))
        let own (x : Nat × List (Nat × Nat)) : PfOwned :=
          { queue := q, seq := seq, expert := x.1, handles := (handles x.1).filter (· ≠ 0), ranges := x.2, done := false }
        let (s1, n) := s.prefetch q (take.flatMap (·.2))
        ({ s1 with dlt := { s1.dlt with pfLines := s1.dlt.pfLines + n, pfBudgetCut := s1.dlt.pfBudgetCut + cut, owned := s1.dlt.owned ++ take.map own } },
         some take)

/-! ### DISPATCH and COMBINE (R209, R210) -/

/-- A word of a list tensor with its poison; none beyond its extent. -/
def listWord (t : TDesc) (s : State) (i0 r : Nat) : Option (Nat × Bool) :=
  if !t.isNull && decide (i0 < t.raw0) && decide (r < t.d 1) then some (t.bits s i0 r, t.poisoned s i0 r) else none

/-- Narrow a row into a tensor, the row being the unit of R152, and write it with its bitmap (R100): state, saturated, contributions. -/
def State.putRow (s0 s : State) (e : WakeEntry) (y : TDesc) (r : Nat) (vals : List (FVal × Bool)) : State × Bool × List RowEffect :=
  let us : List Stretch := (List.range (cdiv vals.length 32)).map (fun j =>
    let es := (vals.drop (32 * j)).take 32
    { row := r, i0 := 32 * j, vals := es.map (·.1), poisoned := es.map (·.2) })
  let o := narrowUnit y (e.narrowCtx s0 y) y.mode us
  (s.writeUnit y o y.zbMap [], o.saturated, o.effects y)

/-- How DISPATCH and COMBINE end: code and contributions. -/
def State.rowsEnd (s : State) (cmd : Cmd) (pz sat : Bool) (eff : List RowEffect) : State :=
  ((s.pinNamed cmd).bookTraffic cmd).ran cmd.queue cmd.seq (if pz then 0x10 else if sat then 0x03 else 0) [] eff

/-- Clamps of DISPATCH (R216). -/
def dispatchClamps (ts : List TDesc) (p : List Byte) : Nat :=
  (listTensor (lget TDesc.null ts 1)).2 + b2n (decide (1 < fieldAt p 0 1)) + (if fieldAt p 0 1 = 0 then 0 else (listTensor (lget TDesc.null ts 3)).2)

/-- Row (s, e) of Y (R209): its values with their poison, and whether the entry named a token out of range. -/
def dispatchRow (s : State) (x list comb y : TDesc) (weighted : Bool) (ex sl : Nat) : List (FVal × Bool) × Bool :=
  let zero (pz : Bool) : List (FVal × Bool) := List.replicate y.d0 (fzero, pz)
  match listWord list s sl ex with
  | none => (zero false, false)
  | some (w, pz) =>
    let bound := if x.isNull then 0 else x.d 1
    if w = 0xFFFFFFFF then (zero pz, false)
    else if bound ≤ w then (zero pz, true)
    else if weighted then
      (let hit (c : Nat) : Bool := match listWord comb s (2 * c) w with
          | some v => decide (v.1 = ex * 65536 + sl)
          | none => false
       match findFirst hit (List.range (comb.raw0 / 2)) with
       | none => (zero pz, false)
       | some c =>
         let (g, gp) := (listWord comb s (2 * c + 1) w).getD (0, false)
         ((List.range y.d0).map (fun n => (mulIn f32 (of32 (BitVec.ofNat 32 g)) (x.val s n w), pz || gp || x.poisoned s n w)), false))
    else ((List.range y.d0).map (fun n => (x.val s n w, pz || x.poisoned s n w)), false)

/-- DISPATCH (R209). (DEDUCED: notes/assumptions/30) -/
def execDispatch (q seq : Nat) (s : State) : Host.Outcome State Fault Refusal :=
  match s.ready q seq 0x4001 with
  | none => .next s
  | some e =>
    let ts := e.cmd.tensors
    let x := lget TDesc.null ts 0
    let list := (listTensor (lget TDesc.null ts 1)).1
    let y := lget TDesc.null ts 2
    let comb := (listTensor (lget TDesc.null ts 3)).1
    let weighted := decide (fieldAt e.cmd.params 0 1 ≠ 0)
    if y.isNull || list.isNull || (weighted && comb.isNull) then .next (s.ran q seq 0 [] [])
    else
      let slots := if fieldAt e.cmd.params 2 2 = 0 then list.raw0 else fieldAt e.cmd.params 2 2
      let one (a : State × Bool × Bool × Nat × List RowEffect) (r : Nat) : State × Bool × Bool × Nat × List RowEffect :=
        let (st, pz, sat, bad, eff) := a
        let (vals, out) := dispatchRow s x list comb y weighted (r / slots) (r % slots)
        if r % slots < y.d 1 then
          (let w := s.putRow st e y (y.rowNo (r % slots) (r / slots) 0) vals
           (w.1, pz || vals.any (·.2), sat || w.2.1, bad + b2n out, eff ++ w.2.2))
        else (st, pz, sat, bad + b2n out, eff)
      let (s1, pz, sat, bad, eff) := (List.range (y.d 2 * slots)).foldl one (s, false, false, 0, [])
      let s2 := { s1 with dlt := { s1.dlt with badEntries := s1.dlt.badEntries + bad } }
      .next (s2.rowsEnd e.cmd pz sat eff)

/-- Clamps of COMBINE (R216). -/
def combineClamps (ts : List TDesc) (p : List Byte) : Nat :=
  (listTensor (lget TDesc.null ts 1)).2 + b2n (decide (1 < fieldAt p 0 1)) + b2n (decide (1 < fieldAt p 1 1))

/-- The choices of token t that COMBINE adds (R210): weight, its poison, row of Z; and how many entries lie outside Z. -/
def combineChoices (s : State) (z list : TDesc) (unweighted : Bool) (t : Nat) : List (FVal × Bool × Nat) × Nat :=
  (List.range (list.raw0 / 2)).foldl (fun a c =>
    match listWord list s (2 * c) t with
    | none => a
    | some (w, pz) =>
      if w = 0xFFFFFFFF then a
      else if !z.isNull && decide (w / 65536 < z.d 2) && decide (w % 65536 < z.d 1) then
        (let (g, gp) := (listWord list s (2 * c + 1) t).getD (0, false)
         let wt := if unweighted then ofInt 1 else of32 (BitVec.ofNat 32 g)
         (a.1 ++ [(wt, pz || (gp && !unweighted), z.rowNo (w % 65536) (w / 65536) 0)], a.2))
      else (a.1, a.2 + 1)) ([], 0)

/-- Element n of row t of Y under COMBINE (R210), and whether it derives from poison: the choices are added in order to Y or to +0. -/
def combineElem (s : State) (z y : TDesc) (accum : Bool) (chs : List (FVal × Bool × Nat)) (t n : Nat) : FVal × Bool :=
  chs.foldl (fun a ch => (fmaIn f32 ch.1 (z.val s n ch.2.2) a.1, a.2 || ch.2.1 || z.poisoned s n ch.2.2))
    (if accum then (y.val s n t, y.poisoned s n t) else (fzero, false))

/-- COMBINE (R210). (DEDUCED: notes/assumptions/30) -/
def execCombine (q seq : Nat) (s : State) : Host.Outcome State Fault Refusal :=
  match s.ready q seq 0x4002 with
  | none => .next s
  | some e =>
    let ts := e.cmd.tensors
    let z := lget TDesc.null ts 0
    let list := (listTensor (lget TDesc.null ts 1)).1
    let y := lget TDesc.null ts 2
    let accum := decide (fieldAt e.cmd.params 0 1 ≠ 0)
    let unweighted := decide (fieldAt e.cmd.params 1 1 ≠ 0)
    if y.isNull || list.isNull then .next (s.ran q seq 0 [] [])
    else
      let one (a : State × Bool × Bool × Nat × List RowEffect) (t : Nat) : State × Bool × Bool × Nat × List RowEffect :=
        let (st, pz, sat, bad, eff) := a
        let (chs, out) := combineChoices s z list unweighted t
        let vals := (List.range y.d0).map (combineElem s z y accum chs t)
        let w := s.putRow st e y t vals
        (w.1, pz || vals.any (·.2), sat || w.2.1, bad + out, eff ++ w.2.2)
      let (s1, pz, sat, bad, eff) := (List.range (y.d 1)).foldl one (s, false, false, 0, [])
      let s2 := { s1 with dlt := { s1.dlt with badEntries := s1.dlt.badEntries + bad } }
      .next (s2.rowsEnd e.cmd pz sat eff)

end Sys2Proof.Machine
end

