-- ==== Sys2Proof/Machine/Flags.lean ====
section
/-! DEFINITION. VEC_FLAGS (R182): which flags an operation sets. -/

namespace Sys2Proof.Machine

open Sys2Proof

/-- The flag bits NV, DZ, OF, UF, NX in their order. -/
def flagBits (nv dz of uf nx : Bool) : BitVec 7 := BitVec.ofNat 7 (b2n nv + 2 * b2n dz + 4 * b2n of + 8 * b2n uf + 16 * b2n nx)

/-- The POISON flag. -/
def flagPoison : BitVec 7 := 32

/-- The SATURATED flag. -/
def flagSaturated : BitVec 7 := 64

/-- The flags of a rounded result: `nv` and `dz` are the operation's own. (DEDUCED: notes/assumptions/20) -/
def Rounded.flags (o : Rounded) (nv dz : Bool) : BitVec 7 := flagBits (nv || o.nv) dz o.of o.uf o.nx

/-- NV of an arithmetic operation: a NaN result from operands that are none. -/
def invalidOp (x : XVal) (ops : List FVal) : Bool := decide (x = .nan) && !ops.any isNan

end Sys2Proof.Machine
end

