-- ==== Sys2Proof/Machine/Operands.lean ====
section
/-! DEFINITION. Vector instructions: the fields of the word (R172), how a register holds elements (R173), masks (R174), operands
and poison (R183), which TYPE an operation has (R177, R191), the registers it reads (R166) and its issue cycles (R191). -/

namespace Sys2Proof.Machine

open Sys2Proof

/-! ### Fields of the word (R172) -/

/-- OP. -/
def vOp (w : W64) : Nat := bitsOf w.toNat 7 0

/-- TYPE: 0 F32, 1 BF16x2, 2 F64, 3 I32. -/
def vType (w : W64) : Nat := bitsOf w.toNat 9 8

/-- RM as a mode of R136; 5 to 7 act as RNE (R175). -/
def vRm (w : W64) : Nat := let m := bitsOf w.toNat 12 10; if m ≤ 4 then m else 0

/-- MEN. -/
def vMen (w : W64) : Bool := bitOf w.toNat 13

/-- MSEL. -/
def vMsel (w : W64) : Nat := bitsOf w.toNat 16 14

/-- VD. -/
def vVd (w : W64) : Nat := bitsOf w.toNat 21 17

/-- VA. -/
def vVa (w : W64) : Nat := bitsOf w.toNat 26 22

/-- VB. -/
def vVb (w : W64) : Nat := bitsOf w.toNat 31 27

/-- VC. -/
def vVc (w : W64) : Nat := bitsOf w.toNat 36 32

/-- SA. -/
def vSa (w : W64) : Nat := bitsOf w.toNat 40 37

/-- BSC. -/
def vBsc (w : W64) : Bool := bitOf w.toNat 41

/-- ZM. -/
def vZm (w : W64) : Bool := bitOf w.toNat 42

/-- IMM, unsigned. -/
def vImm (w : W64) : Nat := bitsOf w.toNat 63 48

/-- IMM, two's complement. -/
def vImmS (w : W64) : Int := sext 16 (vImm w)

/-! ### Elements (R173) -/

/-- Elements of a register. -/
def vCount (ty : Nat) : Nat := if ty = 1 then 128 else if ty = 2 then 32 else 64

/-- Bits of an element. -/
def vWidth (ty : Nat) : Nat := if ty = 1 then 16 else if ty = 2 then 64 else 32

/-- FORMAT code of a type's elements. -/
def vFmt (ty : Nat) : Nat := if ty = 1 then 0x00 else if ty = 2 then 0x03 else if ty = 3 then 0x0B else 0x02

/-- Bits of element `j`. -/
def vGet (ty : Nat) (x : BitVec 2048) (j : Nat) : Nat := (x >>> (vWidth ty * j)).toNat % 2 ^ vWidth ty

/-- A register from its elements, element 0 lowest. -/
def vPack (ty : Nat) (l : List Nat) : BitVec 2048 := BitVec.ofNat 2048 (l.foldr (fun b acc => b % 2 ^ vWidth ty + 2 ^ vWidth ty * acc) 0)

/-- The mask bit of element `j`. -/
def vMaskBit (ty j : Nat) : Nat := if ty = 1 then j / 2 else j

/-- The mask bit of lane `l`: the one of the element that holds it. -/
def vLaneBit (ty l : Nat) : Nat := if ty = 2 then l / 2 else l

/-- Is element `j` poisoned: any of its lanes is. -/
def vElPoison (ty : Nat) (p : BitVec 64) (j : Nat) : Bool :=
  if ty = 1 then p.getLsbD (j / 2) else if ty = 2 then p.getLsbD (2 * j) || p.getLsbD (2 * j + 1) else p.getLsbD j

/-- A mask register. -/
def VecSt.mask (v : VecSt) (k : Nat) : W64 := tget 0 v.m k

/-- A vector register. -/
def VecSt.vreg (v : VecSt) (k : Nat) : BitVec 2048 := tget 0 v.v k

/-- The poisoned lanes of a vector register. -/
def VecSt.vpz (v : VecSt) (k : Nat) : BitVec 64 := tget 0 v.vPoison k

/-- A scalar register; s0 reads zero (R167). -/
def VecSt.sreg (v : VecSt) (k : Nat) : W64 := if k = 0 then 0 else tget 0 v.s k

/-- Write a scalar register; writes to s0 are ignored (R167). -/
def VecSt.setS (v : VecSt) (k : Nat) (x : W64) : VecSt := if k = 0 then v else { v with s := tset 0 v.s k x }

/-- Is mask bit `b` active for the instruction (R174). -/
def VecSt.active (v : VecSt) (w : W64) (b : Nat) : Bool := !vMen w || (v.mask (vMsel w)).getLsbD b

/-- A register of sa broadcast (R172, R177): bits 31:0 to every lane, or the whole of it to every F64 element. -/
def vSplat (ty : Nat) (x : W64) : BitVec 2048 :=
  if ty = 2 then vPack 2 (List.replicate 32 x.toNat) else vPack 0 (List.replicate 64 (x.toNat % 2 ^ 32))

/-- Operand B: VB, or sa broadcast under BSC. -/
def VecSt.opB (v : VecSt) (w : W64) (ty : Nat) : BitVec 2048 := if vBsc w then vSplat ty (v.sreg (vSa w)) else v.vreg (vVb w)

/-- Poisoned lanes of operand B. -/
def VecSt.opBpz (v : VecSt) (w : W64) : BitVec 64 := if vBsc w then 0 else v.vpz (vVb w)

/-- Element `j` as arithmetic reads it: a poisoned element is a NaN (R183). -/
def vVal (ty : Nat) (x : BitVec 2048) (p : BitVec 64) (j : Nat) : FVal :=
  if vElPoison ty p j && decide (ty ≠ 3) then .nan else decodeElem (vFmt ty) (vGet ty x j)

/-- Write a vector register from its elements; none marks a masked-off one, which keeps its value or becomes +0 (R174). A
load still under way to the register no longer arrives. -/
def VecSt.setV (v : VecSt) (ty : Nat) (zm : Bool) (vd : Nat) (res : List (Option (Nat × Bool))) : VecSt :=
  let old := v.vreg vd
  let oldP := v.vpz vd
  let bits := (List.range (vCount ty)).map (fun j =>
    match lget none res j with
    | some r => r.1
    | none => if zm then 0 else vGet ty old j)
  let elP (j : Nat) : Bool := match lget none res j with
    | some r => r.2
    | none => if zm then false else vElPoison ty oldP j
  let laneP (l : Nat) : Bool := if ty = 1 then elP (2 * l) || elP (2 * l + 1) else if ty = 2 then elP (l / 2) else elP l
  let p : BitVec 64 := BitVec.ofNat 64 (((List.range 64).map (fun l => 2 ^ l * b2n (laneP l))).sum)
  { v with v := tset 0 v.v vd (vPack ty bits), vPoison := tset 0 v.vPoison vd p, loads := v.loads.filter (fun x => x.1 ≠ vd) }

/-- Write a mask register bit by bit (R174): `on` says which result bits are active. -/
def VecSt.setM (v : VecSt) (k : Nat) (zm : Bool) (on : Nat → Bool) (res : W64) : VecSt :=
  let old := v.mask k
  let bit (j : Nat) : Bool := if on j then res.getLsbD j else if zm then false else old.getLsbD j
  { v with m := tset 0 v.m k (BitVec.ofNat 64 (((List.range 64).map (fun j => 2 ^ j * b2n (bit j))).sum)) }

/-! ### The table of operations -/

/-- Is the operation listed, with a TYPE it has (R177, R191). -/
def vLegal (op ty : Nat) : Bool :=
  if op = 0x00 then true
  else if op ≤ 0x07 then decide (ty ≠ 3)
  else if op ≤ 0x09 then true
  else if op ≤ 0x0B then decide (ty = 0) || decide (ty = 2)
  else if op ≤ 0x0F then decide (ty = 0)
  else if op = 0x10 then true
  else if op = 0x11 then decide (ty ≠ 1)
  else if op ≤ 0x1A then true
  else if op = 0x1B then decide (ty = 3)
  else if op < 0x20 then false
  else if op ≤ 0x24 then true
  else if op = 0x28 ∨ op = 0x29 then decide (ty = 0) || decide (ty = 2)
  else if op = 0x2C ∨ op = 0x2D then true
  else (decide (0x30 ≤ op) && decide (op ≤ 0x33)) || decide (op = 0x38) || decide (op = 0x39) || (decide (0x40 ≤ op) && decide (op ≤ 0x43)) ||
    (decide (0x50 ≤ op) && decide (op ≤ 0x5B)) || (decide (0x60 ≤ op) && decide (op ≤ 0x63))

/-- Does the code take the V slot (R177). -/
def vSlotV (op : Nat) : Bool := decide (op < 0x30)

/-- Issue cycles of a V-slot instruction (R191). -/
def vCycles (op ty imm : Nat) : Nat :=
  if op = 0 then 1
  else if op ≤ 0x07 ∨ op = 0x11 ∨ op = 0x28 ∨ op = 0x29 then (if ty = 2 then 2 else 1)
  else if op ≤ 0x09 then (if ty = 2 then 2 else 1)
  else if op ≤ 0x0B then (if ty = 2 then 16 else 4)
  else if op ≤ 0x0F then 4
  else if op = 0x10 then (if imm % 8 ≥ 5 then 2 else 1)
  else 1

/-- Does the destination of a register write also count as read: a merging masked instruction. -/
def vMerges (w : W64) : Bool := vMen w && !vZm w

/-- Vector registers an instruction reads (R166). -/
def vReads (w : W64) : List Nat :=
  let op := vOp w
  let b := if vBsc w then [] else [vVb w]
  let d := if vMerges w then [vVd w] else []
  if op = 0x00 ∨ op = 0x2C ∨ op = 0x2D then []
  else if op = 0x04 ∨ op = 0x05 then vVa w :: vVc w :: b ++ d
  else if op = 0x11 then vVa w :: b
  else if op = 0x08 ∨ op = 0x09 ∨ op = 0x20 ∨ op = 0x24 ∨ op = 0x28 ∨ op = 0x29 ∨ (0x0B ≤ op ∧ op ≤ 0x0F) then vVa w :: d
  else if op = 0x10 then vVa w :: (if vImm w % 8 = 2 then b else []) ++ (if vImm w % 8 = 7 then [vVd w] else d)
  else if op = 0x21 ∨ op = 0x22 ∨ op = 0x30 ∨ op = 0x38 then d
  else if op < 0x30 then vVa w :: b ++ d
  else if op = 0x31 ∨ op = 0x40 ∨ op = 0x5B then [vVa w]
  else if op = 0x32 then b ++ d
  else if op = 0x33 then vVa w :: b
  else []

/-- Does an S instruction read what the V instruction `x` just before it wrote (R166): its vector register, or its mask. -/
def vDepends (x w : W64) : Bool :=
  let op := vOp x
  if !vLegal op (vType x) || decide (op = 0) then false
  else if op = 0x11 ∨ op = 0x2C ∨ op = 0x2D then
    decide (vVd x % 8 = vMsel w) && vMen w && (decide (0x30 ≤ vOp w) && decide (vOp w ≤ 0x40))
  else (vReads w).contains (vVd x)

/-! ### Issue -/

/-- The running program's command when the core's next instruction is this word with this operation and the limit is not
reached (R166, R171). -/
def State.vecReady (s : State) (core : Nat) (w : W64) (op : Nat) : Option WakeEntry :=
  let v := (s.core core).vec
  if v.running && decide (v.prog[v.pc]? = some w) && decide (vOp w = op) && vLegal op (vType w) then
    match s.entry v.queue v.seq with
    | none => none
    | some e => if e.cmd.insnLimit ≠ 0 ∧ e.cmd.insnLimit ≤ v.retired then none else some e
  else none

/-- Does the instruction wait for load data (R166). -/
def State.vecWaits (s : State) (core : Nat) (w : W64) : Bool :=
  (vReads w).any (fun r => (s.core core).vec.loads.any (fun x => x.1 = r))

/-- Retire: count the issue, go to instruction `next`, and end the program past its last one (R166, R171). -/
def State.retire (s : State) (core : Nat) (w : W64) (slotV : Bool) (next : Int) : State :=
  let v := (s.core core).vec
  let paired := !slotV && v.lastV && !(match v.prog[v.pc - 1]? with
    | some x => vDepends x w
    | none => true)
  let s1 := s.modVec core (fun y =>
    { y with pc := if next < 0 then y.pc else next.toNat % 8192, retired := y.retired + 1, lastV := slotV, issueV := y.issueV + b2n slotV,
             issueS := y.issueS + b2n (!slotV), paired := y.paired + b2n paired })
  if next < 0 ∨ (v.prog.length : Int) ≤ next then s1.endProgram core else s1

/-- Retire to the next instruction. -/
def State.retireNext (s : State) (core : Nat) (w : W64) : State :=
  s.retire core w (vSlotV (vOp w)) (((s.core core).vec.pc : Int) + 1)

/-- Residue mismatches of a V instruction (R184, R397): at most two re-issues, then the core is declared failed. -/
def State.reissued (s : State) (core : Nat) (e : WakeEntry) (n : Nat) : State :=
  let v := (s.core core).vec
  (rangeFrom 1 (min n 2)).foldl (fun st k =>
    (st.modVec core (fun x => { x with reissue := x.reissue + 1 })).raise 0x04 2 0x12 core (some (e.cmd.queue, e.cmd.seq)) 0
      (v.pc + 2 ^ 16 * k) 0) s

/-- An S instruction stalls on load data (R166): it no longer issues in the cycle of the V instruction before it. -/
def State.sStall (s : State) (core : Nat) : State := s.modVec core (fun v => { v with stallMem := v.stallMem + 1, lastV := false })

/-- Issue a V-slot instruction: `f` gives the engine after it and the flags it sets. `re` is how often its residue check fails. -/
def State.vIssue (s : State) (core : Nat) (w : W64) (op re : Nat) (f : WakeEntry → VecSt → VecSt × BitVec 7) : State :=
  match s.vecReady core w op with
  | none => s
  | some e =>
    if s.vecWaits core w then s.modVec core (fun v => { v with stallMem := v.stallMem + 1 })
    else
      let n := if (s.core core).vec.residueEn then re else 0
      let s1 := s.reissued core e n
      if n ≥ 3 then s1.coreFailed core (some (e.cmd.queue, e.cmd.seq))
      else
        let s2 := s1.modVec core (fun v => let r := f e v; { r.1 with flags := r.1.flags ||| r.2 })
        (s2.bookCmd e.cmd 1 (vCycles op (vType w) (vImm w) * (n + 1))).retireNext core w

/-- Issue an S-slot instruction that changes only the vector engine. -/
def State.sIssue (s : State) (core : Nat) (w : W64) (op : Nat) (f : VecSt → VecSt) : State :=
  match s.vecReady core w op with
  | none => s
  | some _ =>
    if s.vecWaits core w then s.sStall core
    else (s.modVec core f).retireNext core w

end Sys2Proof.Machine
end

