-- ==== Sys2Proof/Machine/Frames.lean ====
section
/-! DEFINITION. Command frames (R35 to R40): their fields with the clamps of R59 to R61, the descriptors, programs, feeder frames and group
descriptors they name, and the bytes a command reads and writes. -/

namespace Sys2Proof.Machine

open Sys2Proof

/-! ### Opcodes (R38) -/

/-- The opcodes of the table. -/
def opcodes : List Nat :=
  [0x0000, 0x0001, 0x0002, 0x0003, 0x0004, 0x0005, 0x1000, 0x1001, 0x1002, 0x1003, 0x1004, 0x1010, 0x2000, 0x3000, 0x3001, 0x4000] ++
  [0x4001, 0x4002, 0x5000, 0x5001, 0x5002, 0x5003, 0x6000, 0x6001, 0x6002, 0x6003, 0x6004]

/-- Opcodes whose Since column reads 2.1. -/
def since21 : List Nat := [0x1002, 0x1003, 0x4000, 0x4001, 0x4002, 0x6002, 0x6004]

/-- Does an opcode name cores (R37). -/
def namesCores (op : Nat) : Bool :=
  (decide (0x1000 ≤ op) && decide (op < 0x4000)) || decide (op = 0x4001) || decide (op = 0x4002)

/-- Is it a GEMM-family opcode. -/
def gemmOp (op : Nat) : Bool := decide (0x1000 ≤ op ∧ op ≤ 0x1004)

/-- The opcode that a frame executes as, and whether the substitution is a clamp (R39, R40, R60). (DEDUCED: notes/assumptions/12) -/
def State.frameOpcode (s : State) (f : List Byte) : Nat × Nat :=
  let op := fieldAt f 0 2
  let ver := fieldAt f 4 1
  let old := decide (0x10 ≤ ver ∧ ver ≤ 0x1F)
  let weir := decide (op = 2 ∨ op = 3) && decide (fieldAt f 0x30 2 < 0x100)
  if old && since21.contains op then (1, 0)
  else if !opcodes.contains op || (decide (op = 0x1002) && !bitOf s.cap.features 0) || (decide (op = 0x1003) && !bitOf s.cap.features 1) || weir then (1, 1)
  else (op, 0)

/-- Tensor slots an opcode ignores without a tally (R266, R277, R288, R320, R210). -/
def ignoresSlot (op k : Nat) : Bool :=
  (decide (op = 0x3001 ∨ op = 0x6000) && decide (1 ≤ k)) || decide (op = 0x6002) || (collOp op && decide (2 ≤ k)) || (decide (op = 0x4002) && decide (k = 3))

/-- The tensor of slot k of a frame, and its clamps: every descriptor that a frame names is read, whether or not its command uses it (R41, R45,
R60, R61). -/
def State.slotTensor (s : State) (op : Nat) (f : List Byte) (k : Nat) : TDesc × Nat :=
  if ignoresSlot op k then (.null, 0)
  else readTensor s (fieldAt f (0x20 + 4 * k) 4) (decide (op = 0x3001)) (!(gemmOp op && decide (k = 1)))

/-- The entry of the descriptor table a handle names, for the watch of R45. -/
def handleWatch (h : Nat) : List (Nat × Nat) := if h = 0 ∨ 1048576 ≤ h then [] else [(64 * h, 64)]

/-- The descriptor entries that the tensor fields of a frame name. -/
def slotWatch (op : Nat) (f : List Byte) : List (Nat × Nat) :=
  (List.range 4).flatMap (fun k => if ignoresSlot op k then [] else handleWatch (fieldAt f (0x20 + 4 * k) 4))

/-- Byte offsets in PARAMS of the handles an opcode names there. -/
def extraOffsets (op kind : Nat) : List Nat :=
  if op = 0x3001 then [0]
  else if op = 0x4000 ∨ op = 0x1010 then [8]
  else if op = 0x6000 then [0x14, 0x18]
  else if op = 0x6002 then [0, 4, 8]
  else if op = 0x6004 ∨ (op = 0x6003 ∧ kind ≠ 1 ∧ kind ≠ 2) then [0x14, 0x18]
  else if collOp op then [0x18]
  else []

/-- The vector program a VPROG names, and its clamps (R192). -/
def State.readProgram (s : State) (p : List Byte) : List W64 × Nat :=
  let base := fieldAt p 0 8
  let len := min 7168 (fieldAt p 8 2)
  if !s.inWindow base then ([], 1 + b2n (decide (7168 < fieldAt p 8 2)))
  else
    let n := s.cutLen base (8 * len) / 8
    ((List.range n).map (fun i => BitVec.ofNat 64 (s.peekWord (base + 8 * i) 8)), b2n (decide (7168 < fieldAt p 8 2)) + b2n (decide (n < len)))

/-- The feeder a VPROG names, and its clamps (R170, R192). -/
def State.readFeeder (s : State) (p : List Byte) : Option (Nat × List TDesc × List Byte) × Nat :=
  let feed := fieldAt p 0x0A 1
  let a := fieldAt p 0x10 8
  if feed ≠ 1 then (none, b2n (decide (1 < feed)))
  else if !s.inWindow a then (none, 1)
  else
    let f := s.peekBytes a (s.cutLen a 128)
    let op := fieldAt f 0 2
    if !(decide (op = 0x1000 ∨ op = 0x1001 ∨ op = 0x1004) || (decide (op = 0x1003) && bitOf s.cap.features 1)) then (none, 1)
    else
      let ts := (List.range 4).map (s.slotTensor op f)
      let ps := (f.drop 0x30).take 64
      (some (op, ts.map (·.1), ps), (ts.map (·.2)).sum + (gemmParams op (ts.map (·.1)) ps true).2)

/-! ### What a command reads and writes -/

/-- Do two lists of address ranges share a byte. -/
def rangesMeet (a b : List (Nat × Nat)) : Bool := a.any (fun x => b.any (fun y => decide (x.1 < y.2) && decide (y.1 < x.2)))

/-- Slots of a program that instructions of the given opcodes name. -/
def progSlots (prog : List W64) (ops : List Nat) : List Nat := (prog.filter (fun w => ops.contains (vOp w))).map (fun w => vImm w % 4)

/-- The address ranges that a command may read, then those it may write. -/
def Cmd.footprint (c : Cmd) : List (Nat × Nat) × List (Nat × Nat) :=
  let t (k : Nat) : List (Nat × Nat) := (lget TDesc.null c.tensors k).ranges
  let x (k : Nat) : List (Nat × Nat) := (lget TDesc.null c.extras k).ranges
  let op := c.opcode
  if gemmOp op then
    let p := (gemmParams op c.tensors c.params true).1
    (p.a.ranges ++ p.b.ranges ++ p.e.ranges ++ (if p.accum then p.c.ranges else []), p.c.ranges)
  else if op = 0x1010 then
    (if fieldAt c.params 0 1 = 1 then (t 0 ++ t 1 ++ x 0, t 3) else (t 0 ++ t 1 ++ t 2, t 3 ++ x 0))
  else if op = 0x2000 then
    let feed := match c.feeder with
      | some f => (let p := (gemmParams f.1 f.2.1 f.2.2 true).1; p.a.ranges ++ p.b.ranges ++ p.e.ranges ++ (if p.accum then p.c.ranges else []))
      | none => []
    ((progSlots c.prog [0x30, 0x32]).flatMap t ++ feed, (progSlots c.prog [0x31, 0x33]).flatMap t)
  else if op = 0x3001 then (t 0, x 0)
  else if op = 0x4000 then (t 0 ++ x 0, t 1 ++ t 2 ++ t 3)
  else if op = 0x4001 then (t 0 ++ t 1 ++ t 3, t 2)
  else if op = 0x4002 then (t 0 ++ t 1 ++ (if fieldAt c.params 0 1 ≠ 0 then t 2 else []), t 2)
  else if collOp op then (t 0, t 1)
  else if op = 0x6000 then (t 0, x 0 ++ x 1)
  else if op = 0x6002 then (x 0 ++ x 1, x 2)
  else if op = 0x6003 ∨ op = 0x6004 then
    (let src := t 0 ++ x 0 ++ x 1
     (src, [(fieldAt c.params 0 8, fieldAt c.params 0 8 + 128 + rangeBytes src)]))
  else ([], [])

/-- Every tensor a command names, its feeder's among them. -/
def Cmd.named (c : Cmd) : List TDesc := c.tensors ++ c.extras ++ (match c.feeder with | some f => f.2.1 | none => [])

/-- The address ranges of what a command accesses through descriptors that ask for a pin (R228). -/
def Cmd.pinRanges (c : Cmd) : List (Nat × Nat) :=
  (c.named.filter (fun t => t.pin)).flatMap (fun t => t.ranges)

/-- The tensor handles a command names (R213). -/
def Cmd.handles (c : Cmd) : List Nat := (c.named.map (·.handle)).filter (· ≠ 0)

/-- The rows of the norm table a command's descriptors name. -/
def Cmd.rows (c : Cmd) : List Nat :=
  (c.named.filter (fun t => !t.isNull)).foldl (fun a t => if a.contains t.layer then a else a ++ [t.layer]) []

/-! ### Decoding -/

/-- Clamps of the PARAMS of an opcode's own chapter. -/
def State.opClamps (s : State) (c : Cmd) : Nat :=
  let op := c.opcode
  let x0 := lget TDesc.null c.extras 0
  if gemmOp op then (gemmParams op c.tensors c.params true).2
  else if op = 0x1010 then (attnParams s c.tensors x0 c.params).2
  else if op = 0x3000 then (chainParams c.params).2
  else if op = 0x3001 then (copyFields c.params x0).2
  else if op = 0x4000 then (routeParams s c.tensors x0 c.params).2
  else if op = 0x4001 then dispatchClamps c.tensors c.params
  else if op = 0x4002 then combineClamps c.tensors c.params
  else if collOp op then (collParams c).2
  else if op = 0x6000 then (updParams c).2
  else if op = 0x6001 then
    b2n (decide (2 < fieldAt c.params 0 1)) + b2n (decide (1 < fieldAt c.params 1 1)) + b2n (decide (1 < fieldAt c.params 2 1))
  else if op = 0x6002 then deriveClamps c
  else if op = 0x6003 ∨ op = 0x6004 then exportClamps c
  else 0

/-- What a frame names beside data (R45, R169, R170, R317): descriptor entries, a vector program, a feeder frame with its own descriptors, a group
descriptor. -/
def State.watchOf (s : State) (op kind : Nat) (f params : List Byte) : List (Nat × Nat) :=
  let vprog := fieldAt params 0 8
  let feeder := fieldAt params 0x10 8
  let some' (a n : Nat) : List (Nat × Nat) := if s.cutLen a n = 0 then [] else [(a, s.cutLen a n)]
  slotWatch op f ++ (extraOffsets op kind).flatMap (fun o => handleWatch (fieldAt params o 4)) ++
    (if op = 0x2000 then
       some' vprog (8 * min 7168 (fieldAt params 8 2)) ++
         (if fieldAt params 0x0A 1 = 1 then
            (let g := s.peekBytes feeder (s.cutLen feeder 128)
             some' feeder 128 ++ slotWatch (fieldAt g 0 2) g) else [])
     else []) ++
    (if collOp op then some' (fieldAt params 0 8) (s.groupBytes (fieldAt params 0 8)) else [])

/-- The command of a frame in queue q, and how many of its fields are clamped. -/
def State.decodeCmd (s : State) (q : Nat) (f : List Byte) : Cmd × Nat :=
  let (op, nOp) := s.frameOpcode f
  let flags := fieldAt f 2 2
  let ver := fieldAt f 4 1
  let badVer := !(decide (0x10 ≤ ver ∧ ver ≤ 0x1F) || decide (ver = 0x21))
  let resultEn := bitOf flags 2
  let slot := fieldAt f 6 2
  let weir (en : Bool) (off : Nat) : Bool := en && decide (fieldAt f off 2 < 0x100)
  let badWait := weir (bitOf flags 0) 8
  let badSig := weir (bitOf flags 1) 0x0C
  let n := s.partCores (q / 64)
  let cf0 := fieldAt f 0x0E 2
  let cf := min cf0 (n - 1)
  let cc0 := fieldAt f 0x10 2
  let cc := if cc0 = 0 then n - cf else min cc0 (n - cf)
  let params := (f.drop 0x30).take 64
  let kind := fieldAt params 0x12 1
  let ts := (List.range 4).map (s.slotTensor op f)
  let xs := (extraOffsets op kind).map (fun o => readTensor s (fieldAt params o 4) (decide (op = 0x3001)) true)
  let (prog, nProg) := if op = 0x2000 then s.readProgram params else ([], 0)
  let (feeder, nFeed) := if op = 0x2000 then s.readFeeder params else (none, 0)
  let (group, nGroup) := if collOp op then s.readGroup (fieldAt params 0 8) else (none, 0)
  let c : Cmd :=
    { queue := q, seq := fieldAt f 0x78 8, opcode := op, waitEn := bitOf flags 0 && !badWait, signalEn := bitOf flags 1 && !badSig, resultEn := resultEn,
      ordered := bitOf flags 3, tideStart := bitOf flags 4, slot := slot % 16384, waitWeir := fieldAt f 8 2, waitGen := fieldAt f 0x0A 2,
      signalWeir := fieldAt f 0x0C 2, coreFirst := cf, coreCount := if namesCores op then cc else 0, tideMark := fieldAt f 0x18 8,
      tag := BitVec.ofNat 64 (fieldAt f 0x70 8), params := params, tensors := ts.map (·.1), extras := xs.map (·.1), prog := prog, feeder := feeder,
      group := group, frame := f, selfOverlap := false, predicted := none,
      watch := s.watchOf op kind f params }
  let (rd, wr) := c.footprint
  let clamps := nOp + b2n badVer + b2n (resultEn && decide (16383 < slot)) + b2n badWait + b2n badSig + b2n (decide (n - 1 < cf0)) + b2n (decide (n - cf < cc0)) +
    (ts.map (·.2)).sum + (xs.map (·.2)).sum + nProg + nFeed + nGroup + s.opClamps c
  ({ c with selfOverlap := rangesMeet rd wr }, clamps)

/-- Decode a frame of a queue: its command joins the decoded ones; clamps are tallied once (`tally`), operand lines and predicted expert
weights are prefetched (R53, R61, R212). -/
def State.decodeFrame (s : State) (q : Nat) (f : List Byte) (tally : Bool) : State × Cmd :=
  let (c, n) := s.decodeCmd q f
  let s1 := s.modQueue q (fun x => { x with tally := x.tally + (if tally then n else 0) })
  let (s2, pred) := if c.opcode = 0x4000 then s1.routePredict q c.seq (routeParams s c.tensors (lget TDesc.null c.extras 0) c.params).1 else (s1, none)
  let s3 := (s2.prefetch q c.footprint.1).1
  (s3, { c with predicted := pred })

end Sys2Proof.Machine
end

