-- ==== Sys2Proof/Machine/Ledger.lean ====
section
/-! DEFINITION. The ledger Juica (R368 to R387): interval close and attribution, requests and their records, signing and chaining,
the records' way into the ring; and the keys of R449. -/

namespace Sys2Proof.Machine

open Sys2Proof

/-! ### Keys (R449) -/

/-- The labels WNV-IDENT-1 and WNV-LEDGER-1 as ASCII. -/
def keyLabel (ledger : Bool) : List Byte :=
  if ledger then [0x57, 0x4E, 0x56, 0x2D, 0x4C, 0x45, 0x44, 0x47, 0x45, 0x52, 0x2D, 0x31]
  else [0x57, 0x4E, 0x56, 0x2D, 0x49, 0x44, 0x45, 0x4E, 0x54, 0x2D, 0x31]

/-- A private key derived from the device root. -/
def deviceKey (ledger : Bool) : Nat :=
  beVal (hkdf (beBytes 32 (Config.deviceRoot 0)) (List.replicate 32 0) (keyLabel ledger) 48) % (p256n - 1) + 1

/-- DEVICE_ID: the first 16 bytes of the SHA-256 of the identity public key. -/
def deviceId : List Byte := (sha256 (p256pub (deviceKey false))).take 16

/-- A signature under a derived key; zeros once debug has zeroised the keys (R454). -/
def State.signWith (s : State) (ledger : Bool) (m : List Byte) : List Byte :=
  if s.gau.keysZero then List.replicate 64 0 else ecdsaSign (deviceKey ledger) m

/-! ### Parts of records -/

/-- Change the ledger. -/
def State.modJui (s : State) (f : JuiSt → JuiSt) : State := { s with jui := f s.jui }

/-- WEIGHTS_ID (R382). -/
def JuiSt.weightsId (j : JuiSt) : List Byte := (sha256 (j.weights.flatMap (leBytes 2))).take 8

/-- CAL_ID (R382). -/
def State.calId (s : State) : List Byte := (sha256 ((s.boot.manifest.map (·.calibration)).getD [])).take 8

/-- Bytes 0x00 to 0x9F of a record (R380). -/
def recordHead (type fl seq first last : Nat) (body : List Byte) : List Byte :=
  leBytes 2 1 ++ leBytes 1 type ++ leBytes 1 fl ++ leBytes 4 0 ++ leBytes 8 seq ++ leBytes 8 first ++ leBytes 8 last ++ padTo 128 body

/-- A REQUEST body (R381). -/
def Req.body (r : Req) (queue id : Nat) : List Byte :=
  leBytes 2 queue ++ leBytes 2 0 ++ leBytes 4 id ++ leBytes 8 r.eAttr ++ leBytes 8 r.eDyn ++ leBytes 8 (r.eAttr - r.eDyn) ++ leBytes 8 r.modelRaw ++
    leBytes 8 r.occ ++ leBytes 4 r.commands ++ leBytes 4 r.intervals ++ leBytes 4 r.replays ++ leBytes 4 0 ++ r.activity.flatMap (leBytes 8)

/-- Open requests by place, ascending. -/
def JuiSt.openReqs (j : JuiSt) : List (Nat × Req) :=
  j.places.filterMap (fun p => p.2.map (fun r => (p.1, r)))

/-- TOTAL_OPEN: energy of the requests still open, the overflow account with them. -/
def JuiSt.totalOpen (j : JuiSt) : Nat := (j.openReqs.map (fun p => p.2.eAttr)).sum + j.overflow.eAttr

/-- A HEARTBEAT or FINAL body (R382). -/
def State.heartbeatBody (s : State) : List Byte :=
  let j := s.jui
  leBytes 8 j.totalIn ++ leBytes 8 j.totalClosed ++ leBytes 8 j.totalOpen ++ leBytes 8 j.totalIdle ++ leBytes 8 j.totalSlack ++ leBytes 8 j.spanIn ++
    leBytes 4 j.openReqs.length ++ leBytes 4 j.recordsInSpan ++ leBytes 8 j.unsyncMarks ++ leBytes 8 j.scaledIntervals ++ j.weightsId ++ s.calId ++
    leBytes 8 j.bootCount ++ leBytes 4 s.tide.periodUs ++ leBytes 1 s.tide.st

/-- A START body (R383, R454). -/
def State.startBody (s : State) : List Byte :=
  (if s.gau.keysZero then List.replicate 64 0 else p256pub (deviceKey true)) ++ leBytes 8 s.jui.bootCount ++ s.jui.weightsId ++ s.calId ++
    leBytes 4 s.tide.periodUs

/-- Queue a record; PREV_HASH and SIGNATURE join it when it is signed. -/
def State.emit (s : State) (type fl first last : Nat) (body : List Byte) : State :=
  s.modJui (fun j => { j with queued := j.queued ++ [recordHead type fl j.seq first last body], seq := j.seq + 1, records := j.records + 1 })

/-- Sign the oldest queued record (R385). -/
def State.signNext (s : State) : State × List Byte :=
  match s.jui.queued with
  | [] => (s, [])
  | r :: rest =>
    let m := r ++ padTo 32 s.jui.prevHash
    let full := m ++ s.signWith true m
    let s1 := s.modJui (fun j => { j with queued := rest, prevHash := sha256 full })
    (s1, full)

/-- What the gauge keeps of a signed record (R443): the latest heartbeat and FINAL; every 1,024th heartbeat and FINAL in an anchor. -/
def State.keepLedger (s : State) (r : List Byte) : State :=
  let t := fieldAt r 2 1
  if t < 2 then s
  else
    let s1 := { s with gau := { s.gau with savedRecord := r } }
    if t = 3 || decide (s.jui.heartbeats % 1024 = 0) then
      { s1 with gau := { s1.gau with anchors := lset (s1.gau.anchors ++ List.replicate (8 - s1.gau.anchors.length) []) (s1.gau.anchorNext % 8) r,
                                     anchorNext := (s1.gau.anchorNext + 1) % 8 } }
    else s1

/-- In slack or in the coolant hold. -/
def SpwSt.asleep (x : SpwSt) : Bool := decide (x.slack ≠ 0) || decide (x.stop ≠ 0)

/-- LEDGER_RECORD_WRITE (R379, R384, R385): the oldest queued record is signed and written into its ring place, or counted lost. Records
wait before stage 8, in slack and in the coolant hold. (DEDUCED: notes/assumptions/48) -/
def execLedgerRecordWrite (s : State) : Host.Outcome State Fault Refusal :=
  if s.jui.queued.isEmpty || !s.boot.ready || s.spw.asleep then .next s
  else
    let (s1, r) := s.signNext
    let a := s1.jui.ringBase + 256 * (fieldAt r 8 8 % 1048576)
    let s2 := s1.keepLedger r
    if s2.inWindow a then .next (s2.poke a r) else .next (s2.modJui (fun j => { j with ringLost := j.ringLost + 1 }))

/-! ### Interval close (R369, R371, R376, R377) -/

/-- CORE set point in mV of a grid point (R355). -/
def gridMv (f : Nat) : Nat :=
  if f = 0 then 0
  else lget 0 [620, 635, 650, 665, 680, 700, 720, 750, 780, 790, 800] ((f - 600) / 50)

/-- Start the unbooked occupancy of a sequencer's commands afresh. -/
def SeqSt.rebook (now : Nat) (q : SeqSt) : SeqSt :=
  { q with wake := q.wake.map (fun (e : WakeEntry) => { e with reachNs := now }) }

/-- Start the unbooked occupancy of a channel's chains afresh. -/
def DmaCh.rebook (now : Nat) (x : DmaCh) : DmaCh :=
  let f (h : ChainHead) : ChainHead := { h with since := now }
  { x with active := x.active.map f, fifo := x.fifo.map f }

/-- The chains of a channel. -/
def DmaCh.heads (x : DmaCh) : List ChainHead := x.active.toList ++ x.fifo

/-- The chains of a core. -/
def CoreSt.heads (c : CoreSt) : List ChainHead := c.dma.ch.flatMap (fun x => x.2.heads)

/-- Start the unbooked occupancy of a core's chains afresh. -/
def CoreSt.rebook (now : Nat) (c : CoreSt) : CoreSt :=
  { c with dma := { c.dma with ch := tmapAll DmaCh.zero (fun _ x => x.rebook now) c.dma.ch } }

/-- Book the occupancy of commands and detached chains in flight up to now (R376). -/
def State.bookInFlight (s : State) : State :=
  let s1 := s.allEntries.foldl (fun st e => st.bookOcc e.cmd.queue (reqId e.cmd.tag) ((s.nowNs - e.reachNs) * max 1 e.cmd.coreCount)) s
  let s2 := { s1 with seqs := tmapAll SeqSt.zero (fun _ q => q.rebook s.nowNs) s1.seqs }
  let bookHead (st : State) (h : ChainHead) : State :=
    match h.req with
    | some (q, id) => if h.detached then st.bookOcc q id (s.nowNs - h.since) else st
    | none => st
  let s3 := (s2.cores.flatMap (fun c => c.2.heads)).foldl bookHead s2
  { s3 with cores := tmapAll CoreSt.zero (fun _ c => c.rebook s.nowNs) s3.cores }

/-- Has a request a command or a detached chain in flight (R374). -/
def State.reqInFlight (s : State) (q id : Nat) : Bool :=
  s.allEntries.any (fun e => decide (e.cmd.queue = q) && decide (reqId e.cmd.tag = id)) ||
  s.cores.any (fun c => c.2.heads.any (fun h => h.detached && decide (h.req = some (q, id))))

/-- D_r: the modelled dynamic energy of one interval (R376). -/
def modelEnergy (weights act : List Nat) (mv : Nat) : Nat :=
  let term (c : Nat) : Nat := lget 0 weights c * lget 0 act c * (if c < 2 then mv * mv else 608400)
  ((List.range 8).map term).sum / 608400000

/-- One request's share of an interval: place, occupancy, D_r, then dyn_r and A_r. -/
structure Share where
  place : Nat
  occ : Nat
  d : Nat
  dyn : Nat
  a : Nat
  deriving DecidableEq, Repr

/-- The split of E over the requests with occupancy (R377), and whether the interval is SCALED. (DESIGN CHOICE: notes/assumptions/49) -/
def splitEnergy (e : Nat) (rs : List (Nat × Nat × Nat)) : List Share × Bool :=
  let dd := (rs.map (fun r => r.2.2)).sum
  let t := (rs.map (fun r => r.2.1)).sum
  let sh := rs.map (fun r =>
    if dd ≤ e then { place := r.1, occ := r.2.1, d := r.2.2, dyn := r.2.2, a := r.2.2 + (e - dd) * r.2.1 / t }
    else { place := r.1, occ := r.2.1, d := r.2.2, dyn := e * r.2.2 / dd, a := e * r.2.2 / dd : Share })
  let res := e - (sh.map (·.a)).sum
  let best := sh.foldl (fun (b : Option Share) x => match b with
    | some y => if y.occ < x.occ then some x else some y
    | none => some x) none
  match best with
  | some b => (sh.map (fun x => if x.place = b.place then { x with a := x.a + res } else x), decide (e < dd))
  | none => (sh, false)

/-- The place number of the overflow account in the split. -/
def overflowPlace : Nat := 4096

/-- Add one interval to a request. -/
def Req.close (r : Req) (sh : Option Share) (fl : Nat) : Req :=
  let r1 := { r with flags := r.flags ||| BitVec.ofNat 8 fl, curOcc := 0, curAct := [0, 0, 0, 0, 0, 0, 0, 0] }
  match sh with
  | none => { r1 with idle := r1.idle + 1 }
  | some x => { r1 with idle := 0, intervals := r1.intervals + 1, occ := r1.occ + x.occ, eAttr := r1.eAttr + x.a, eDyn := r1.eDyn + x.dyn,
                        modelRaw := r1.modelRaw + x.d, activity := (r.activity.zip r.curAct).map (fun p => p.1 + p.2) }

/-- Emit the REQUEST record of a closing request (R374, R381). -/
def State.emitRequest (s : State) (r : Req) (queue id extra last : Nat) : State :=
  (s.emit 1 (r.flags.toNat + extra) r.firstMark last (r.body queue id)).modJui (fun j =>
    { j with totalClosed := (j.totalClosed + r.eAttr) % 2 ^ 64, recordsInSpan := j.recordsInSpan + 1 })

/-- Free queue places beyond the two kept for heartbeats and FINAL (R384). -/
def JuiSt.hasRoom (j : JuiSt) : Bool := decide (j.queued.length < 4094)

/-- Close one request if a case of R374 holds at mark m. -/
def State.closeRequest (s : State) (m : Nat) (beat : Bool) (place : Nat) (r : Req) : State :=
  let done := r.finished && !s.reqInFlight r.queue r.reqId
  let timeout := decide (s.jui.closeMarks ≤ r.idle)
  let large := beat && decide (2 ^ 62 ≤ r.eAttr)
  if !done && !timeout && !large then s
  else if !s.jui.hasRoom then s.modJui (fun j => { j with deferredCloses := j.deferredCloses + 1 })
  else if done || timeout then
    (s.emitRequest r r.queue r.reqId (if done then 0 else 16) m).modJui (fun j =>
      { j with places := tset none j.places place none, timeouts := j.timeouts + b2n (!done) })
  else
    (s.emitRequest r r.queue r.reqId 32 m).modJui (fun j =>
      { j with places := tset none j.places place (some { Req.zero with queue := r.queue, reqId := r.reqId, firstMark := m, finished := r.finished }) })

/-- Emit the overflow record if one is due (R373). -/
def State.closeOverflow (s : State) (m : Nat) : State :=
  let o := s.jui.overflow
  if o.eAttr = 0 || !s.jui.hasRoom then s
  else (s.emitRequest o 0xFFFF 0xFFFFFFFF 128 m).modJui (fun j => { j with overflow := { Req.zero with firstMark := m } })

/-- Emit a HEARTBEAT or FINAL over the span since the last one (R382, R384). -/
def State.emitSpan (s : State) (type last : Nat) : State :=
  (s.emit type s.jui.spanFlags.toNat s.jui.spanFirst last s.heartbeatBody).modJui (fun j =>
    { j with spanIn := 0, spanFirst := last, spanFlags := 0, recordsInSpan := 0, heartbeats := j.heartbeats + b2n (decide (type = 2)) })

/-- The interval closes at mark m (step 1 of R77). (DEDUCED: notes/assumptions/48) -/
def State.ledgerClose (s0 : State) (m : Nat) : State :=
  if !s0.jui.running then s0
  else
    let s := s0.bookInFlight
    let j := s.jui
    let e := j.acc / 65536
    let slk := s.spw.asleep
    let unsync := s.tide.intervalUnsync || decide (s.tide.st = 0) || decide (s.tide.st = 3)
    let mv := gridMv s.spw.freq
    let all := j.openReqs ++ [(overflowPlace, j.overflow)]
    let parts := if slk then [] else (all.filter (fun p => decide (0 < p.2.curOcc))).map (fun p => (p.1, p.2.curOcc, modelEnergy j.weights p.2.curAct mv))
    let (shares, scaled) := splitEnergy e parts
    let idle := if parts.isEmpty then e else 0
    let fl := b2n unsync + 2 * b2n s.tide.intervalStep + 4 * b2n slk + 8 * b2n scaled
    let share (p : Nat) : Option Share := findFirst (fun x => decide (x.place = p)) shares
    let s1 := s.modJui (fun x =>
      { x with acc := x.acc % 65536, totalIn := (x.totalIn + e) % 2 ^ 64, totalIdle := (x.totalIdle + idle) % 2 ^ 64,
               totalSlack := (x.totalSlack + (if slk then idle else 0)) % 2 ^ 64, unsyncMarks := x.unsyncMarks + b2n unsync,
               scaledIntervals := x.scaledIntervals + b2n scaled, spanIn := (x.spanIn + e) % 2 ^ 64, spanFlags := x.spanFlags ||| BitVec.ofNat 8 fl,
               places := x.places.map (fun p => (p.1, p.2.map (fun r => r.close (share p.1) fl))), overflow := x.overflow.close (share overflowPlace) fl })
    let beat := (decide (m % 10000 = 0) || s1.tide.heartbeatDue) && !slk
    let s2 := s1.jui.openReqs.foldl (fun st p => st.closeRequest m beat p.1 p.2) s1
    let s3 := if beat then s2.closeOverflow m else s2
    let s4 := if beat && decide (s3.jui.queued.length < 4095) then s3.emitSpan 2 m else s3
    { s4 with tide := { s4.tide with intervalStep := false, intervalUnsync := false, heartbeatDue := s4.tide.heartbeatDue && slk } }

/-! ### Start and end of the books (R384, R387) -/

/-- START (R384): metering begins. -/
def State.ledgerStart (s : State) : State :=
  (s.modJui (fun j => { j with running := true, prevHash := sha256OrZero j.chainStart, seq := 0 })).emit 0 0 0 0 s.startBody
where
  /-- The hash of the record the gauge saved, or zero when there is none (R385). -/
  sha256OrZero (r : List Byte) : List Byte := if r.isEmpty then List.replicate 32 0 else sha256 r

/-- Sign every queued record, keeping what the gauge saves; `n` bounds them. -/
def signAll : Nat → State → State
  | 0, s => s
  | n + 1, s =>
    if s.jui.queued.isEmpty then s
    else
      let (s1, r) := s.signNext
      signAll n (s1.keepLedger r)

/-- Every open request closes with CUT and FINAL closes the books (R374, R387); the gauge saves FINAL. (DEDUCED: notes/assumptions/48) -/
def State.ledgerFinal (s : State) : State :=
  if !s.jui.running then s
  else
    let m := s.tide.count
    let s1 := s.jui.openReqs.foldl (fun st p =>
      (st.emitRequest p.2 p.2.queue p.2.reqId 64 m).modJui (fun j => { j with places := tset none j.places p.1 none })) s
    let s2 := if s1.jui.overflow.eAttr = 0 then s1 else s1.closeOverflow m
    let s3 := s2.emitSpan 3 m
    (signAll s3.jui.queued.length s3).modJui (fun j => { j with running := false })

end Sys2Proof.Machine
end

