-- ==== Sys2Proof/Machine/Power.lean ====
section
/-! DEFINITION. Power, droop and thermal control (R349 to R367): the cap and its bucket, the fast limits, DVFS steps decided at marks, the
droop clamp, the thermal loop, slack and its wake. -/

namespace Sys2Proof.Machine

open Sys2Proof

/-- Change the power controller. -/
def State.modSpw (s : State) (f : SpwSt → SpwSt) : State := { s with spw := f s.spw }

/-! ### Meter samples: cap, bucket and fast limits (R349, R350) -/

/-- 1 W for 2 µs in units of 2^-16 nJ. -/
def wattSample : Nat := 2000 * 65536

/-- Bmax in units of 2^-16 nJ: (2,800 W − CAP) × 20 ms. -/
def SpwSt.bucketMax (x : SpwSt) : Nat := (2800 - x.capW) * 10000 * wattSample

/-- Is the 1 ms mean input power above `w` watts. -/
def SpwSt.meanAbove (x : SpwSt) (w : Nat) : Bool := decide (500 * w * wattSample < x.samples.sum)

/-- Is the 16 µs mean input power above `w` watts. -/
def SpwSt.peakAbove (x : SpwSt) (w : Nat) : Bool := decide (8 * w * wattSample < (x.samples.take 8).sum)

/-- Is the 16 µs mean CORE current above `ma` milliamperes. -/
def SpwSt.currentAbove (x : SpwSt) (ma : Nat) : Bool := decide (8 * ma < x.currents.sum)

/-- Is the 16 µs mean input power below `w` watts. -/
def SpwSt.peakBelow (x : SpwSt) (w : Nat) : Bool := decide ((x.samples.take 8).sum < 8 * w * wattSample)

/-- Is the 16 µs mean CORE current below `ma` milliamperes. -/
def SpwSt.currentBelow (x : SpwSt) (ma : Nat) : Bool := decide (x.currents.sum < 8 * ma)

/-- Do the domains stand at their floors (R351). -/
def SpwSt.allFloors (x : SpwSt) : Bool := decide (x.freq ≤ 600) && decide (x.lvSlow ≤ 4) && decide (x.memLevel ≤ 4) && decide (x.linkLevel ≤ 4)

/-- The target of R352. -/
def SpwSt.targetW (x : SpwSt) : Nat := if x.bucketFull then x.capW else 2800

/-- The books and fast limits after one sample. -/
def SpwSt.sample (x0 : SpwSt) (energy ma : Nat) : SpwSt :=
  let x := { x0 with samples := (energy :: x0.samples).take 500, currents := (ma :: x0.currents).take 8, sampleNo := x0.sampleNo + 1 }
  let b := min x.bucketMax (x.bucket + energy - x.capW * wattSample)
  let full := decide (b = x.bucketMax)
  let hit := full && decide (x.bucket < x.bucketMax)
  let y := { x with bucket := b, bucketFull := full || (x.bucketFull && decide (b ≠ 0)), bucketFulls := x.bucketFulls + b2n hit }
  let every (n : Nat) : Bool := decide (y.sampleNo % n = 0)
  let peak := y.peakAbove 2800
  let lvPeak := if peak then max 4 (y.lvPeak - 4) else if every 8 && y.peakBelow 2600 then min 16 (y.lvPeak + 1) else y.lvPeak
  let lvCur := if y.currentAbove 1700000 then max 4 (y.lvCurrent - 1) else if every 8 && y.currentBelow 1650000 then min 16 (y.lvCurrent + 1) else y.lvCurrent
  let lvBkt := if full && y.meanAbove y.capW && every 50 then max 4 (y.lvBucket - 1) else y.lvBucket
  let slow := if y.allFloors && y.meanAbove y.targetW && every 50 then max 1 (y.lvSlow - 1) else y.lvSlow
  { y with lvPeak := lvPeak, peakEvents := y.peakEvents + b2n peak, lvCurrent := lvCur, lvBucket := lvBkt, lvSlow := slow }

/-- METER_SAMPLE (R349, R350, R368, R369): energy in units of 2^-16 nJ and the CORE current in mA. -/
def execMeterSample (energy coreMilliamps : Nat) (s : State) : Host.Outcome State Fault Refusal :=
  let s1 := if s.jui.running then s.modJui (fun j => { j with acc := j.acc + energy }) else s
  .next (s1.modSpw (fun x => x.sample energy coreMilliamps))

/-! ### Temperatures (R359, R439) -/

/-- The hottest junction point, in 1/16 °C. -/
def State.hottest (s : State) : Int := s.gau.temps.foldl (fun m t => max m t.2) 0

/-- The hottest near-tier stack, in 1/16 °C. -/
def State.hottestNear (s : State) : Int := (s.gau.memTemps.filter (fun t => decide (t.1 < 8))).foldl (fun m t => max m t.2) 0

/-- The thermal loop at a mark (R359). -/
def State.thermalMark (s : State) : State :=
  let hot := s.hottest
  let near := s.hottestNear
  s.modSpw (fun x =>
    let x1 := if 1600 ≤ hot then
        (if 600 < x.target then { x with target := x.target - 50, thermalHold := true }
         else { x with lvThermal := x.lvThermal - 2, thermalHold := true })
      else if hot ≤ 1552 then
        (let lv := min 16 (x.lvThermal + 1)
         { x with lvThermal := lv, thermalHold := x.thermalHold && (decide (lv < 16) || decide (min x.freq x.target < x.freqBase)) })
      else x
    if 1520 ≤ near then { x1 with memHot := max 4 (x1.memLevel - 2) }
    else if near ≤ 1472 then { x1 with memHot := min 16 (x1.memHot + 1) }
    else x1)

/-! ### The slow loop and DVFS at a mark (R352, R353, R356) -/

/-- The domains in the order they are cut (R352, SPW_CFG). -/
def SpwSt.order (x : SpwSt) : List Nat := x.cutOrder

/-- Cut a domain by `k` steps; none at its floor (R351, R352). (DESIGN CHOICE: notes/assumptions/46) -/
def SpwSt.cut (x : SpwSt) (k dom : Nat) : Option SpwSt :=
  if dom = 0 then
    (if 600 < x.target then some { x with target := max 600 (x.target - 50 * k), powerHold := true }
     else if 4 < x.lvSlow then some { x with lvSlow := max 4 (x.lvSlow - k), powerHold := true }
     else none)
  else if dom = 1 then (if 4 < x.memLevel then some { x with memSlow := max 4 (x.memLevel - k) } else none)
  else if 4 < x.linkLevel then some { x with linkLevel := max 4 (x.linkLevel - k) }
  else none

/-- Restore a domain by one step; none when it stands at its top (R353). `rise` allows the clock to rise. (DESIGN CHOICE: notes/assumptions/46) -/
def SpwSt.restore (x : SpwSt) (rise : Bool) (dom : Nat) : Option SpwSt :=
  if dom = 0 then
    (if x.lvSlow < 16 then some { x with lvSlow := x.lvSlow + 1 }
     else if rise && decide (x.target < (if x.boostEn then max x.freqBase x.boostMax else x.freqBase)) then some { x with target := x.target + 50 }
     else none)
  else if dom = 1 then (if x.memSlow < 16 then some { x with memSlow := x.memSlow + 1 } else none)
  else if x.linkLevel < 16 then some { x with linkLevel := x.linkLevel + 1 }
  else none

/-- The first that succeeds. -/
def firstSome {α β : Type} (f : α → Option β) : List α → Option β
  | [] => none
  | a :: t => match f a with
    | some b => some b
    | none => firstSome f t

/-- Has the slow loop let go: the clock in force and the decided one stand at FREQ_BASE again, and the spillway level (R361). -/
def SpwSt.released (x : SpwSt) : SpwSt :=
  { x with powerHold := x.powerHold && (decide (min x.freq x.target < x.freqBase) || decide (x.lvSlow < 16)) }

/-- May a level be restored (R353): the 1 ms mean power with the step's predicted rise `dp` stays at or below 98% of CAP, and the CORE current
with its predicted rise `di` at or below 1,690 A. The rises are what the controller's model gives. (DESIGN CHOICE: notes/assumptions/46) -/
def SpwSt.restoreFits (x : SpwSt) (dp di : Nat) : Bool :=
  decide (100 * (x.samples.sum + dp) ≤ 98 * 500 * x.capW * wattSample) && decide (x.currents.sum + di ≤ 8 * 1690000)

/-- Restore at most one step at a mark: the bucket's level once B is 0, else the domain cut last (R350, R353). -/
def SpwSt.restoreOne (x : SpwSt) (rise : Bool) : SpwSt :=
  if x.lvBucket < 16 ∧ x.bucket = 0 then { x with lvBucket := x.lvBucket + 1 }
  else (firstSome (fun d => x.restore rise d) x.order.reverse).getD x

/-- The controller decides the frequency of the next mark (R352, R353, R356). The number of steps of a cut and the predicted rises of a restore
are what its model gives, which the manual leaves open: free values. (DESIGN CHOICE: notes/assumptions/46) -/
def State.decideMark (s : State) : State :=
  let (k, s1) := s.fresh
  let (dp, s2) := s1.fresh
  let (di, s3) := s2.fresh
  let blocked := s.spw.thermalHold && decide (1552 < s.hottest)
  let x := s3.spw
  let y :=
    if x.meanAbove x.targetW then (firstSome (fun d => x.cut (k % 11 + 1) d) x.order).getD x
    else if x.restoreFits dp di then x.restoreOne (!blocked)
    else x
  s3.modSpw (fun _ => { y.released with coreMv := max (gridMv (y.inFlight.map (·.2) |>.getD y.freq)) (max (gridMv y.freq) (gridMv y.target)) })

/-- Step 3 of R77: the step decided at the last mark begins, and the next is decided. -/
def State.dvfsMark (s : State) : State :=
  if s.spw.asleep || decide (s.spw.freq = 0) then s
  else
    let x := s.spw
    let s1 := if x.target = x.freq then s else s.modSpw (fun y => { y with inFlight := some (x.freq, x.target) })
    s1.thermalMark.decideMark

/-- DVFS_STEP_IN_FORCE (R356): the switched frequency is in force; CORE stands at the higher of it and a rise being prepared. -/
def execDvfsStepInForce (s : State) : Host.Outcome State Fault Refusal :=
  match s.spw.inFlight with
  | none => .next s
  | some (o, n) =>
    .next (s.modSpw (fun x =>
      { x with freq := n, inFlight := none, coreMv := max (gridMv n) (gridMv x.target), stepsUp := x.stepsUp + (n - o) / 50,
               stepsDown := x.stepsDown + (o - n) / 50 }))

/-- DROOP_DETECT (R358). (DEDUCED: notes/assumptions/47) -/
def execDroopDetect (s : State) : Host.Outcome State Fault Refusal :=
  .next (s.modSpw (fun (x : SpwSt) =>
    let x1 : SpwSt := { x with droops := x.droops + 1, lvDroop := 4 }
    let held : Nat := match x1.inFlight with
      | some (o, n) => min o n
      | none => x1.freq
    let landing : Nat := (x1.inFlight.map (·.2)).getD x1.freq
    let cancel := decide (landing < x1.target)
    { x1 with inFlight := x1.inFlight.map (fun p => (p.1, held)), target := min x1.target held, droopCancels := x1.droopCancels + b2n cancel,
              coreMv := max (gridMv x1.freq) (gridMv held) }))

/-- DROOP_RELEASE (R358): the clamp releases one sixteenth, and ends at the level the other sources set. (DEDUCED: notes/assumptions/47) -/
def execDroopRelease (s : State) : Host.Outcome State Fault Refusal :=
  .next (s.modSpw (fun x =>
    let others := SpwSt.level { x with lvDroop := 16 }
    { x with lvDroop := if others ≤ x.lvDroop + 1 then 16 else x.lvDroop + 1 }))

/-! ### Throttled time (R362) -/

/-- One nanosecond of local time: throttle and spillway times (R354, R362). (DESIGN CHOICE: notes/assumptions/3) -/
def SpwSt.tick (x : SpwSt) : SpwSt :=
  { x with throttleNs := tmod 0 x.throttleNs x.reason (· + 1), spillNs := x.spillNs + b2n (decide (x.level < 16)) }

/-- Note the throttled time at a mark. -/
def State.noteThrottle (s : State) (m : Nat) : State :=
  s.modSpw (fun x => if x.throttledAt m = x.throttled then x else { x with throttleMarks := tset 0 x.throttleMarks m x.throttled })

/-! ### Slack (R363 to R365) -/

/-- Is the device idle (R363). -/
def State.idle (s : State) : Bool :=
  s.queues.all (fun q => q.2.arrived.isEmpty && q.2.decoded.isEmpty) && s.allEntries.isEmpty && s.cores.all (fun c => c.2.heads.isEmpty) &&
    s.coll.openColls.isEmpty && s.coll.flipped.isEmpty && s.coll.repairs.all (·.complete) && s.llc.rangeQueue.isEmpty && s.dlt.busyQueue.isNone &&
    s.train.engines.all (fun u => u.2.running.isNone) && s.train.token.isNone && !s.frd.partnerPresent

/-- Slack entry begins when it is due at a mark (R364). -/
def State.slackMark (s : State) : State :=
  if s.spw.asleep || !s.boot.ready then s
  else if !s.idle then s.modSpw (fun x => { x with idleMarks := 0 })
  else
    let n := s.spw.idleMarks + 1
    if s.spw.slackReq || (decide (s.spw.slackIdleMarks ≠ 0) && decide (s.spw.slackIdleMarks ≤ n)) then
      s.modSpw (fun x => { x with slack := 1, slackReq := false, idleMarks := 0, slackFreq := x.freq, slackEntries := x.slackEntries + 1 })
    else s.modSpw (fun x => { x with idleMarks := n })

/-- Operand scratch and instruction memory are lost with CORE (R364). -/
def CoreSt.coreOff (c : CoreSt) : CoreSt := { c with scratch := [], scratchPoison := [], vec := { c.vec with prog := [], progBase := 0 } }

/-- SLACK_ENTRY_DONE (R364): the cache is cleared, CORE removed. A trigger seen during entry starts the wake now (R365). -/
def execSlackEntryDone (s : State) : Host.Outcome State Fault Refusal :=
  if s.spw.slack ≠ 1 then .next s
  else
    let s1 := s.clearCache
    let s2 := { s1 with cores := tmapAll CoreSt.zero (fun _ c => c.coreOff) s1.cores }
    .next (s2.modSpw (fun x => { x with slack := if x.slackWake then 3 else 2, slackWake := false, freq := 0, target := 0, coreMv := 0, inFlight := none }))

/-- A request packet met in slack or in the coolant hold is dropped and counted (R365, R366). (DEDUCED: notes/assumptions/47) -/
def State.slackDrop (s : State) : State := s.modSpw (fun x => { x with slackDropped := x.slackDropped + 1 })

/-! ### Sensors (R439, R440) -/

/-- Readings as a table. -/
def readingTbl (l : List Int) : Tbl Int := ((List.range l.length).map (fun i => (i, lget 0 l i))).filter (fun p => decide (p.2 ≠ 0))

/-- RAIL_SAMPLE (R440): voltage and current of rails 0 to 8. -/
def execRailSample (readings : List (Nat × Nat)) (s : State) : Host.Outcome State Fault Refusal :=
  let r := ((List.range (min 9 readings.length)).map (fun i => (i, lget (0, 0) readings i))).filter (fun p => decide (p.2 ≠ (0, 0)))
  .next { s with gau := { s.gau with rails := r } }

end Sys2Proof.Machine
end

