-- ==== Sys2Proof/Machine/Seq.lean ====
section
/-! DEFINITION. The sequencers (R33 to R56, R372, R402): decoding, reach with the wake log, completion, and the commands that do no work on
tensors: NOP, FENCE, the weir commands, CAPS, TELEMETRY. -/

namespace Sys2Proof.Machine

open Sys2Proof

/-! ### FRAME_DECODE (R33, R34, R53, R306) -/

/-- Run-ahead frames a queue may hold (SEQ_RA_CFG). -/
def SeqSt.depthEff (x : SeqSt) : Nat := if x.depth = 0 then 1 else min x.depth 64

/-- Frames decoded and not reached in a partition (R53). -/
def State.partDecoded (s : State) (p : Nat) : Nat :=
  ((s.queues.filter (fun q => decide (q.1 / 64 = p))).map (fun q => q.2.decoded.length)).sum

/-- Is a partition or the whole sequencer path at rest: its reset in progress or requested at once (R401, R423), or the device asleep. -/
def State.partHeld (s : State) (p : Nat) : Bool :=
  s.spw.asleep || !s.boot.ready || s.rst.active.contains (2, p) || s.oxb.pendingReset.any (fun r => decide (r.1 = p) && r.2.2)

/-- FRAME_DECODE (R34, R53, R306, R307): the frame the queue expects is visible, and there is room to run ahead. (DESIGN CHOICE: notes/assumptions/9) -/
def execFrameDecode (q : Nat) (s : State) : Host.Outcome State Fault Refusal :=
  let x := s.queue q
  let e := x.expected % 1024
  let a := ringEntry q e
  if decide (256 ≤ q) || decide (s.partCores (q / 64) = 0) || s.partHeld (q / 64) || !x.arrived.contains (e, x.expected) ||
      decide (s.peekWord (a + 0x78) 8 ≠ x.expected) || decide ((s.seqr (q / 64)).depthEff ≤ x.decoded.length) || decide (1024 ≤ s.partDecoded (q / 64)) then
    .next s
  else
    let (s1, c) := s.decodeFrame q (s.peekBytes a 128) true
    .next (s1.modQueue q (fun y => { y with expected := y.expected + 1, arrived := y.arrived.erase (e, x.expected), decoded := y.decoded ++ [c],
                                            statusExpected := y.expected + 1, statusMark := s.tide.count }))

/-! ### COMMAND_REACH (R37, R56, R402) -/

/-- Is the queue free of commands reached and not completed. -/
def State.queueDrained (s : State) (q : Nat) : Bool := !(s.seqr (q / 64)).wake.any (fun e => decide (e.cmd.queue = q))

/-- Are the cores a command names finished with their previous command (R37). -/
def State.coresFree (s : State) (c : Cmd) : Bool :=
  (s.shares c).all (fun sh => (s.core sh.2).holder.isNone && !s.coreInReset sh.2)

/-- Does a DERIVE, EXPORT or SNAPSHOT run on any engine (R278). -/
def State.masterReaders (s : State) : Bool := s.allEntries.any (fun e => decide (0x6002 ≤ e.cmd.opcode ∧ e.cmd.opcode ≤ 0x6004))

/-- The token's condition (R278). -/
def State.tokenLets (s : State) (c : Cmd) : Bool :=
  if c.opcode = 0x6001 then s.train.token.isNone && !s.masterReaders
  else if 0x6002 ≤ c.opcode ∧ c.opcode ≤ 0x6004 then s.train.token.isNone
  else true

/-- Bytes of the version store in use (R402). -/
def SeqSt.versionBytes (x : SeqSt) : Nat := (x.wake.map (fun e => e.cmd.copyBytes)).sum

/-- Version-store copies in use. -/
def SeqSt.versionCount (x : SeqSt) : Nat := (x.wake.map (fun e => e.cmd.copies)).sum

/-- Do all conditions of R37 hold for a command. (DESIGN CHOICE: notes/assumptions/9) -/
def State.canReach (s : State) (c : Cmd) : Bool :=
  let x := s.seqr (c.queue / 64)
  (!c.waitEn || (s.weir c.waitWeir).met c.waitGen) && (!(c.ordered || decide (c.opcode = 1)) || s.queueDrained c.queue) &&
    (!c.tideStart || decide (c.tideMark ≤ s.tide.count)) && (!namesCores c.opcode || s.coresFree c) && s.tokenLets c && decide (x.wake.length < 1024) &&
    decide (x.versionBytes + c.copyBytes ≤ 2097152) && !s.tide.rest && !s.partHeld (c.queue / 64)

/-- Is it the queue's turn: no queue of its partition that comes before it in the round robin has a command ready (R37). (DESIGN CHOICE: notes/assumptions/9) -/
def State.hasTurn (s : State) (q : Nat) : Bool :=
  let first := (s.seqr (q / 64)).turn
  (List.range ((q % 64 + 64 - first) % 64)).all (fun k =>
    match (s.queue (q / 64 * 64 + (first + k) % 64)).decoded with
    | [] => true
    | c :: _ => !s.canReach c)

/-- The wake-log entry of a command reached now (R56, R402). -/
def State.newEntry (s : State) (c : Cmd) (collSeq : Nat) : WakeEntry :=
  { wakeSeq := (s.seqr (c.queue / 64)).nextWake, cmd := c, phase := 0, replays := 0,
    noReplay := collOp c.opcode || decide (c.opcode = 2) || decide (c.opcode = 3), reachMark := s.tide.count, reachNs := s.nowNs, reachedAt := s.nowNs,
    step := s.train.step, seed := s.train.seed, collSeq := collSeq, epochs := c.rows.map (fun r => (r, (s.row r).epoch)),
    ests := c.rows.map (fun r => (r, (s.row r).estG, (s.row r).estN)), started := false, ran := false, ended := false, late := false, code := 0,
    result := [], effects := [], tiles := [], planes := [], stored := [],
    guard := ((if c.opcode = 0x6000 then (updParams c).1.pair.row.map s.row else none).getD NormRow.zero).guardRow, voted := none }

/-- Its cores are the command's from reach to completion (R37). -/
def State.holdCores (s : State) (c : Cmd) : State :=
  if namesCores c.opcode then (s.shares c).foldl (fun st sh => st.modCore sh.2 (fun x => { x with holder := some (c.queue, c.seq) })) s else s

/-- COLL_SEQ taken at reach (R321). -/
def State.takeCollSeq (s : State) (c : Cmd) : State × Nat :=
  match c.group with
  | none => (s, 0)
  | some g => ({ s with coll := { s.coll with seqs := tmod 0 s.coll.seqs g.gid (· + 1) } }, tget 0 s.coll.seqs g.gid)

/-- The request of a reached command opens (R373). -/
def State.openRequest (s : State) (c : Cmd) : State :=
  if !s.jui.running then s
  else
    let (j, ok) := s.jui.openReq c.queue (reqId c.tag) s.tide.count
    { s with jui := if ok then j else { j with overflowCmds := j.overflowCmds + 1 } }

/-- The commit token goes to a COMMIT at its reach; a DERIVE of a repaired row ends its vote of fail (R278, R338). (DEDUCED: notes/assumptions/33) -/
def State.reachTrain (s : State) (c : Cmd) : State :=
  if c.opcode = 0x6001 then
    { s with train := { s.train with token := some { queue := c.queue, seq := c.seq, reachMark := s.tide.count, tideMark := c.tideMark, acted := false } } }
  else if c.opcode = 0x6002 then
    { s with coll := { s.coll with repairs := s.coll.repairs.filter (fun r => !(r.complete && decide ((c.pair 0).row = some r.row))) } }
  else s

/-- COMMAND_REACH (R37, R52, R55, R56, R228): the front decoded command of a queue is reached when its turn comes. Its provisional lines lose their tag,
and what its descriptors pin of them is pinned then. (DESIGN CHOICE: notes/assumptions/9) -/
def execCommandReach (q : Nat) (s : State) : Host.Outcome State Fault Refusal :=
  match (s.queue q).decoded with
  | [] => .next s
  | c :: rest =>
    if !s.canReach c || !s.hasTurn q then .next s
    else
      let s1 := s.closeWeirs.modQueue q (fun x => { x with decoded := rest, reached := c.seq + 1 })
      let (s2, n) := s1.takeCollSeq c
      let e := s2.newEntry c n
      let ref := (s2.seqr (q / 64)).versionCount
      let s3 := s2.modSeq (q / 64) (fun x => { x with wake := x.wake ++ [e], nextWake := x.nextWake + 1, turn := (q + 1) % 64 })
      let s4 := (s3.holdCores c).reachTrain c
      .next (((s4.useProv (c.footprint.1 ++ c.footprint.2) c.pinRanges c.handles).openRequest c).mirrorEntry e ref)

/-! ### COMMAND_COMPLETE (R46, R270, R282) -/

/-- Its cores, its engine, the router or the token are free again. -/
def State.freeUnits (s : State) (e : WakeEntry) : State :=
  let c := e.cmd
  let me := some (c.queue, c.seq)
  let s1 := if namesCores c.opcode then
      { s with cores := tmapAll CoreSt.zero (fun _ (x : CoreSt) => if x.holder = me then { x with holder := none } else x) s.cores }
    else s
  let u := s1.upd (c.queue / 64)
  let s2 := if engineOp c.opcode then
      s1.modUpd (c.queue / 64) (fun x =>
        { x with running := if u.running = me then none else x.running, commands := x.commands + 1,
                 held := x.held + b2n (decide (c.opcode = 0x6000) && decide (e.code = 2) && !e.late), late := x.late + b2n e.late })
    else s1
  let s3 := if c.opcode = 0x4000 ∧ s2.dlt.busyQueue = some c.queue then { s2.routeDone c with dlt := { (s2.routeDone c).dlt with busyQueue := none } } else s2
  if c.opcode = 0x6001 then { s3 with train := { s3.train with token := none, commits := s3.train.commits + 1 } } else s3

/-- Book a completed command to its request (R374, R376, R381). -/
def State.bookDone (s : State) (e : WakeEntry) : State :=
  if !s.jui.running then s
  else
    let c := e.cmd
    (s.bookOcc c.queue (reqId c.tag) ((s.nowNs - e.reachNs) * max 1 c.coreCount)).modJui (fun j =>
      j.modReq c.queue (reqId c.tag) (fun r => { r with commands := r.commands + 1, finished := r.finished || reqLast c.tag }))

/-- The capability record fixed at bring-up, with the mark of this writing (R58). -/
def State.capsNow (s : State) : List Byte :=
  let r := padTo 256 s.cap.record
  r.take 0x48 ++ leBytes 8 s.tide.count ++ r.drop 0x50

/-- The telemetry snapshot (R311). -/
def State.telemetry (s : State) : List Byte :=
  let c := s.est.ctr
  leBytes 2 1 ++ leBytes 1 s.tide.st ++ leBytes 1 s.spw.reason ++ leBytes 1 s.train.headroom ++ leBytes 1 s.train.kmax ++ leBytes 1 (b2n s.llc.thrash) ++
    leBytes 1 s.est.lanesInUse.length ++ leBytes 8 s.tide.count ++ leBytes 2 s.llc.wideRate ++ List.replicate 6 0 ++ leBytes 8 c.oobAccess ++
    leBytes 8 c.ringStale ++ leBytes 8 c.slotSuperseded ++ leBytes 8 c.linkDowns ++ leBytes 8 0 ++
    (List.range 256).flatMap (fun q => leBytes 8 (if s.partCores (q / 64) = 0 then 0 else (s.queue q).tally)) ++
    (List.range 128).flatMap (fun i => leBytes 2 (s.slice i).rate)

/-- The result bytes of a completing command: CAPS and TELEMETRY read the device at this moment (R58, R311). -/
def State.resultOf (s : State) (e : WakeEntry) : List Byte :=
  if e.cmd.opcode = 4 then s.capsNow else if e.cmd.opcode = 5 then s.telemetry else e.result

/-- COMMAND_COMPLETE (R46, R270, R282, R309): a command whose work is done makes its contributions, signals, writes its result, and its
wake-log entry retires. (DESIGN CHOICE: notes/assumptions/9) -/
def execCommandComplete (q seq : Nat) (s : State) : Host.Outcome State Fault Refusal :=
  match s.entry q seq with
  | none => .next s
  | some e =>
    if !e.ran || e.ended then .next s
    else
      let c := e.cmd
      let refs := ((s.seqr (q / 64)).wake.filter (fun x => decide (x.wakeSeq < e.wakeSeq))).map (fun x => x.cmd.copies)
      let s1 := (if e.late then s else (s.applyEffects e.effects).mirrorFlags s).mirrorEntry { e with phase := 2 } refs.sum
      let s1 := match e.voted with
        | some (pass, mem) => s1.recordVote e mem pass
        | none => s1
      let s2 := s1.freeUnits e
      let s3 := if c.signalEn then s2.arriveWeir c.signalWeir else s2
      let s4 := if c.resultEn then s3.postResult c e.code (s3.resultOf e) else s3
      .next ((s4.bookDone e).modSeq (q / 64) (fun x => { x with wake := x.wake.filter (fun y => !y.isFor q seq) }))

/-! ### Commands that do no work on tensors (R38, R39, R58, R311) -/

/-- NOP (R38): completes at once. -/
def execNop (q seq : Nat) (s : State) : Host.Outcome State Fault Refusal :=
  match s.ready q seq 0x0000 with
  | none => .next s
  | some _ => .next (s.ran q seq 0 [] [])

/-- FENCE (R38, R39): reached when all before it in its queue has completed; then completes at once. -/
def execFence (q seq : Nat) (s : State) : Host.Outcome State Fault Refusal :=
  match s.ready q seq 0x0001 with
  | none => .next s
  | some _ => .next (s.ran q seq 0 [] [])

/-- WEIR_ARM (R38, R50). -/
def execWeirArm (q seq : Nat) (s : State) : Host.Outcome State Fault Refusal :=
  match s.ready q seq 0x0002 with
  | none => .next s
  | some e => .next ((s.armWeir (fieldAt e.cmd.params 0 2) (fieldAt e.cmd.params 2 2) q).ran q seq 0 [] [])

/-- WEIR_ARRIVE (R38, R50). -/
def execWeirArrive (q seq : Nat) (s : State) : Host.Outcome State Fault Refusal :=
  match s.ready q seq 0x0003 with
  | none => .next s
  | some e => .next ((s.arriveWeir (fieldAt e.cmd.params 0 2)).ran q seq 0 [] [])

/-- Usable cache bytes (R223): the ways of every slice. -/
def State.llcBytes (s : State) : Nat := ((List.range 128).map (fun i => (s.slice i).ways * 1536 * 128)).sum

/-- BUNDLE_ID and the counts of R58 as the capability record gives them at a mark. DEPTH is set for each partition and the record has one
RUN_AHEAD_DEPTH: it is partition 0's. (DESIGN CHOICE: notes/assumptions/70) -/
def State.capsRecord (s : State) : List Byte :=
  let c := s.cap
  let parts := cdiv c.activeCores 512
  leBytes 2 0x0201 ++ leBytes 1 0x21 ++ leBytes 1 c.hwRevision ++ leBytes 2 c.activeCores ++ leBytes 1 parts ++ leBytes 1 32 ++ leBytes 4 c.features ++
    leBytes 2 c.portGbps ++ leBytes 1 c.portLanes ++ leBytes 1 c.fordLanes ++ leBytes 8 (c.near.length * 0x60000000) ++ leBytes 8 (c.deep.length * 0x400000000) ++
    leBytes 2 c.near.length ++ leBytes 2 c.deep.length ++ leBytes 4 1572864 ++ leBytes 4 s.llcBytes ++ leBytes 1 16 ++ leBytes 1 s.pinQuota ++
    leBytes 1 4 ++ leBytes 1 9 ++ leBytes 4 65536 ++ leBytes 2 256 ++ leBytes 2 256 ++ leBytes 2 (64 * parts) ++ leBytes 2 16384 ++ leBytes 2 4096 ++
    leBytes 2 4096 ++ leBytes 2 256 ++ leBytes 1 8 ++ leBytes 1 (s.seqr 0).depthEff ++ leBytes 4 (s.tide.periodUs * 1000) ++ leBytes 8 s.tide.count ++
    leBytes 8 0 ++ leBytes 4 1048576 ++ leBytes 2 1000 ++ leBytes 2 1100 ++ leBytes 8 slotBase ++ leBytes 8 ringBase ++ leBytes 2 600 ++
    leBytes 2 s.spw.capW ++ leBytes 4 0 ++ leBytes 8 s.boot.bundleId.toNat ++ List.replicate 128 0

/-- CAPS (R58): completes at once; its record is written then. -/
def execCaps (q seq : Nat) (s : State) : Host.Outcome State Fault Refusal :=
  match s.ready q seq 0x0004 with
  | none => .next s
  | some _ => .next (s.ran q seq 0 [] [])

/-- TELEMETRY (R311): completes at once; its snapshot is read then. -/
def execTelemetry (q seq : Nat) (s : State) : Host.Outcome State Fault Refusal :=
  match s.ready q seq 0x0005 with
  | none => .next s
  | some _ => .next (s.ran q seq 0 [] [])

end Sys2Proof.Machine
end

