-- ==== Sys2Proof/Machine/Reset.lean ====
section
/-! DEFINITION. Resets below whole-device (R403 to R405, R430 to R437): what ends, what is kept and cleared, the remap of R401, replay from
the wake log; vertical lanes in service (R399, R400). -/

namespace Sys2Proof.Machine

open Sys2Proof

/-! ### Ending a command (R403, R404, R432) -/

/-- May an ended entry be replayed (R403). -/
def WakeEntry.mayReplay (e : WakeEntry) : Bool := !e.noReplay && !(e.cmd.selfOverlap && decide (1 ≤ e.phase)) && decide (e.replays < 2)

/-- The completion code of an entry that ends without replay (R403, R404): 0x11 FAULT, 0x12 RESET. -/
def WakeEntry.endCode (e : WakeEntry) (fault : Bool) : Nat :=
  if fault || (!e.noReplay && !(e.cmd.selfOverlap && decide (1 ≤ e.phase))) then 0x11 else 0x12

/-- An entry whose execution a reset ends (R403): it waits for its replay, or is done with its code. A COMMIT before its mark keeps what
it has (R433). -/
def WakeEntry.endIt (e : WakeEntry) (fault : Bool) (tiles : List (Nat × List (List W64))) : WakeEntry :=
  if e.ended then e
  else if !e.mayReplay then
    { e with started := true, ran := true, code := e.endCode fault, result := [], effects := [] }
  else if e.cmd.opcode = 0x6001 then { e with ended := true }
  else { e with ended := true, started := false, ran := false, phase := 0, code := 0, result := [], effects := [], tiles := tiles, planes := [], stored := [] }

/-- The descriptor a chain goes on from (R405): the one that was running or waiting, else its head. -/
def DmaCh.resumeAt (x : DmaCh) (h : ChainHead) : Nat :=
  match x.desc with
  | some d => d.addr
  | none => h.addr

/-- The heads of a channel, the active one at the descriptor it goes on from. -/
def DmaCh.resumed (x : DmaCh) : List ChainHead :=
  (match x.active with
   | some h => [{ h with addr := x.resumeAt h }]
   | none => []) ++ x.fifo

/-- Where the attached chain of a command on a core goes on, if it has not ended. -/
def State.chainAt (s : State) (core q seq : Nat) : Option Nat :=
  (findFirst (fun h => decide (h.owner = some (q, seq)) && !h.detached) ((s.core core).dma.ch.flatMap (fun c => c.2.resumed))).map (·.addr)

/-- Shares of a DMA_CHAIN as a replay finds them: ended or detached chains are not run again, others go on from their descriptor (R405). -/
def State.chainTiles (s : State) (e : WakeEntry) : List (Nat × List (List W64)) :=
  e.tiles.map (fun t =>
    match s.chainAt (s.runsFor (e.cmd.firstCore + t.1)) e.cmd.queue e.cmd.seq with
    | some a => (t.1, [[BitVec.ofNat 64 a]])
    | none => t)

/-- Take a command's attached chains out of a channel. -/
def DmaCh.without (x : DmaCh) (q seq : Nat) : DmaCh :=
  let mine (h : ChainHead) : Bool := decide (h.owner = some (q, seq)) && !h.detached
  let y := { x with fifo := x.fifo.filter (fun h => !mine h) }
  if (x.active.map mine).getD false then { y with active := none, desc := none, fired := none } else y

/-- A vector engine stops its program; instruction memory stays (R432). -/
def VecSt.halt (v : VecSt) : VecSt := { v with running := false, feedActive := false, loads := [], sharesLeft := [] }

/-- The heads that wait in channels with no active chain become active. -/
def State.kickChannels (s : State) (core : Nat) : State :=
  (List.range 8).foldl (fun st ch => if (st.dmaCh core ch).active.isNone then (State.nextChain core ch 5 st).firesDone core else st) s

/-- A core abandons an ended command (R432): its open groups and backwater are cleared, its sluice emptied, its program stopped, its
attached chains dropped. -/
def State.abandonCore (s : State) (c : Cmd) (core : Nat) : State :=
  let s1 := s.dropGroups c core
  let gone := match (s1.core core).dma.run with
    | some ch => ((s1.dmaCh core ch).without c.queue c.seq).active.isNone
    | none => false
  let s2 := s1.modCore core (fun x =>
    let d := { x.dma with ch := tmapAll DmaCh.zero (fun _ y => y.without c.queue c.seq) x.dma.ch }
    let d1 := if gone then { d with run := none, moved := none } else d
    if x.holder = some (c.queue, c.seq) then
      { x with vec := x.vec.halt, slc := { x.slc with slots := [], tilesLeft := 0 }, mx := { x.mx with busy := false }, dma := { d1 with share := none } }
    else { x with dma := d1 })
  s2.kickChannels core

/-- End one command's execution (R403, R432). -/
def State.endCommand (s : State) (fault : Bool) (e : WakeEntry) : State :=
  let c := e.cmd
  let tiles := if c.opcode = 0x3000 then s.chainTiles e else []
  let s1 := if namesCores c.opcode then (s.shares c).foldl (fun st sh => st.abandonCore c sh.2) s else s
  let s2 := if engineOp c.opcode then
      s1.modUpd (c.queue / 64) (fun u => if u.running = some (c.queue, c.seq) then { u with running := none } else u)
    else s1
  let s3 := if c.opcode = 0x4000 ∧ e.started = true then { s2 with dlt := { s2.dlt with busyQueue := none, ending := none } } else s2
  s3.modEntry c.queue c.seq (fun x => x.endIt fault tiles)

/-- RFLAGS bits 1 and 2 of the record of a fault that ends a command (R392). -/
def WakeEntry.fateFlags (e : WakeEntry) : Nat := if e.mayReplay then 2 else 4

/-! ### Scopes (R430, R432) -/

/-- Does a core, cluster or partition hold a core. -/
def inScope (level inst core : Nat) : Bool :=
  decide ((if level = 0 then core else if level = 1 then core / 16 else core / 512) = inst)

/-- Does a core, cluster or partition reset end a command (R432). -/
def State.resetEnds (s : State) (level inst : Nat) (e : WakeEntry) : Bool :=
  if level = 2 ∧ e.cmd.queue / 64 = inst then decide (e.cmd.opcode ≠ 0x4000) && !collOp e.cmd.opcode
  else namesCores e.cmd.opcode && (s.shares e.cmd).any (fun sh => inScope level inst sh.2)

/-- A channel after a core reset: only detached chains, which go on when the reset completes (R405). (DEDUCED: notes/assumptions/31) -/
def DmaCh.afterReset (x : DmaCh) : DmaCh := { DmaCh.zero with fifo := x.resumed.filter (·.detached) }

/-- A core after its reset (R221, R430): basin, sluice, vector state, DMA channels and counters cleared; operand scratch,
instruction memory and configuration kept. -/
def CoreSt.afterReset (c : CoreSt) : CoreSt :=
  { c with mx := { MxSt.zero with zbSkipEn := c.mx.zbSkipEn, checkEn := c.mx.checkEn }, bsn := .zero,
           vec := { VecSt.zero with prog := c.vec.prog, progBase := c.vec.progBase, residueEn := c.vec.residueEn }, slc := .zero,
           dma := { DmaSt.zero with ch := tmapAll DmaCh.zero (fun _ x => x.afterReset) c.dma.ch } }

/-- Reset the cores of a scope. (DEDUCED: notes/assumptions/50) -/
def State.resetCores (s : State) (level inst : Nat) : State :=
  { s with cores := tmapAll CoreSt.zero (fun k (c : CoreSt) => if inScope level inst k then c.afterReset else c) s.cores }

/-- Does an active reset contain a level and instance (R437). -/
def resetWithin (level inst level' inst' : Nat) : Bool :=
  if level = level' then decide (inst = inst')
  else if level = 0 ∧ level' = 1 then decide (inst / 16 = inst')
  else if level = 0 ∧ level' = 2 then decide (inst / 512 = inst')
  else if level = 1 ∧ level' = 2 then decide (inst / 32 = inst')
  else if level = 3 ∧ level' = 2 then decide (inst = 256 * 7 + inst')
  else false

/-! ### Base-die subsystems (R435) -/

/-- A read of the running copy of a core returns poisoned (R254): it ends BAD, and the destination granule of the byte that waited for the read, the
last one written or the first, is poisoned. (DEDUCED: notes/assumptions/31) -/
def State.poisonDma (s : State) (core : Nat) : State :=
  match (s.core core).dma.run with
  | none => s
  | some ch => match (s.dmaCh core ch).desc with
    | none => s
    | some d =>
      if d.op ≠ 0 ∨ !d.moves then s
      else
        let k := (((s.core core).dma.moved.map (·.1)).getD 0) - 1
        let o := if d.codecDir = 1 then k else (spotOf (rowsWithin (s.dmaRoom d.dst.toNat) d.dstStride d.rowBytes d.rows 0) k).getD 0
        (s.poisonGranule core (d.dst.toNat + o)).modDma core (fun y => { y with moved := some ((y.moved.map (·.1)).getD 0, 0x01, 0) })

/-- A read that a resetting unit had accepted returns poisoned: the command or descriptor that waits for it is ended (R435). -/
def State.readPoisoned (s : State) (fault : Bool) (r : Requester) : State :=
  let endIf (o : Option (Nat × Nat)) : State :=
    match o with
    | some (q, seq) => (match s.entry q seq with
      | some e => s.endCommand fault e
      | none => s)
    | none => s
  match r with
  | .core c => endIf (s.core c).holder
  | .updateEngine p => endIf (s.upd p).running
  | .dma c => s.poisonDma c
  | _ => s

/-- The outstanding reads of the cache that a condition selects return poisoned. -/
def State.poisonReads (s : State) (fault : Bool) (p : Miss → Bool) : State :=
  let hit := s.llc.misses.filter p
  hit.foldl (fun st m => st.readPoisoned fault m.src) { s with llc := { s.llc with misses := s.llc.misses.filter (fun m => !p m) } }

/-- The last-level cache is written back and cleared (R236, R435): what its range operations had queued is over with the lines. -/
def State.resetLlc (s : State) (fault : Bool) : State :=
  let s1 := (s.poisonReads fault (fun _ => true)).clearCache
  let l := s1.llc
  { s1 with llc := { l with slices := tmapAll SliceSt.zero (fun _ (x : SliceSt) => { SliceSt.zero with waysOff := x.waysOff }) l.slices, rangeQueue := l.rangeStalled.take 64,
                            rangeStalled := l.rangeStalled.drop 64, rangeDone := l.rangeDone + l.rangeQueue.length, thrash := false, thrashRun := 0, wideRate := 0 } }

/-- A memory controller after its reset: what it holds in training and configuration stays, its counters are cleared. -/
def MemCtl.afterReset (c : MemCtl) : MemCtl := { MemCtl.zero with trained := c.trained, scrubHours := c.scrubHours }

/-- The codec stops: descriptors that read its output end BAD. -/
def State.resetCodec (s : State) : State :=
  let codes (c : CoreSt) : Bool := match c.dma.run with
    | some ch => ((tget DmaCh.zero c.dma.ch ch).desc.map (fun d => decide (d.codecDir ≠ 0))).getD false
    | none => false
  let s1 := ((s.cores.filter (fun c => codes c.2)).map (·.1)).foldl (fun st c => st.poisonDma c) s
  { s1 with cod := .zero }

/-- The tide unit's servo and PPS filter are cleared; a LOCKED tide enters HOLDOVER; marks and counters go on. -/
def TideSt.afterReset (t : TideSt) : TideSt :=
  { t with ptpOk := false, ppsOk := false, slewing := false, offsets := [], good := 0, bad := 0, ppsSeen := false, syncSeq := none, delayReq := none,
           pathDelay := 0, masters := [], master := none, slewNs := 0, st := if t.st = 1 then 2 else t.st }

/-- The estuary is reset: QPs in error, open collectives end PEER_LOST, counters cleared, the link down until it retrains. -/
def State.resetEstuary (s : State) : State :=
  let s1 := s.losePeers false (fun _ _ => true)
  { s1 with est := { s1.est with qps := tmapAll Qp.zero (fun _ (x : Qp) => { x with phase := 3, sent := [], reads := 0 }) s1.est.qps, ctr := .zero,
                                 linkUp := false, retrainDue := true },
            coll := { s1.coll with buffered := [], flipped := s1.coll.flipped.filter (fun x => x.ask.isNone) } }

/-- The ford link is reset: the partner is lost and the link state cleared. -/
def State.resetFord (s : State) : State :=
  let s1 := s.partnerLoss 3
  s1.modFrd (fun x => { x with linkUp := false, helloWait := false, nextSeq := 0, expSeq := 0, kept := [], credits := [64, 64, 64], txWait := [] })

/-- Reset one base-die unit, by its unit code (R392) and instance (R435). (DEDUCED: notes/assumptions/50) -/
def State.resetUnit (s : State) (fault : Bool) (unit inst : Nat) : State :=
  let ends (p : WakeEntry → Bool) : State := (s.allEntries.filter p).foldl (fun st e => st.endCommand fault e) s
  let served (deep : Bool) (m : Miss) : Bool := decide ((s.channelOf (m.line * 128)).1 = deep) && decide ((s.channelOf (m.line * 128)).2.1 = inst)
  if unit = 3 then s.resetLlc fault
  else if unit = 4 then
    (let s1 := s.poisonReads fault (served false)
     { s1 with nt := tmod .zero s1.nt inst MemCtl.afterReset })
  else if unit = 5 then
    (let s1 := s.poisonReads fault (served true)
     { s1 with dt := tmod .zero s1.dt inst MemCtl.afterReset })
  else if unit = 6 then s.resetCodec
  else if unit = 2 then
    (let s1 := ends (fun e => decide (e.cmd.opcode = 0x4000) && e.started)
     { s1 with dlt := { DltSt.zero with pfEn := s1.dlt.pfEn, pfBudgetMib := s1.dlt.pfBudgetMib } })
  else if unit = 7 then
    (let s1 := ends (fun e => decide ((s.upd inst).running = some (e.cmd.queue, e.cmd.seq)))
     s1.modUpd inst (fun u => { u with running := none, layer := 0, prepass := false }))
  else if unit = 10 then { s with tide := s.tide.afterReset }
  else if unit = 8 then s.resetEstuary
  else if unit = 9 then s.resetFord
  else s

/-- Has a base-die unit a reset of its own (R435). -/
def ownReset (unit : Nat) : Bool := [2, 3, 4, 5, 6, 7, 8, 9, 10].contains unit

/-! ### Beginning a reset -/

/-- A reset request that the device refuses is logged (R410). (DEDUCED: notes/assumptions/51) -/
def State.refuseReset (s : State) (level inst : Nat) : State := s.gaugeEvent 3 (leBytes 1 level ++ leBytes 2 inst ++ leBytes 1 1)

/-- Begin a reset of a core, cluster, partition or base-die unit (R430 to R437); `fault` tells whether a fault caused it. Before
bring-up has ended it is refused; it merges into a running reset that contains it; it absorbs smaller ones in its scope. -/
def State.beginReset (s : State) (level inst : Nat) (fault : Bool) : State :=
  if !s.boot.ready then s.refuseReset level inst
  else if s.rst.active.any (fun r => resetWithin level inst r.1 r.2) then { s with rst := { s.rst with merged := s.rst.merged + 1 } }
  else
    let s0 := { s with rst := { s.rst with active := s.rst.active.filter (fun (r : Nat × Nat) => !resetWithin r.1 r.2 level inst) ++ [(level, inst)] } }
    if level = 3 then s0.resetUnit fault (inst / 256) (inst % 256)
    else
      let s1 := (s0.allEntries.filter (fun e => s0.resetEnds level inst e)).foldl (fun (st : State) e => st.endCommand fault e) s0
      let s2 := s1.resetCores level inst
      if level = 2 then
        let s3 := s2.modUpd inst (fun u => { u with running := none, layer := 0, prepass := false })
        let s4 := (s3.discardProv (fun q _ _ => decide (q / 64 = inst))).1
        { s4 with dlt := { s4.dlt with owned := s4.dlt.owned.filter (fun o => decide (o.queue / 64 ≠ inst)) } }
      else s2

/-- CORE_RESET (R430): a requested reset of one logical core. -/
def execCoreReset (core : Nat) (s : State) : Host.Outcome State Fault Refusal :=
  if core < s.cap.activeCores ∨ s.boot.ready = false then .next (s.beginReset 0 core false) else .next s

/-- CLUSTER_RESET (R430): a requested reset of a cluster's 16 cores. -/
def execClusterReset (cluster : Nat) (s : State) : Host.Outcome State Fault Refusal :=
  if 16 * cluster < s.cap.activeCores ∨ s.boot.ready = false then .next (s.beginReset 1 cluster false) else .next s

/-- Does the gauge ask for a partition's reset after a fault (R401). -/
def State.wantsReset (s : State) (p : Nat) : Bool := s.oxb.pendingReset.any (fun r => decide (r.1 = p))

/-- PARTITION_RESET (R401, R433): the reset of a partition, requested on the sideband or by R401 after a fault. -/
def execPartitionReset (partition : Nat) (s : State) : Host.Outcome State Fault Refusal :=
  if 512 * partition < s.cap.activeCores ∨ s.boot.ready = false then .next (s.beginReset 2 partition (s.wantsReset partition)) else .next s

/-- SUBSYSTEM_RESET (R435): a requested reset of one base-die unit, by unit code and instance. -/
def execSubsystemReset (unit inst : Nat) (s : State) : Host.Outcome State Fault Refusal :=
  if ownReset unit = true ∧ inst < 256 then .next (s.beginReset 3 (256 * unit + inst) false) else .next s

/-! ### The oxbow map at a partition reset (R401) -/

/-- The key of a lane group: four to a site, then eight to a physical core (R16). -/
def laneKey (shoal : Bool) (inst group : Nat) : Nat := if shoal then 512 + inst * 8 + group else inst * 4 + group

/-- Is a lane group of a site's interface retired. -/
def State.siteStriped (s : State) (site : Nat) : Bool := (List.range 4).any (fun g => (tget LaneGroup.zero s.oxb.lanes (site * 4 + g)).retired)

/-- Is a lane group of a physical core's shoal interface retired. -/
def State.coreStriped (s : State) (p : Nat) : Bool := (List.range 8).any (fun g => (tget LaneGroup.zero s.oxb.lanes (512 + p * 8 + g)).retired)

/-- Can a physical core serve: it passed, has not failed and its shoal interface is whole. -/
def State.coreGood (s : State) (p : Nat) : Bool :=
  bitOf (tget SiteSt.zero s.oxb.sites (p / 18)).pass (p % 18) && !s.boot.failedCores.contains p && !s.coreStriped p

/-- Clear the slab, scratch and instruction memory of a logical core that moved (R401, R430). -/
def State.clearCore (s : State) (c : Nat) : State :=
  let lo := shoalBase + c * slabBytes
  let hi := lo + slabBytes
  { s with mem := s.mem.filter (fun x => !(decide (lo ≤ x.1) && decide (x.1 < hi))),
           poison := s.poison.filter (fun k => !(decide (lo / 32 ≤ k) && decide (k < hi / 32))),
           cores := tmod CoreSt.zero s.cores c (fun x => { x with scratch := [], scratchPoison := [], vec := { x.vec with prog := [], progBase := 0 } }) }

/-- The record of a remap: what failed, and the action (R393, R401). -/
def State.remapRecord (s : State) (action cls unit inst detail : Nat) : State :=
  let s1 := s.raise cls action unit inst none 0 detail 0
  { s1 with oxb := { s1.oxb with remaps := s1.oxb.remaps + b2n (decide (action = 6)), withdrawn := s1.oxb.withdrawn + b2n (decide (action = 7)), changed := true } }

/-- The lowest idle healthy site (R20, R401). -/
def State.idleSite (s : State) : Option Nat :=
  findFirst (fun k => decide ((tget SiteSt.zero s.oxb.sites k).st = 1) && (tget SiteSt.zero s.oxb.sites k).linkOk && !s.siteStriped k &&
    decide (16 ≤ ((List.range 18).filter (fun i => s.coreGood (k * 18 + i))).length)) (List.range 128)

/-- Move a whole logical cluster, or withdraw it (R401). -/
def State.moveCluster (s : State) (n cls unit inst detail : Nat) : State :=
  let cl := tget ClusterSt.zero s.oxb.clusters n
  let old (st : State) : State :=
    { st with oxb := { st.oxb with sites := tmod SiteSt.zero st.oxb.sites cl.site (fun x => { x with st := 2, cluster := 0xFF }) } }
  match s.idleSite with
  | some k =>
    let pos := ((List.range 18).filter (fun i => s.coreGood (k * 18 + i))).take 16
    let s1 := old s
    let s2 := { s1 with oxb := { s1.oxb with sites := tmod SiteSt.zero s1.oxb.sites k (fun x => { x with st := 0, cluster := n }),
                                             clusters := tset .zero s1.oxb.clusters n { cl with pos := pos, site := k, remapped := true } } }
    ((List.range 16).foldl (fun st i => st.clearCore (16 * n + i)) s2).remapRecord 6 cls unit inst detail
  | none =>
    let s1 := old s
    let s2 := { s1 with oxb := { s1.oxb with clusters := tset .zero s1.oxb.clusters n { cl with valid := false, withdrawn := true } } }
    ((List.range 16).foldl (fun st i => st.clearCore (16 * n + i)) s2).remapRecord 7 cls unit inst detail

/-- Move one logical core to an unused good core of its site; none when the site has none (R401). -/
def State.moveCore (s : State) (c : Nat) : Option State :=
  let n := c / 16
  let cl := tget ClusterSt.zero s.oxb.clusters n
  let p := s.physical c
  match findFirst (fun i => s.coreGood (cl.site * 18 + i) && !cl.pos.contains i) (List.range 18) with
  | none => none
  | some i =>
    let s1 := { s with oxb := { s.oxb with clusters := tset .zero s.oxb.clusters n { cl with pos := lset cl.pos (c % 16) i, remapped := true },
                                           sites := tmod SiteSt.zero s.oxb.sites cl.site (fun x => { x with pass := x.pass - 2 ^ (p % 18) * b2n (bitOf x.pass (p % 18)) }) } }
    let failed := s.boot.failedCores.contains p
    some ((s1.clearCore c).remapRecord 6 (if failed then 0x0F else 0x07) (if failed then 0x25 else 0x21) p (if failed then c else 0))

/-- Remap one cluster where it needs it. -/
def State.remapCluster (s : State) (n : Nat) : State :=
  let cl := tget ClusterSt.zero s.oxb.clusters n
  if !cl.valid then s
  else if s.siteStriped cl.site then s.moveCluster n 0x07 0x20 cl.site 0
  else
    (List.range 16).foldl (fun st i =>
      let c := 16 * n + i
      let p := st.physical c
      if (tget ClusterSt.zero st.oxb.clusters n).site ≠ cl.site || (tget ClusterSt.zero st.oxb.clusters n).withdrawn || st.coreGood p then st
      else match st.moveCore c with
        | some st1 => st1
        | none =>
          let failed := st.boot.failedCores.contains p
          st.moveCluster n (if failed then 0x0F else 0x07) (if failed then 0x25 else 0x21) p (if failed then c else 0)) s

/-- The map changes of a partition reset (R401). -/
def State.remapPartition (s : State) (p : Nat) : State :=
  let s1 := (rangeFrom (32 * p) 32).foldl (fun st n => st.remapCluster n) s
  { s1 with oxb := { s1.oxb with pendingReset := s1.oxb.pendingReset.filter (fun r => r.1 ≠ p) } }

/-! ### Completion and replay (R405, R436) -/

/-- The frames a partition had decoded are decoded again, their clamps not tallied a second time (R433). -/
def State.redecode (s : State) (p : Nat) : State :=
  (rangeFrom (64 * p) 64).foldl (fun st q =>
    let (st2, cs) := (st.queue q).decoded.foldl (fun (acc : State × List Cmd) c =>
      let (st1, d) := acc.1.decodeFrame q c.frame false
      (st1, acc.2 ++ [d])) (st, [])
    if cs.isEmpty then st else st2.modQueue q (fun x => { x with decoded := cs })) s

/-- The scope of a running reset accepts traffic again (R401, R405, R433, R436): parked requesters are resumed; detached chains go on. (DEDUCED: notes/assumptions/50) -/
def State.completeReset (s : State) (level inst : Nat) : State :=
  if !s.rst.active.contains (level, inst) then s
  else
    let s1 := { s with rst := { s.rst with active := s.rst.active.filter (fun r => r ≠ (level, inst)),
                                           parked := s.rst.parked.filter (fun r => !(decide (level = 3) && decide (r.1 = inst))) },
                       boot := { s.boot with resets := lmod s.boot.resets level (· + 1) } }
    let s2 := if level = 2 then (s1.remapPartition inst).redecode inst else s1
    if level = 3 then s2
    else ((s2.cores.map (·.1)).filter (inScope level inst)).foldl (fun st c => st.kickChannels c) s2

/-- RESET_COMPLETE (R401, R405, R433, R436). For a base-die unit `inst` is 256 × its unit code + its instance. In the coolant hold nothing on
the compute die completes (R367). -/
def execResetComplete (level inst : Nat) (s : State) : Host.Outcome State Fault Refusal :=
  if decide (s.spw.stop ≠ 0) && decide (level ≤ 2) then .next s else .next (s.completeReset level inst)

/-- May an ended command be reached again: no reset that holds it is in progress, and its cores are free or its own (R405). -/
def State.canReplay (s : State) (e : WakeEntry) : Bool :=
  let c := e.cmd
  !s.partHeld (c.queue / 64) && !(engineOp c.opcode && s.unitInReset 7 (c.queue / 64)) && !(decide (c.opcode = 0x4000) && s.unitInReset 2 0) &&
    (!namesCores c.opcode || (s.shares c).all (fun sh =>
      !s.coreInReset sh.2 && ((s.core sh.2).holder.isNone || decide ((s.core sh.2).holder = some (c.queue, c.seq)))))

/-- WAKE_LOG_REPLAY (R405): an ended command is reached again from its entry. -/
def execWakeLogReplay (queue seq : Nat) (s : State) : Host.Outcome State Fault Refusal :=
  match s.entry queue seq with
  | none => .next s
  | some e =>
    if !e.ended || !s.canReplay e then .next s
    else
      let free := { s with cores := tmapAll CoreSt.zero (fun _ (x : CoreSt) => if x.holder = some (queue, seq) then { x with holder := none } else x) s.cores }
      let s1 := (free.holdCores e.cmd).modEntry queue seq (fun x => { x with ended := false, replays := x.replays + 1, reachedAt := s.nowNs })
      .next (if s1.jui.running then s1.modJui (fun j => j.modReq queue (reqId e.cmd.tag) (fun r => { r with replays := r.replays + 1 })) else s1)

/-! ### Vertical lanes (R399 to R401) -/

/-- Commands on cores that a lost interface cuts off end FAULT (R400). -/
def State.faultCommands (s : State) (cut : Nat → Bool) : State :=
  (s.allEntries.filter (fun e => namesCores e.cmd.opcode && (s.shares e.cmd).any (fun sh => cut sh.2))).foldl (fun st e =>
    (st.endCommand true e).modEntry e.cmd.queue e.cmd.seq (fun x =>
      { x with ended := false, started := true, ran := true, code := 0x11, result := [], effects := [] })) s

/-- The logical core on a physical core. -/
def State.logical (s : State) (p : Nat) : Option Nat :=
  let n := (tget SiteSt.zero s.oxb.sites (p / 18)).cluster
  let cl := tget ClusterSt.zero s.oxb.clusters n
  if cl.valid && decide (cl.site = p / 18) then (findFirst (fun i => lget 0 cl.pos i = p % 18) (List.range cl.pos.length)).map (16 * n + ·) else none

/-- Retire a group beyond its spares (R400): traffic is striped over the others of its kind, or the interface is lost. -/
def State.retireGroup (s : State) (shoal : Bool) (inst group : Nat) : State :=
  let key := laneKey shoal inst group
  let s1 := { s with oxb := { s.oxb with lanes := tmod .zero s.oxb.lanes key (fun x => { x with retired := true }) } }
  let base := key / 4 * 4
  let left := ((List.range 4).filter (fun g => !(tget LaneGroup.zero s1.oxb.lanes (base + g)).retired)).length
  let unit := if shoal then 0x21 else 0x20
  let n := (tget SiteSt.zero s.oxb.sites inst).cluster
  let part := if shoal then (s.logical inst).map (· / 512) else if n = 0xFF then none else some (n / 32)
  let cut (c : Nat) : Bool := if shoal then decide (s.logical inst = some c) else decide (c / 16 = n)
  let s2 := if left = 0 then (s1.raise 0x08 5 unit inst none 0 group 4).faultCommands cut else s1.raise 0x07 5 unit inst none 0 (group + 16 * left) 0
  match part with
  | some p => s2.wantPartitionReset p (decide (left = 0))
  | none => s2

/-- VLANE_FAIL (R399, R400): a lane of a site's interface or of a physical core's shoal interface has failed. -/
def execVlaneFail (shoal : Bool) (inst group lane : Nat) (s : State) : Host.Outcome State Fault Refusal :=
  let key := laneKey shoal inst group
  let g := tget LaneGroup.zero s.oxb.lanes key
  if decide ((if shoal then 2304 else 128) ≤ inst) || decide ((if shoal then 8 else 4) ≤ group) || g.retired || !s.boot.ready then .next s
  else if g.spares < 4 then
    let s1 := { s with oxb := { s.oxb with lanes := tset .zero s.oxb.lanes key { g with spares := g.spares + 1 } } }
    .next (s1.raise 0x06 4 (if shoal then 0x21 else 0x20) inst none 0 (group + 16 * (lane % 64) + 2 ^ 10 * (3 - g.spares)) 0)
  else .next (s.retireGroup shoal inst group)

/-- OXBOW_RESET_DEADLINE (R401): 1 s has passed with the partition busy; its reset comes at the next mark. -/
def execOxbowResetDeadline (partition : Nat) (s : State) : Host.Outcome State Fault Refusal :=
  .next { s with oxb := { s.oxb with pendingReset := s.oxb.pendingReset.map (fun r => if r.1 = partition then (r.1, 0, r.2.2) else r) } }

/-- Reset the partitions that R401 asks for at a mark: those at rest, and those whose reset is due. (DEDUCED: notes/assumptions/51) -/
def State.dueResets (s : State) : State :=
  s.oxb.pendingReset.foldl (fun st r =>
    if r.2.2 || decide (r.2.1 = 0) || decide (r.2.1 + 1000000000 ≤ st.nowNs) || (!st.allEntries.any (fun e => decide (e.cmd.queue / 64 = r.1))) then
      (if st.rst.active.contains (2, r.1) then st else st.beginReset 2 r.1 true)
    else st) s

end Sys2Proof.Machine
end

