-- ==== Sys2Proof/Machine/Stage.lean ====
section
/-! DEFINITION. Stage reports (R417 to R420, R475) and the end of stage 7, which waits for the tide (R73). -/

namespace Sys2Proof.Machine

open Sys2Proof

/-- The 128 bytes of a stage report (R417). The time the stage took is a free value. -/
def State.reportBytes (s : State) (stage status unit inst us : Nat) (detail : List Byte) : List Byte :=
  let b := leBytes 2 1 ++ leBytes 1 stage ++ leBytes 1 status ++ leBytes 2 unit ++ leBytes 2 inst ++ leBytes 8 s.jui.bootCount ++ leBytes 4 us ++
    leBytes 1 (b2n s.boot.warm) ++ List.replicate 3 0 ++ leBytes 8 s.boot.bundleId.toNat ++ padTo 80 detail ++ List.replicate 12 0
  b ++ leBytes 4 (crc32c b).toNat

/-- A stage ends with its report: kept, logged, shown in FSH_STATUS (R408, R420). (DESIGN CHOICE: notes/assumptions/54) -/
def State.stageReport (s : State) (stage status unit inst : Nat) (detail : List Byte) : State :=
  let (us, s1) := s.fresh
  let b := s1.reportBytes stage status unit inst us detail
  ({ s1 with boot := { s1.boot with stage := stage, reports := tset [] s1.boot.reports stage b } }).addLog 2 b

/-- The first cause present, with its unit and instance, or PASS (R418, R475). -/
def stageCause : List (Bool × Nat × Nat) → Nat × Nat × Nat
  | [] => (0, 0xFFFF, 0)
  | (on, unit, inst) :: rest => if on then (1, unit, inst) else stageCause rest

/-- The lowest number with a property, or 0. -/
def lowest (n : Nat) (p : Nat → Bool) : Nat := (findFirst p (List.range n)).getD 0

/-- Stage 7 ends (R73, R408): its report tells what trained and whether the tide locked. The time to lock is a free value. -/
def State.finishStage7 (s : State) : State :=
  if !s.boot.waitLock then s
  else
    let (ms, s1) := s.fresh
    let e := s1.est
    let (st, u, i) := stageCause [(!e.linkUp, 8, 0), (!s1.frd.linkUp && s1.boot.licPaired, 9, 0), (decide (s1.tide.st ≠ 1), 10, 0)]
    let lanes := e.lanesInUse.length
    let detail := leBytes 1 lanes ++ leBytes 1 (lget 0 e.lanesInUse 0) ++ leBytes 2 (200 * lanes) ++ leBytes 1 e.attemptCount ++ leBytes 1 (popCount 8 s1.frd.lanesInUse) ++
      leBytes 1 s1.tide.st ++ leBytes 1 0 ++ leBytes 4 ms
    let s2 := ({ s1 with boot := { s1.boot with waitLock := false } }).stageReport 7 st u i detail
    { s2 with boot := { s2.boot with stage := 8 } }

end Sys2Proof.Machine
end

