-- ==== Sys2Proof/Machine/Tide.lean ====
section
/-! DEFINITION. The tide (R62 to R79): marks and the order of their events, the PTP and PPS servo, its states and its loss. -/

namespace Sys2Proof.Machine

open Sys2Proof

/-- Change the tide unit. -/
def State.modTide (s : State) (f : TideSt → TideSt) : State := { s with tide := f s.tide }

/-! ### Marks (R75 to R77) -/

/-- A miss rate as unsigned 0.16 fixed point (LLC_THRASH); no accesses read as 0. -/
def missRate (misses accesses : Nat) : Nat := if accesses = 0 then 0 else min 0xFFFF (misses * 65536 / accesses)

/-- Close one slice's interval (R235). -/
def SliceSt.closeInterval (x : SliceSt) : SliceSt := { x with rate := missRate x.intervalMisses x.intervalAccesses, intervalAccesses := 0, intervalMisses := 0 }

/-- The thrash interval closes at a mark (R235). -/
def State.thrashMark (s : State) : State :=
  let l := s.llc
  let acc := (l.slices.map (fun x => x.2.intervalAccesses)).sum
  let mis := (l.slices.map (fun x => x.2.intervalMisses)).sum
  let high := decide (acc ≠ 0) && decide (l.thrashPct * acc ≤ 100 * mis)
  let run := if high = l.thrash then 0 else l.thrashRun + 1
  let turn := decide (0 < run) && decide (l.thrashMarks ≤ run)
  { s with llc := { l with slices := tmapAll SliceSt.zero (fun _ x => x.closeInterval) l.slices, wideRate := missRate mis acc,
                           thrash := if turn then high else l.thrash, thrashRun := if turn then 0 else run } }

/-- Mark-triggered descriptors start (R249): those whose mark has come. -/
def State.fireMarks (s : State) (m : Nat) : State :=
  (s.cores.map (·.1)).foldl (fun st c => st.fireWaiting c (fun d => decide (d.trigger = 1) && decide (d.trigValue.toNat ≤ m))) s

/-- Does the COMMIT that holds the token act at this mark (R279). (DEDUCED: notes/assumptions/43) -/
def State.commitDue (s : State) : Bool :=
  match s.train.token with
  | none => false
  | some h => !h.acted && decide (h.tideMark ≤ s.tide.count) && decide (h.reachMark < s.tide.count)

/-- Steps 3 to 5 of R77 at the current mark, and what else a mark brings: the thrash interval, the partner's flip (R345), the partition
resets of R401. TIDE_START commands are reached by COMMAND_REACH. (DEDUCED: notes/assumptions/43) -/
def State.markRest (s : State) : State :=
  let m := s.tide.count
  let s1 := (s.modTide (fun t => { t with rest := false })).dvfsMark
  let s2 := ((s1.noteThrottle m).openWindows).fireMarks m
  (((s2.thrashMark).mirrorFlip m).dueResets).slackMark

/-- Part of the remaining slew is removed at a mark: 100 ppm of the period (R74). (PRESUMED: notes/assumptions/44) -/
def TideSt.slew (t : TideSt) : TideSt :=
  if !t.slewing then t
  else
    let d : Int := t.periodUs / 10
    let r := if 0 < t.slewNs then max 0 (t.slewNs - d) else min 0 (t.slewNs + d)
    { t with slewNs := r, slewing := decide (r ≠ 0) }

/-- The tide at its next mark (R67, R74, R75): a forward step goes to its count, a pause ends. -/
def TideSt.nextMark (t : TideSt) : TideSt :=
  let n := max (t.count + 1) (t.stepTo.getD 0)
  { t.slew with count := n, phaseNs := 0, stepTo := none, paused := false, heartbeatDue := t.heartbeatDue || decide (t.count / 10000 < (n - 1) / 10000),
                unsyncMarks := t.unsyncMarks + b2n (decide (t.st = 0) || decide (t.st = 3)) }

/-- TIDE_MARK (R77): a mark is generated and its events run in order. When a COMMIT acts at it, steps 3 to 6 follow that COMMIT. (DEDUCED: notes/assumptions/43) -/
def execTideMark (s : State) : Host.Outcome State Fault Refusal :=
  if !s.jui.running || s.tide.rest then .next s
  else
    let s1 := s.modTide TideSt.nextMark
    let s2 := s1.ledgerClose s1.tide.count
    if s2.commitDue then .next (s2.modTide (fun t => { t with rest := true })) else .next s2.markRest

/-! ### The servo (R65, R69 to R75) -/

/-- Local tide time in ns. -/
def TideSt.nowTide (t : TideSt) : Nat := t.count * (t.periodUs * 1000) + t.phaseNs

/-- The tide has locked (R69). -/
def TideSt.locked (t : TideSt) : TideSt :=
  { t with st := 1, everLocked := true, bad := 0, intervalUnsync := t.intervalUnsync || decide (t.st = 0) || decide (t.st = 3) }

/-- The source is lost (R70). -/
def TideSt.lose (t : TideSt) : TideSt := { t with st := if t.st = 1 then 2 else t.st, offsets := [], good := 0, bad := 0 }

/-- Four filtered offsets of one input lie beyond 1 µs: with PTP_PPS that input alone is lost while the other is good (R70). -/
def TideSt.inputBad (t : TideSt) (pps : Bool) : TideSt :=
  if t.source = 2 then
    (let t1 := if pps then { t with ppsOk := false } else { t with ptpOk := false }
     if (if pps then t1.ptpOk else t1.ppsOk) then { t1 with offsets := [], good := 0, bad := 0 } else t1.lose)
  else t.lose

/-- Step forward at the next mark: the source's next mark (R73, R74). -/
def TideSt.stepForward (t : TideSt) (behind : Nat) : TideSt :=
  { t with stepTo := some ((t.nowTide + behind) / (t.periodUs * 1000) + 1), steps := t.steps + 1, intervalStep := true, offsets := [], good := 0 }

/-- Pause until the source count reaches the next local count (R74). -/
def TideSt.pause (t : TideSt) : TideSt := { t with paused := true, steps := t.steps + 1, intervalStep := true, offsets := [], good := 0 }

/-- The frequency is corrected from the offsets measured (R74). (DESIGN CHOICE: notes/assumptions/45) -/
def TideSt.discipline (t : TideSt) : TideSt := { t with freqPpb := t.freqPpb + Config.tideDiscipline t.offsets }

/-- The first lock in stage 7 brings count and phase straight to the source (R73): a source count above the local one is taken at the next mark, with
the phase at once; an equal count moves the phase alone; a lower one pauses. With SOURCE PPS the count is kept and only the phase moves. (PRESUMED: notes/assumptions/44) -/
def TideSt.firstStep (t0 : TideSt) (o : Int) : TideSt :=
  let t := { t0.discipline with stepped := true }
  let p : Int := t.periodUs * 1000
  let moved : TideSt := { t with phaseNs := (((t.phaseNs : Int) - o) % p).toNat }
  let source := ((t.nowTide : Int) - o) / p
  if t.source = 1 ∨ source = (t.count : Int) then { moved with steps := t.steps + 1, intervalStep := true, offsets := [], good := 0 }
  else if (t.count : Int) < source then { t.stepForward o.natAbs with phaseNs := moved.phaseNs }
  else t.pause

/-- Correct an offset after stage 8: the frequency first, then a slew up to 1 ms, beyond it a step forward or a pause (R74). -/
def TideSt.correct (t0 : TideSt) (o : Int) : TideSt :=
  let t := t0.discipline
  if o.natAbs ≤ 1000000 then { t with slewing := true, slewNs := o, offsets := [], good := 0 }
  else if o < 0 then t.stepForward o.natAbs
  else t.pause

/-- One measured offset of the local tide from the source, in ns, by a pulse or by a Sync (R69, R70, R73, R74). During bring-up the unit first goes to
the source; it locks when 8 offsets in a row lie within ±100 ns. (PRESUMED: notes/assumptions/44) -/
def TideSt.measure (t0 : TideSt) (bringUp pps : Bool) (o : Int) : TideSt :=
  let t := { t0 with offsets := (o :: t0.offsets).take 8 }
  let f := Config.tideFilter t.offsets
  let good := if o.natAbs ≤ 100 then t.good + 1 else 0
  let bad := if 1000 < f.natAbs then t.bad + 1 else 0
  let t1 := { t with offsetNs := f, good := good, bad := bad }
  let full := decide (t1.offsets.length = 8)
  if t1.slewing || t1.paused || t1.stepTo.isSome then { t1 with offsets := [], good := 0 }
  else if t1.st = 1 then (if 4 ≤ bad then t1.inputBad pps else t1)
  else if bringUp && !t1.stepped then (if full then t1.firstStep o else t1)
  else if 8 ≤ good then t1.locked
  else if full && decide (100 < o.natAbs) then t1.correct o
  else t1

/-- Stage 7 ends once its port attempts are over and the tide has locked (R73, R299). -/
def State.settleStage7 (s : State) : State := if s.est.attempts.isEmpty && decide (s.tide.st = 1) then s.finishStage7 else s

/-- Apply a measured offset; a lock ends the wait of stage 7 (R73). -/
def State.tideMeasure (s : State) (pps : Bool) (o : Int) : State := (s.modTide (fun t => t.measure (!s.boot.ready) pps o)).settleStage7

/-- Does this tide use PTP, or PPS (R62). -/
def TideSt.usesPtp (t : TideSt) : Bool := decide (t.source ≠ 1)

/-- Does this tide use PPS. -/
def TideSt.usesPps (t : TideSt) : Bool := decide (t.source = 1) || decide (t.source = 2)

/-- The offset of a completed Sync: under PTP_PPS the count follows PTP and the phase the pulse, so it is measured only while the pulse is
absent, or when it is off by more than 1 ms (R62, R70). -/
def State.syncOffset (s : State) (delta : Int) : State :=
  let s1 := s.modTide (fun t => { t with syncDelta := delta, ptpOk := true, syncSeq := none })
  let o := delta - s1.tide.pathDelay
  if s1.tide.source = 2 ∧ s1.tide.ppsOk = true ∧ s1.tide.everLocked = true ∧ o.natAbs ≤ 1000000 then s1 else s1.tideMeasure false o

/-- Send a Delay_Req and note its time (R63, R64). -/
def State.delayReq (s : State) (seqId : Nat) : State :=
  let t := s.tide.nowTide - Config.portLatency s.est.lanesInUse.length
  (s.modTide (fun x => { x with delayReq := some (seqId, t) })).send (.delayReq seqId)

/-- Is a PTP message of a domain heard (R63). -/
def State.ptpHears (s : State) (domain : Nat) : Bool := s.tide.usesPtp && decide (domain = s.tide.domain) && s.est.linkUp && s.jui.running

/-- Is a message from the selected master (R63). -/
def State.fromMaster (s : State) (src : Nat) : Bool := decide (s.tide.master = some src)

/-- PTP_SYNC (R63, R64, R74): a Sync from the selected master, its origin time in a one-step master, its hardware timestamp in local tide
time. Intervals outside −4 to +1 are ignored. (PRESUMED: notes/assumptions/44) -/
def execPtpSync (domain src : Nat) (logInterval : Int) (seqId : Nat) (twoStep : Bool) (origin rx : Nat) (s : State) : Host.Outcome State Fault Refusal :=
  if !s.ptpHears domain || decide (logInterval < -4) || decide (1 < logInterval) || !s.fromMaster src then .next s
  else
    let at1 := rx - Config.portLatency s.est.lanesInUse.length
    if twoStep then .next ((s.modTide (fun t => { t with syncSeq := some (seqId, at1) })).delayReq seqId)
    else .next ((s.syncOffset ((at1 : Int) - origin)).delayReq seqId)

/-- PTP_FOLLOW_UP (R63): the origin time of the Sync that awaits it. -/
def execPtpFollowUp (domain src seqId origin : Nat) (s : State) : Host.Outcome State Fault Refusal :=
  match s.tide.syncSeq with
  | none => .next s
  | some (k, at1) => if s.ptpHears domain && s.fromMaster src && decide (k = seqId) then .next (s.syncOffset ((at1 : Int) - origin)) else .next s

/-- Lexical order of two lists of items, lower first. -/
def lexLess : List Nat → List Nat → Bool
  | a :: s, b :: t => decide (a < b) || (decide (a = b) && lexLess s t)
  | _, _ => false

/-- Does one data set beat another (R63): of one grandmaster the shorter path, then the lower sender; of two the items in their order. (PRESUMED: notes/assumptions/44) -/
def announceBeats (a b : Announce) : Bool :=
  let items (x : Announce) : List Nat :=
    if a.grandmaster = b.grandmaster then [x.stepsRemoved, x.sender]
    else [x.priority1, x.clockClass, x.accuracy, x.variance, x.priority2, x.grandmaster]
  lexLess (items a) (items b)

/-- The announce interval in ns. -/
def announceNs (a : Announce) : Nat := (1000000000 : Nat) * 2 ^ a.logInterval.toNat / 2 ^ (0 - a.logInterval).toNat

/-- Does a foreign master take part in the selection: two Announces within four intervals, under 255 steps away. (PRESUMED: notes/assumptions/44) -/
def Foreign.qualified (m : Foreign) (now : Nat) : Bool :=
  decide (m.heard.length = 2) && m.heard.all (fun t => decide (now ≤ t + 4 * announceNs m.data)) && decide (m.data.stepsRemoved < 255)

/-- Select the best of the qualified masters and the one selected (R63); a change of master drops the Sync and Delay_Req under way. (PRESUMED: notes/assumptions/44) -/
def TideSt.selectMaster (t : TideSt) (now : Nat) : TideSt :=
  let best := (t.masters.filter (fun m => m.qualified now || decide (t.master = some m.sender))).foldl
    (fun (b : Option Foreign) m => match b with
      | none => some m
      | some x => if announceBeats m.data x.data then some m else some x) none
  let new := best.map (·.sender)
  if new = t.master then t else { t with master := new, syncSeq := none, delayReq := none }

/-- PTP_ANNOUNCE (R63): the foreign master's data set is kept, and the best master clock among those heard is selected. (PRESUMED: notes/assumptions/44) -/
def execPtpAnnounce (domain : Nat) (data : Announce) (s : State) : Host.Outcome State Fault Refusal :=
  if !s.ptpHears domain then .next s
  else
    let was := ((findFirst (fun m => decide (m.sender = data.sender)) s.tide.masters).map (·.heard)).getD []
    let m : Foreign := { sender := data.sender, data := data, heard := s.nowNs :: was.take 1 }
    .next (s.modTide (fun t => { t with masters := t.masters.filter (fun (x : Foreign) => x.sender ≠ data.sender) ++ [m] }.selectMaster s.nowNs))

/-- PTP_DELAY_RESP (R63, R64): the master's receive time of the device's Delay_Req gives the path delay. -/
def execPtpDelayResp (domain src seqId masterRx : Nat) (s : State) : Host.Outcome State Fault Refusal :=
  match s.tide.delayReq with
  | none => .next s
  | some (k, t3) =>
    if s.ptpHears domain && s.fromMaster src && decide (k = seqId) then
      .next (s.modTide (fun t => { t with delayReq := none, pathDelay := (t.syncDelta + ((masterRx : Int) - t3)) / 2 }))
    else .next s

/-- SYNC_LOSS_TIMEOUT (R70): 4 sync intervals without an accepted Sync. -/
def execSyncLossTimeout (s : State) : Host.Outcome State Fault Refusal :=
  if !s.tide.usesPtp then .next s
  else .next (s.modTide (fun t =>
    let t1 := { t with ptpOk := false, syncSeq := none }
    if t1.source = 2 ∧ t1.ppsOk = true then t1 else t1.lose))

/-- ANNOUNCE_RECEIPT_TIMEOUT (R63, R70): 3 announce intervals without an Announce. -/
def execAnnounceReceiptTimeout (s : State) : Host.Outcome State Fault Refusal :=
  if !s.tide.usesPtp then .next s
  else .next (s.modTide (fun t =>
    let t1 := { t with ptpOk := false, masters := t.masters.filter (fun m => t.master ≠ some m.sender), master := none, syncSeq := none }.selectMaster s.nowNs
    if t1.source = 2 ∧ t1.ppsOk = true then t1 else t1.lose))

/-- TIDE_PPS_PULSE (R65): a rising edge, `offset` ns from the expected second edge (positive: local is ahead). It is accepted or rejected whatever the
source; it is measured where the source takes its phase from it. -/
def execTidePpsPulse (offset : Int) (s : State) : Host.Outcome State Fault Refusal :=
  if !s.jui.running then .next s
  else if s.tide.ppsSeen && decide (10000 < offset.natAbs) then .next (s.modTide (fun t => { t with ppsReject := t.ppsReject + 1 }))
  else
    let s1 := s.modTide (fun t => { t with ppsSeen := true, ppsOk := true })
    if !s1.tide.usesPps || (decide (s1.tide.source = 2) && !s1.tide.everLocked) then .next s1 else .next (s1.tideMeasure true offset)

/-- PPS_ABSENT_TIMEOUT (R65, R70): no accepted pulse for 1.5 s. -/
def execPpsAbsentTimeout (s : State) : Host.Outcome State Fault Refusal :=
  .next (s.modTide (fun t =>
    let t1 := { t with ppsOk := false }
    if !t1.usesPps || (decide (t1.source = 2) && t1.ptpOk) then t1 else t1.lose))

/-- HOLDOVER_TIMEOUT (R69): 60 s since the last accepted Sync or pulse. -/
def execHoldoverTimeout (s : State) : Host.Outcome State Fault Refusal :=
  if s.tide.st = 2 then .next (s.modTide (fun t => { t with st := 3, intervalUnsync := true })) else .next s

/-- TIDE_LOCK_TIMEOUT (R73): the tide has not locked within 10 s of the port's training; stage 7 ends with the tide FREE. -/
def execTideLockTimeout (s : State) : Host.Outcome State Fault Refusal := if s.est.attempts.isEmpty then .next s.finishStage7 else .next s

end Sys2Proof.Machine
end

