-- ==== Sys2Proof/Machine/Commit.lean ====
section
/-! DEFINITION. COMMIT (R277 to R284): the step commit, SET_STATE and RESTORE_EST, as they act at mark F (step 2 of R77). -/

namespace Sys2Proof.Machine

open Sys2Proof

/-- MODE after its clamp (R60, R277). -/
def Cmd.commitMode (c : Cmd) : Nat := if 2 < fieldAt c.params 0 1 then 0 else fieldAt c.params 0 1

/-- VOTE set: the local verdict alone decides (R277). -/
def Cmd.commitLocal (c : Cmd) : Bool := decide (fieldAt c.params 1 1 = 1)

/-- The local verdict (R280, R344). -/
def State.localVerdict (s : State) : Bool := !s.train.rows.any (fun r => r.2.nonfinite) && !(s.frd.partnerPresent && s.frd.mirrorBusy)

/-- REPLICA_VOTE of the report (R283). -/
def State.replicaVote (s : State) (localOnly : Bool) : Nat :=
  if localOnly then 3
  else match s.train.vote with
    | some true => 0
    | some false => 1
    | none => 2

/-- The outcome under MODE 0 (R280). -/
def State.commitPasses (s : State) (localOnly : Bool) : Bool := s.localVerdict && (localOnly || decide (s.train.vote = some true))

/-- The report (R283), over the rows as they stand. -/
def State.commitReport (s : State) (mode outcome vote flipped : Nat) (verdict : Bool) (step : W64) : List Byte :=
  let held := s.train.rows.filter (fun r => r.2.held)
  let nonf := s.train.rows.filter (fun r => r.2.nonfinite)
  let list := s.train.rows.filter (fun r => r.2.held || r.2.nonfinite)
  let item (r : Nat × NormRow) : List Byte := leBytes 2 (r.1 + 4096 * (if r.2.nonfinite then 0 else r.2.holdReason))
  padTo 2048 (leBytes 8 step.toNat ++ leBytes 8 s.tide.count ++ leBytes 1 mode ++ leBytes 1 outcome ++ leBytes 1 (b2n (!verdict)) ++ leBytes 1 vote ++
    leBytes 2 flipped ++ leBytes 2 held.length ++ leBytes 2 nonf.length ++ leBytes 2 list.length ++ leBytes 4 0 ++ (list.take 1008).flatMap item)

/-- The row an UPDATE names. -/
def WakeEntry.updateRow (e : WakeEntry) : Option Nat := if e.cmd.opcode = 0x6000 then (updParams e.cmd).1.pair.row else none

/-- UPDATEs in flight at a commit mark are late (R282). (DEDUCED: notes/assumptions/35) -/
def SeqSt.markLate (x : SeqSt) : SeqSt :=
  { x with wake := x.wake.map (fun (e : WakeEntry) => if e.cmd.opcode = 0x6000 then { e with late := true } else e) }

/-- An entry's estimate at a flip (R153). -/
def EstEntry.flip (x : EstEntry) (peak : Option Int) : EstEntry :=
  match peak with
  | some p => { x with est := max p (x.est - 1) }
  | none => x

/-- A row at a passing COMMIT (step 3 of R281, R334). -/
def NormRow.commit (step : W64) (x : NormRow) : NormRow :=
  let g := x.estG.flip x.peakG
  let n := x.estN.flip x.peakN
  let y := { x with estG := g, estN := n, peakG := none, peakN := none, estGC := g, estNC := n, wsq := 0, wn := 0 }
  if x.updated && !x.held then
    { y with epoch := !x.epoch, stepFlipped := step, fpCommitted := x.fps.foldl (fun a f => a ^^^ f.2.1) 0 }
  else y

/-- The step's flags and sums are cleared (step 6 of R281), and the fingerprints of the step with them. -/
def NormRow.closeStep (x : NormRow) : NormRow :=
  { x with tapSq := 0, tapN := 0, passSq := 0, passN := 0, nonfinite := false, updated := false, held := false, holdReason := 0, fps := [] }

/-- Change every row. -/
def State.mapRows (s : State) (f : NormRow → NormRow) : State := { s with train := { s.train with rows := tmapAll NormRow.zero (fun _ x => f x) s.train.rows } }

/-- The rank that stands for a paired module's mirror, held by its partner. (DEDUCED: notes/assumptions/40) -/
def mirrorRank : Nat := 0x100

/-- Send a message of the replica group to a rank, with the header of R323: over the ford link to the partner or for the mirror, else on its peer QP
(R319, R335, R337). -/
def State.replicaSend (s : State) (dest kind : Nat) (data : List Byte) : State :=
  match s.coll.lastVote with
  | none => s
  | some v =>
    let e := if dest = mirrorRank then (noQpn, true) else lget (noQpn, false) v.group.entries dest
    let msg := collHeader v.group.gid v.collSeq kind 0 data.length (s.collInfo v.group.myRank v.window 2) ++ data
    if e.2 then s.sendFlits 7 2 msg
    else if s.peerQp e.1 then (s.sendRoce (.collMsg dest kind v.group.gid v.collSeq msg)).qpRequest e.1 msg.length false msg 0 0
    else s

/-- An FP message (R335). -/
def State.sendFp (s : State) (dest : Nat) (rows : List (Nat × W64)) : State :=
  s.replicaSend dest 4 (rows.flatMap (fun r => leBytes 2 r.1 ++ leBytes 8 r.2.toNat))

/-- A BISECT message (R337). -/
def State.sendBisect (s : State) (dest row first len : Nat) (body : List Byte) : State :=
  s.replicaSend dest 5 (leBytes 2 row ++ leBytes 4 first ++ leBytes 4 len ++ body)

/-- The DIVERGENCE record of a settled mismatch (R335, R393): the row, the minority rank and what bisection is to do. (DEDUCED: notes/assumptions/22) -/
def State.divergence (s : State) (row m action : Nat) : State :=
  s.raise 0x0A action 8 0 none 0 (row % 4096 + 2 ^ 16 * (m % 256) + 2 ^ 24 * action) 0

/-- An unresolved row (R336). -/
def State.unresolved (s : State) (row m : Nat) : State :=
  (s.modEst (fun c => { c with fpUnresolved := c.fpUnresolved + 1 })).divergence row m 0

/-- Change the replica state. -/
def State.modGroup (s : State) (f : GroupSt → GroupSt) : State := { s with coll := f s.coll }

/-- This rank and the members of the last vote collective, when it is one of several. -/
def State.voteSet (s : State) : Option (Nat × List Nat) :=
  match s.coll.lastVote with
  | none => none
  | some v => if v.members.contains v.group.myRank && decide (1 < v.members.length) then some (v.group.myRank, v.members) else none

/-- The member after a rank in the ring of S. -/
def ringNext (mem : List Nat) (r : Nat) : Nat := lget r mem (((findFirst (fun i => lget r mem i = r) (List.range mem.length)).getD 0 + 1) % mem.length)

/-- After a mark at which rows flipped, the fingerprints go to the ring successor and comparison begins (R335). -/
def State.beginCompare (s : State) (flipped : List (Nat × NormRow)) : State :=
  match s.voteSet with
  | none => s
  | some (me, mem) =>
    if flipped.isEmpty then s
    else
      let rows := flipped.map (fun r => (r.1, (s.row r.1).fpCommitted))
      let new := flipped.map (fun (r : Nat × NormRow) =>
        ({ row := r.1, until200 := s.nowNs + 200000000, marked := false, ask := none, mirror := none, peer := none } : CmpRow))
      let old := s.coll.flipped.filter (fun (x : CmpRow) => flipped.all (fun (r : Nat × NormRow) => decide (r.1 ≠ x.row)))
      (s.modGroup (fun g => { g with flipped := old ++ new })).sendFp (ringNext mem me) rows

/-- Comparisons whose time is over end (R335): after the next COMMIT mark and 200 ms after their own; a mismatch not settled by then is unresolved (R336). (DEDUCED: notes/assumptions/40) -/
def State.expireCompare (s : State) : State :=
  let over1 (x : CmpRow) : Bool := x.marked && decide (x.until200 < s.nowNs)
  (s.coll.flipped.filter (fun x => over1 x && x.ask.isSome)).foldl (fun st x => st.unresolved x.row 0)
    (s.modGroup (fun g => { g with flipped := g.flipped.filter (fun x => !over1 x) }))

/-- A COMMIT mark has come for the rows under comparison (R335). -/
def State.endCompare (s : State) : State :=
  (s.modGroup (fun g => { g with flipped := g.flipped.map (fun x => { x with marked := true }) })).expireCompare

/-- MODE 0 at F (R281): the state after it, the report and whether it passed. (DEDUCED: notes/assumptions/35) -/
def State.commitStepAct (s : State) (localOnly : Bool) : State × List Byte × Bool :=
  let inFlight := s.allEntries.filterMap WakeEntry.updateRow
  let s1 := { s with seqs := tmapAll SeqSt.zero (fun _ x => x.markLate) s.seqs }
  let s2 := inFlight.foldl (fun st r => st.modRow r (fun x => { x with held := true, holdReason := 3 })) s1
  let pass := s2.commitPasses localOnly
  let step := if pass then s2.train.step + 1 else s2.train.step
  let flipped := if pass then s2.train.rows.filter (fun r => r.2.updated && !r.2.held) else []
  let masters := flipped.flatMap (fun r => r.2.fps.map (fun f => (r.1, f.1, f.2.2)))
  let s3 := if pass then
      (let m := s2.mapRows (NormRow.commit step)
       { m with train := { m.train with step := step },
                coll := { m.coll with masters := m.coll.masters.filter (fun (x : Nat × Nat × TDesc) => !flipped.any (fun (r : Nat × NormRow) => decide (r.1 = x.1))) ++ masters } })
    else s2
  let report := s3.commitReport 0 (if pass then 0 else 1) (s2.replicaVote localOnly) flipped.length s2.localVerdict step
  let s4 := s3.mapRows NormRow.closeStep
  let s5 := { s4 with train := { s4.train with vote := none, lastOutcome := b2n (!pass), lastMark := s.tide.count, voteFailed := s4.train.voteFailed + b2n (!pass),
                                               noVote := s4.train.noVote + b2n (!localOnly && s2.train.vote.isNone) } }
  (s5.endCompare.beginCompare flipped, report, pass)

/-- What modes 1 and 2 share: the report of the rows before they act, UPDATEs in flight late (R282, R283). -/
def State.commitOther (s : State) (mode : Nat) (step : W64) (f : State → State) : State × List Byte :=
  let report := s.commitReport mode 2 3 0 s.localVerdict step
  let s1 := f { s.endCompare with seqs := tmapAll SeqSt.zero (fun _ x => x.markLate) s.seqs }
  ({ s1 with train := { s1.train with vote := none, lastOutcome := 2, lastMark := s.tide.count } }, report)

/-- Every row of the table with EPOCH as given and all else clear (R284). -/
def epochRows (on : Bool) : Tbl NormRow := if on then (List.range 4096).map (fun r => (r, { NormRow.zero with epoch := true })) else []

/-- MODE 1 (R284). -/
def State.setStateAct (s : State) (c : Cmd) : State × List Byte :=
  let step := BitVec.ofNat 64 (fieldAt c.params 0x10 8)
  s.commitOther 1 step (fun st =>
    { st with train := { st.train with seed := BitVec.ofNat 64 (fieldAt c.params 8 8), step := step, rows := epochRows (decide (fieldAt c.params 2 1 = 1)) },
              coll := { st.coll with flipped := [], masters := [] } })

/-- A row under MODE 2 (R284). -/
def NormRow.restoreEst (x : NormRow) : NormRow := { x with estG := x.estGC, estN := x.estNC, peakG := none, peakN := none }

/-- MODE 2 (R284). -/
def State.restoreEstAct (s : State) : State × List Byte :=
  s.commitOther 2 s.train.step (fun st => st.mapRows NormRow.restoreEst)

/-- The COMMIT (queue, seq) of a mode, when it holds the token and its mark F is now (R278, R279). -/
def State.commitNow (s : State) (q seq mode : Nat) : Option WakeEntry :=
  match s.train.token, s.entry q seq with
  | some h, some e =>
    if s.tide.rest && s.commitDue && decide (h.queue = q) && decide (h.seq = seq) && decide (e.cmd.opcode = 0x6001) && decide (e.cmd.commitMode = mode) then some e
    else none
  | _, _ => none

/-- The COMMIT has acted on the state `old`: the rows' flags are mirrored (R343), its result waits for completion, it is no longer replayed (R402), and the
mark goes on. -/
def State.commitActed (s old : State) (q seq code : Nat) (report : List Byte) : State :=
  let s1 := ((s.mirrorFlags old).ran q seq code report []).modEntry q seq (fun (e : WakeEntry) => { e with noReplay := true })
  ({ s1 with train := { s1.train with token := s1.train.token.map (fun (h : CommitHold) => { h with acted := true }) } }).markRest

/-- COMMIT_STEP (R281): COMMIT MODE 0 at its mark F. -/
def execCommitStep (q seq : Nat) (s : State) : Host.Outcome State Fault Refusal :=
  match s.commitNow q seq 0 with
  | none => .next s
  | some e =>
    let (s1, report, pass) := s.commitStepAct e.cmd.commitLocal
    .next (s1.commitActed s q seq (if pass then 0 else 1) report)

/-- SET_STATE (R284): COMMIT MODE 1 at its mark F. -/
def execSetState (q seq : Nat) (s : State) : Host.Outcome State Fault Refusal :=
  match s.commitNow q seq 1 with
  | none => .next s
  | some e =>
    let (s1, report) := s.setStateAct e.cmd
    .next (s1.commitActed s q seq 0 report)

/-- RESTORE_EST (R284): COMMIT MODE 2 at its mark F. -/
def execRestoreEst (q seq : Nat) (s : State) : Host.Outcome State Fault Refusal :=
  match s.commitNow q seq 2 with
  | none => .next s
  | some _ =>
    let (s1, report) := s.restoreEstAct
    .next (s1.commitActed s q seq 0 report)

end Sys2Proof.Machine
end

