-- ==== Sys2Proof/Machine/Finger.lean ====
section
/-! DEFINITION. Replica fingerprints (R334 to R338): comparison around the ring, settling the minority, bisection, and the repair of blocks. -/

namespace Sys2Proof.Machine

open Sys2Proof

/-! ### Blocks of a row's committed masters (R334, R337) -/

/-- The committed masters of a row in a list of them (row, handle, copy), by rising handle. -/
def mastersOf (l : List (Nat × Nat × TDesc)) (row : Nat) : List (Nat × TDesc) :=
  let ins (x : Nat × TDesc) (l : List (Nat × TDesc)) : List (Nat × TDesc) := l.takeWhile (fun y => y.1 < x.1) ++ x :: l.dropWhile (fun y => y.1 < x.1)
  (l.filter (fun m => decide (m.1 = row))).foldl (fun l m => ins m.2 l) []

/-- The committed masters of a row: this module's own, or of its partner as the mirror here holds them. -/
def State.rowMasters (s : State) (mirror : Bool) (row : Nat) : List (Nat × TDesc) := mastersOf (if mirror then s.frd.mirrorMasters else s.coll.masters) row

/-- Bytes of a master's element part and of its silt part in the stream of R291. -/
def TDesc.streamBytes (t : TDesc) (s : State) : Nat × Nat := (t.count * (fmtBits t.fmt / 8), if (t.masterSilt s).isNull then 0 else t.count)

/-- The blocks of a row: handle, copy, block number within the tensor. -/
def State.rowBlocks (s : State) (mirror : Bool) (row : Nat) : List (Nat × TDesc × Nat) :=
  (s.rowMasters mirror row).flatMap (fun m =>
    let (a, b) := m.2.streamBytes s
    (List.range (cdiv (a + b) 4096)).map (fun j => (m.1, m.2, j)))

/-- The bytes of one block (R334). -/
def State.blockBytes (s : State) (b : Nat × TDesc × Nat) : List Byte := ((b.2.1.masterBytes s).drop (4096 * b.2.2)).take 4096

/-- The fingerprint of one block, padded with zeros (R334). -/
def State.blockFp (s : State) (row : Nat) (b : Nat × TDesc × Nat) : W64 := mixBlocks b.1 row 1 b.2.2 (s.blockBytes b)

/-- The fingerprint of the partner's row as its mirror here gives it (R336). -/
def State.mirrorFp (s : State) (row : Nat) : W64 := (s.rowBlocks true row).foldl (fun x b => x ^^^ s.blockFp row b) 0

/-- Where sub-range i of a block range begins (R337). -/
def subStart (a len i : Nat) : Nat := a + i * len / 16

/-- The 16 sub-range fingerprints of a block range (R337). -/
def State.subFps (s : State) (mirror : Bool) (row a len : Nat) : List W64 :=
  let bs := s.rowBlocks mirror row
  (List.range 16).map (fun i =>
    ((bs.drop (subStart a len i)).take (subStart a len (i + 1) - subStart a len i)).foldl (fun x b => x ^^^ s.blockFp row b) 0)

/-- Fingerprints as a message carries them. -/
def fpBytes (fps : List W64) : List Byte := fps.flatMap (fun w => leBytes 8 w.toNat)

/-- Write the bytes of a repaired block into a master copy (R337): the elements and silt bytes the block covers. -/
def TDesc.writeBlock (t : TDesc) (s : State) (j : Nat) (data : List Byte) : State :=
  let sz := max 1 (fmtBits t.fmt / 8)
  let (a, b) := t.streamBytes s
  let si := t.masterSilt s
  let put (x : TDesc) (st : State) (i : Nat) (bytes : List Byte) : State := st.poke (x.addr (i % x.d0) (i / x.d0)) bytes
  let lo := 4096 * j
  let els := rangeFrom (lo / sz) ((min a (lo + 4096) - min a lo) / sz)
  let s1 := els.foldl (fun st i => put t st i ((data.drop (i * sz - lo)).take sz)) s
  let silts := rangeFrom (max a lo - a) (min (a + b) (lo + 4096) - min (a + b) (max a lo))
  silts.foldl (fun st i => put si st i ((data.drop (a + i - lo)).take 1)) s1

/-! ### Settling a mismatch (R335, R336) -/

/-- Change a row under comparison. -/
def State.modCmp (s : State) (row : Nat) (f : CmpRow → CmpRow) : State :=
  s.modGroup (fun g => { g with flipped := g.flipped.map (fun x => if x.row = row then f x else x) })

/-- The comparison of a row is over. -/
def State.dropCmp (s : State) (row : Nat) : State := s.modGroup (fun g => { g with flipped := g.flipped.filter (fun (x : CmpRow) => x.row ≠ row) })

/-- This rank is the minority of a row: it starts bisecting against the repair source (R337). -/
def State.startRepair (s : State) (row source : Nat) : State :=
  if s.coll.repairs.any (fun r => decide (r.row = row) && !r.complete) then s
  else
    let n := (s.rowBlocks false row).length
    let r : Repair := { row := row, source := source, ranges := [(0, n)], reads := [], blocks := 0, complete := false }
    let s1 := s.modGroup (fun g => { g with repairs := g.repairs.filter (fun (x : Repair) => x.row ≠ row) ++ [r] })
    s1.sendBisect source row 0 n (fpBytes (s1.subFps false row 0 n))

/-- Two members (R336), once both know what the mirrors hold: the one that disagrees with its own mirror is the minority, repaired from the mirror. (DESIGN CHOICE: notes/assumptions/89) -/
def State.settlePair (s : State) (me : Nat) (x : CmpRow) : State :=
  match x.ask, x.mirror, x.peer with
  | some (a, fa), some mine, some its =>
    let meBad := decide (mine ≠ (s.row x.row).fpCommitted)
    let itsBad := decide (its ≠ fa)
    let s1 := s.dropCmp x.row
    if meBad && !itsBad then (s1.divergence x.row me 9).startRepair x.row mirrorRank
    else if itsBad && !meBad then s1.divergence x.row a 9
    else s1.unresolved x.row me
  | _, _, _ => s

/-- What this rank's mirror holds of a row is known: it tells the other of two, and settles if it can (R336). -/
def State.mirrorKnown (s : State) (me : Nat) (x : CmpRow) (fp : W64) : State :=
  match x.ask with
  | some (a, _) => ((s.modCmp x.row (fun y => { y with mirror := some fp })).sendFp a [(x.row, fp)]).settlePair me { x with mirror := some fp }
  | none => s

/-- A row differs from the predecessor's (R336): with three or more the successor is asked for its fingerprint; of two each asks its partner for that of its
mirror, and one without a partner has no mirror to disagree with. (DESIGN CHOICE: notes/assumptions/89) -/
def State.mismatch (s : State) (me : Nat) (mem : List Nat) (x : CmpRow) : State :=
  if 3 ≤ mem.length then s.sendBisect (ringNext mem me) x.row 0 0 []
  else if s.frd.partnerPresent then s.sendBisect mirrorRank x.row 0 0 []
  else s.mirrorKnown me x (s.row x.row).fpCommitted

/-- One row of the predecessor's FP message (R335, R336); of two members a second one tells what the other's mirror holds. (DEDUCED: notes/assumptions/40) -/
def State.compareRow (s : State) (me : Nat) (mem : List Nat) (src : Nat) (r : Nat × W64) : State :=
  match findFirst (fun (x : CmpRow) => decide (x.row = r.1)) s.coll.flipped with
  | none => s
  | some x =>
    if x.ask.isSome then
      (if mem.length = 2 then (s.modCmp r.1 (fun y => { y with peer := some r.2 })).settlePair me { x with peer := some r.2 } else s)
    else
      let s1 := s.modEst (fun c => { c with fpRowsCompared := c.fpRowsCompared + 1 })
      if r.2 = (s.row r.1).fpCommitted then s1.dropCmp r.1
      else
        let y := { x with ask := some (src, r.2) }
        ((s1.modEst (fun c => { c with fpMismatch := c.fpMismatch + 1 })).modCmp r.1 (fun _ => y)).mismatch me mem y

/-- The successor's fingerprint of a row (R336): the answer to this rank's question, or its verdict that this rank is the minority. -/
def State.answerRow (s : State) (me : Nat) (mem : List Nat) (src : Nat) (r : Nat × W64) : State :=
  let own := (s.row r.1).fpCommitted
  match (findFirst (fun (x : CmpRow) => decide (x.row = r.1)) s.coll.flipped).bind (·.ask) with
  | some (a, fa) =>
    let s1 := s.dropCmp r.1
    if own = r.2 then (s1.divergence r.1 a 9).sendFp a [(r.1, r.2)]
    else if fa = r.2 then (s1.divergence r.1 me 9).startRepair r.1 src
    else s1.unresolved r.1 me
  | none => if r.2 = own then s else s.startRepair r.1 (ringNext mem src)

/-- The partner's word on what this rank's mirror holds of a row (R336). -/
def State.mirrorRow (s : State) (me : Nat) (r : Nat × W64) : State :=
  match findFirst (fun (x : CmpRow) => decide (x.row = r.1)) s.coll.flipped with
  | some x => if x.mirror.isNone then s.mirrorKnown me x r.2 else s
  | none => s

/-- Does a message of the replica group reach this module: it is lost while the link it comes by is down (R300). -/
def State.replicaHeard (s : State) (src : Nat) : Bool :=
  if src = mirrorRank then s.frd.linkUp && s.frd.partnerPresent
  else match s.coll.lastVote with
    | some v => if (lget (noQpn, false) v.group.entries src).2 then s.frd.linkUp else s.est.linkUp
    | none => false

/-- FP (R335, R336): fingerprints from the ring predecessor are compared; from the successor or for the mirror they answer a question. -/
def execFpMsg (src : Nat) (rows : List (Nat × BitVec 64)) (s : State) : Host.Outcome State Fault Refusal :=
  match s.voteSet with
  | none => .next s
  | some (me, mem) =>
    if !s.replicaHeard src then .next s
    else if src = mirrorRank then .next (rows.foldl (fun st x => st.mirrorRow me x) s)
    else if decide (ringNext mem src = me) && decide (src ≠ me) && mem.contains src then .next (rows.foldl (fun st x => st.compareRow me mem src x) s)
    else if decide (ringNext mem me = src) && mem.contains src then .next (rows.foldl (fun st x => st.answerRow me mem src x) s)
    else .next s

/-! ### Bisection and repair (R337) -/

/-- The QP that reaches a repair source. -/
def State.sourceQpn (s : State) (source : Nat) : Nat :=
  if source = mirrorRank then noQpn
  else match s.coll.lastVote with
    | some v => (lget (noQpn, false) v.group.entries source).1
    | none => noQpn

/-- Change the repairs of a row. -/
def State.modRepair (s : State) (row : Nat) (f : Repair → Repair) : State :=
  s.modGroup (fun g => { g with repairs := g.repairs.map (fun (x : Repair) => if x.row = row then f x else x) })

/-- Fetch one differing block (R337): by RDMA READ, at the address that the source's copy has there, or over the ford link from the mirror; more than 64 make
the row unresolved. (DESIGN CHOICE: notes/assumptions/89) -/
def State.askBlock (s : State) (r : Repair) (b : Nat) : State :=
  match findFirst (fun x => decide (x.row = r.row)) s.coll.repairs with
  | none => s
  | some cur =>
    if 64 ≤ cur.blocks then
      (s.modGroup (fun g => { g with repairs := g.repairs.filter (fun (x : Repair) => x.row ≠ r.row) })).unresolved r.row ((s.voteSet.map Prod.fst).getD 0)
    else
      let asked (psn : Nat) (st : State) : State := st.modRepair r.row (fun (x : Repair) => { x with reads := x.reads ++ [(psn, b)], blocks := x.blocks + 1 })
      if r.source = mirrorRank then (asked b s).sendBisect mirrorRank r.row b 1 []
      else
        let qpn := s.sourceQpn r.source
        let psn := (s.qp qpn).nextPsn
        let (w, s1) := s.freshWord
        let addr := w.toNat % 2 ^ 48
        ((asked psn s1).sendRoce (.readRequest qpn psn addr 4096)).qpRequest qpn 4096 true [] r.row addr

/-- A repair with nothing left to compare or to read is complete. -/
def Repair.settle (r : Repair) : Repair := { r with complete := r.ranges.isEmpty && r.reads.isEmpty }

/-- The source's sub-range fingerprints of a range this rank compares (R337): recurse into what differs. -/
def State.bisectReply (s : State) (r : Repair) (first len : Nat) (fps : List W64) : State :=
  let own := s.subFps false r.row first len
  let s1 := s.modRepair r.row (fun (x : Repair) => { x with ranges := x.ranges.filter (fun y => y ≠ (first, len)) })
  let step (st : State) (i : Nat) : State :=
    let a := subStart first len i
    let n := subStart first len (i + 1) - a
    if n = 0 ∨ lget 0 own i = lget 0 fps i then st
    else if n = 1 then st.askBlock r a
    else (st.modRepair r.row (fun (x : Repair) => { x with ranges := x.ranges ++ [(a, n)] })).sendBisect r.source r.row a n (fpBytes (st.subFps false r.row a n))
  ((List.range 16).foldl step s1).modRepair r.row Repair.settle

/-- A range another asks about (R336, R337): a row's fingerprint, one block of the mirror, or its sub-range fingerprints; for the partner of the mirror here. -/
def State.bisectAnswer (s : State) (src row first len : Nat) (fps : List W64) : State :=
  let mirror := decide (src = mirrorRank)
  if len = 0 then s.sendFp src [(row, if mirror then s.mirrorFp row else (s.row row).fpCommitted)]
  else if mirror && decide (len = 1) && fps.isEmpty then s.sendBisect src row first len (((s.rowBlocks true row)[first]?.map s.blockBytes).getD [])
  else s.sendBisect src row first len (fpBytes (s.subFps mirror row first len))

/-- BISECT (R336, R337): the source's answer to this rank, or a question. -/
def execBisect (src row first len : Nat) (fps : List (BitVec 64)) (s : State) : Host.Outcome State Fault Refusal :=
  if !s.replicaHeard src then .next s
  else
    match findFirst (fun r => decide (r.row = row) && decide (r.source = src) && r.ranges.contains (first, len)) s.coll.repairs with
    | some r => .next (s.bisectReply r first len fps)
    | none => .next (s.bisectAnswer src row first len fps)

/-- RDMA_READ_RESPONSE (R337): a block read for a repair arrives and the update engine of partition 0 writes it, holding the commit token;
while a COMMIT holds the token it waits, and the row comes again. Over the ford link `qpn` is 0xFFFFFFFF and `psn` the block. -/
def execRdmaReadResponse (qpn psn : Nat) (data : List Byte) (s : State) : Host.Outcome State Fault Refusal :=
  match findFirst (fun r => decide (s.sourceQpn r.source = qpn) && r.reads.any (fun x => decide (x.1 = psn))) s.coll.repairs with
  | none => .next s
  | some r =>
    if s.train.token.isSome || !(if qpn = noQpn then s.frd.linkUp else s.est.linkUp) then .next s
    else
      let b := ((findFirst (fun (x : Nat × Nat) => decide (x.1 = psn)) r.reads).map (·.2)).getD 0
      let s1 := match (s.rowBlocks false r.row)[b]? with
        | some (_, t, j) => t.writeBlock s j (padTo 4096 data)
        | none => s
      let s2 := s1.modRepair r.row (fun x => Repair.settle { x with reads := x.reads.filter (fun y => y.1 ≠ psn) })
      let s3 := s2.modEst (fun c => { c with fpRepairedBlocks := c.fpRepairedBlocks + 1, rxPkts := c.rxPkts + packets (s.qp qpn).mtu 4096 })
      .next (if qpn = noQpn then s3 else s3.modQp qpn (fun x => { x with sent := x.sent.filter (fun y => y.psn ≠ psn) }))

end Sys2Proof.Machine
end

