-- ==== Sys2Proof/Machine/Estuary.lean ====
section
/-! DEFINITION. The estuary (R298 to R316): the port, addresses and connections, the responder and the rings, congestion and retransmission. -/

namespace Sys2Proof.Machine

open Sys2Proof

/-! ### Exact rates (R313) -/

/-- Bring a dyadic value to its normal form: m odd, or k = 0. -/
def dyadNorm : Nat → Nat → Dyad
  | m, 0 => ⟨m, 0⟩
  | m, k + 1 => if m % 2 = 0 then dyadNorm (m / 2) k else ⟨m, k + 1⟩

/-- A sum. -/
def Dyad.add (a b : Dyad) : Dyad := dyadNorm (a.m * 2 ^ b.k + b.m * 2 ^ a.k) (a.k + b.k)

/-- A product. -/
def Dyad.mul (a b : Dyad) : Dyad := dyadNorm (a.m * b.m) (a.k + b.k)

/-- a ≤ b. -/
def Dyad.le (a b : Dyad) : Bool := decide (a.m * 2 ^ b.k ≤ b.m * 2 ^ a.k)

/-- A whole number. -/
def Dyad.ofNat (n : Nat) : Dyad := ⟨n, 0⟩

/-- Half of a value. -/
def Dyad.half (a : Dyad) : Dyad := dyadNorm a.m (a.k + 1)

/-- 1 − α / 2 for α at most 1. -/
def Dyad.coHalf (a : Dyad) : Dyad := dyadNorm (2 ^ (a.k + 1) - a.m) (a.k + 1)

/-- (1 − 1/16) α. -/
def Dyad.decay (a : Dyad) : Dyad := dyadNorm (15 * a.m) (a.k + 4)

/-! ### Packets in -/

/-- Count received packets; their length on the wire is a free value. -/
def State.countRx (s : State) (n : Nat) : State :=
  let (b, s1) := s.fresh
  s1.modEst (fun x => { x with rxPkts := x.rxPkts + n, rxBytes := x.rxBytes + b })

/-- A QP enters the error state (R302, R315), and the collectives it serves lose a member (R331). -/
def State.qpError (s : State) (qpn : Nat) : State :=
  (((s.modQp qpn (fun x => { x with phase := 3, sent := [], reads := 0 })).modEst (fun c => { c with qpErrors := c.qpErrors + 1 }))).qpLost qpn

/-- PSN distance modulo 2^24. -/
def psnGap (a b : Nat) : Nat := (a + 2 ^ 24 - b % 2 ^ 24) % 2 ^ 24

/-- A request packet for a connected QP: dropped while the link is down or the module is being removed (R300, R316); dropped, counted and a wake
trigger in slack and in the hold (R365, R366); else counted and taken in PSN order (R304, R314): the expected one runs `f` and advances by `n`
packets, a duplicate runs `dup`, a gap is answered once. (DEDUCED: notes/assumptions/41) -/
def State.takeRequest (s : State) (qpn psn n pk : Nat) (dup f : State → State) : State :=
  let x := s.qp qpn
  if !s.est.linkUp || s.pins.removing || decide (x.phase ≠ 2) then s
  else if s.spw.asleep then (s.slackDrop).wakeTrigger
  else
    let s1 := s.countRx pk
    if psn = x.epsn then f (s1.modQp qpn (fun y => { y with epsn := (y.epsn + n) % 2 ^ 24, nakSent := false }))
    else if psnGap psn x.epsn < 2 ^ 23 then
      (if x.nakSent then s1 else ((s1.modQp qpn (fun y => { y with nakSent := true })).sendRoce (.nakSequence qpn x.epsn)).countTx 1)
    else dup s1

/-- An acknowledgement. -/
def State.ackTo (s : State) (qpn psn : Nat) : State := (s.sendRoce (.ack qpn psn)).countTx 1

/-- Count an access that R303 clamps. -/
def State.countOob (s : State) (va len : Nat) : State :=
  if s.cutLen va len < len ∨ s.inWindow va = false then s.modEst (fun c => { c with oobAccess := c.oobAccess + 1 }) else s

/-! ### Ring arrivals (R305, R306, R309) -/

/-- The ring entries (queue, index) that a byte range touches. -/
def ringTouched (va len : Nat) : List (Nat × Nat) :=
  let lo := max va ringBase - ringBase
  let hi := min (va + len) bootBase - ringBase
  if len = 0 ∨ va + len ≤ ringBase ∨ bootBase ≤ va then []
  else (rangeFrom (lo / 128) ((hi - 1) / 128 - lo / 128 + 1)).map (fun k => (k / 1024, k % 1024))

/-- Does a byte range cover an entry's SEQ field. -/
def coversSeq (va len q i : Nat) : Bool := decide (va ≤ ringEntry q i + 0x78) && decide (ringEntry q i + 0x80 ≤ va + len)

/-- Insert an arrival by rising SEQ. -/
def seqInsert (x : Nat × Nat × Nat) : List (Nat × Nat × Nat) → List (Nat × Nat × Nat)
  | [] => [x]
  | y :: t => if x.2.2 < y.2.2 then x :: y :: t else y :: seqInsert x t

/-- A frame arrives: its slot is posted PENDING with its tag (R309). -/
def State.postSlot (s : State) (q i seq : Nat) : State :=
  let f := s.peekBytes (ringEntry q i) 128
  let x := { Slot.empty with tag := slotTag q seq, phase := 1, queue := q, cmdTag := BitVec.ofNat 64 (fieldAt f 0x70 8) }
  if bitOf (fieldAt f 2 2) 2 then { s with slots := tset .empty s.slots (fieldAt f 6 2 % 16384) x } else s

/-- One arriving entry against the expected numbers before the WRITE (R306). -/
def State.ringArrive (s0 s : State) (x : Nat × Nat × Nat) : State :=
  let (q, i, seq) := x
  if seq % 1024 ≠ i ∨ seq < (s0.queue q).expected then s.modEst (fun c => { c with ringStale := c.ringStale + 1 })
  else if s.partCores (q / 64) = 0 then s
  else (s.modQueue q (fun y => { y with arrived := y.arrived ++ [(i, seq)] })).postSlot q i seq

/-- The ring after a WRITE (R306): the entries whose SEQ it covers arrive by rising SEQ; what else waits and was changed is lost already by the
store. -/
def State.ringWrite (s0 s : State) (va len : Nat) : State :=
  let covered := (ringTouched va len).filter (fun e => coversSeq va len e.1 e.2)
  let s1 := covered.foldl (fun st e => st.modQueue e.1 (fun y => { y with arrived := y.arrived.filter (fun a => a.1 ≠ e.2) })) s
  let arr := covered.map (fun e => (e.1, e.2, s1.peekWord (ringEntry e.1 e.2 + 0x78) 8))
  (arr.foldl (fun l x => seqInsert x l) []).foldl (fun st x => s0.ringArrive st x) s1

/-! ### The responder (R302 to R304, R314, R319) -/

/-- A request outside the subset of R302: NAK Invalid Request, and the QP enters the error state. (DEDUCED: notes/assumptions/41) -/
def State.refuseRequest (s : State) (qpn psn : Nat) : State := ((s.sendRoce (.nakInvalid qpn psn)).countTx 1).qpError qpn

/-- The greatest message (R302). -/
def maxMessage : Nat := 2 ^ 31

/-- The one P_Key (R302): a packet with another is not taken. (DEDUCED: notes/assumptions/41) -/
def defaultPkey : Nat := 0xFFFF

/-- Run what a packet asks for if its P_Key is the one supported. (DEDUCED: notes/assumptions/41) -/
def State.underPkey (s : State) (pkey : Nat) (f : State → Host.Outcome State Fault Refusal) : Host.Outcome State Fault Refusal :=
  if pkey = defaultPkey then f s else .next s

/-- RDMA_WRITE (R303 to R306, R319): a whole WRITE message, from its first packet's PSN. -/
def execRdmaWrite (pkey qpn rkey psn va : Nat) (data : List Byte) (s : State) : Host.Outcome State Fault Refusal :=
  let x := s.qp qpn
  let n := packets x.mtu data.length
  let last := (psn + n - 1) % 2 ^ 24
  s.underPkey pkey (fun s => .next (s.takeRequest qpn psn n n (fun st => st.ackTo qpn last) (fun st =>
    if maxMessage < data.length then st.refuseRequest qpn psn
    else if x.peer then (st.modEst (fun c => { c with writeDropped := c.writeDropped + 1 })).ackTo qpn last
    else if rkey ≠ x.rkey then ((st.sendRoce (.nakAccess qpn psn)).countTx 1).qpError qpn
    else
      let len := st.cutLen va data.length
      let st1 := (st.countOob va data.length).store va (data.take len) false false
      (st.ringWrite st1 va len).ackTo qpn last)))

/-- Bytes as a READ returns them: a poisoned byte is a free value. (DEDUCED: notes/assumptions/41) -/
def State.readFree (s : State) (a n : Nat) : List Byte × State :=
  let bs := (List.range n).map (fun i => if s.peekPoison (a + i) then (Config.freeWord (s.freeCtr + i)).setWidth 8 else s.peek (a + i))
  (bs, if (List.range n).any (fun i => s.peekPoison (a + i)) then { s with freeCtr := s.freeCtr + n } else s)

/-- RDMA_READ (R303, R304, R319): bytes of the windows, zeros outside; its response takes a PSN for each packet. -/
def execRdmaRead (pkey qpn rkey psn va len : Nat) (s : State) : Host.Outcome State Fault Refusal :=
  let x := s.qp qpn
  let n := packets x.mtu len
  let answer (st : State) : State :=
    if maxMessage < len then st.refuseRequest qpn psn
    else if rkey ≠ x.rkey then ((st.sendRoce (.nakAccess qpn psn)).countTx 1).qpError qpn
    else
      let k := st.cutLen va len
      let (bs, st1) := (st.countOob va len).readFree va k
      (st1.sendRoce (.readData qpn psn (bs ++ List.replicate (len - k) 0))).countTx n
  s.underPkey pkey (fun s => .next (s.takeRequest qpn psn n 1 answer answer))

/-- SEND (R303, R319): on a host connection acknowledged and discarded; on a peer connection the message it carries has a row of its own. -/
def execSend (pkey qpn psn : Nat) (data : List Byte) (s : State) : Host.Outcome State Fault Refusal :=
  let x := s.qp qpn
  let n := packets x.mtu data.length
  let last := (psn + n - 1) % 2 ^ 24
  s.underPkey pkey (fun s => .next (s.takeRequest qpn psn n n (fun st => st.ackTo qpn last) (fun st =>
    if maxMessage < data.length then st.refuseRequest qpn psn
    else (if x.peer then st else st.modEst (fun c => { c with sendDropped := c.sendDropped + 1 })).ackTo qpn last)))

/-- UNSUPPORTED_REQUEST (R302): NAK Invalid Request, and the QP enters the error state. -/
def execUnsupportedRequest (pkey qpn psn : Nat) (s : State) : Host.Outcome State Fault Refusal :=
  s.underPkey pkey (fun s => .next (s.takeRequest qpn psn 1 1 (fun st => st) (fun st => st.refuseRequest qpn psn)))

/-! ### The requester (R314, R315) -/

/-- A request after the PSNs up to one are acknowledged: none when it is complete; a READ waits for its response. -/
def TxReq.acked (r : TxReq) (psn : Nat) : Option TxReq :=
  let k := psnGap psn r.psn + 1
  if r.isRead || decide (2 ^ 23 < k) then some r
  else if r.pkts ≤ k then none
  else some { r with psn := (r.psn + k) % 2 ^ 24, pkts := r.pkts - k, retries := 0 }

/-- PSNs up to one are acknowledged. -/
def Qp.acked (x : Qp) (psn : Nat) : Qp := { x with sent := x.sent.filterMap (fun r => r.acked psn) }

/-- Retransmit from a PSN on, which the request `r` begins with: after RETRY_CNT retransmissions of it without progress the QP enters the error state
(R315). -/
def State.resendFrom (s : State) (qpn : Nat) (r : TxReq) : State :=
  if s.est.cfg.retryCnt ≤ r.retries then s.qpError qpn
  else
    let k := (((s.qp qpn).sent.filter (fun (y : TxReq) => decide (psnGap y.psn r.psn < 2 ^ 23))).map (·.pkts)).sum
    ((((s.modQp qpn (fun x => { x with sent := x.sent.map (fun (y : TxReq) => if y.psn = r.psn then { y with retries := y.retries + 1 } else y) })).sendRoce
      (.retransmit qpn r.psn)).modEst (fun c => { c with retransmits := c.retransmits + k })).countTx k)

/-- RDMA_ACK_RECEIVED (R315): what was sent up to a PSN is acknowledged. -/
def execRdmaAckReceived (qpn psn : Nat) (s : State) : Host.Outcome State Fault Refusal :=
  if !s.est.linkUp || decide ((s.qp qpn).phase ≠ 2) then .next s else .next ((s.countRx 1).modQp qpn (fun y => y.acked psn))

/-- NAK_RECEIVED (R314): the requester goes back to the PSN that the NAK names; what came before it is acknowledged. -/
def execNakReceived (qpn psn : Nat) (s : State) : Host.Outcome State Fault Refusal :=
  if !s.est.linkUp || decide ((s.qp qpn).phase ≠ 2) then .next s
  else
    let s1 := (s.countRx 1).modQp qpn (fun y => y.acked ((psn + 2 ^ 24 - 1) % 2 ^ 24))
    match findFirst (fun r => decide (r.psn = psn)) (s1.qp qpn).sent with
    | some r => .next (s1.resendFrom qpn r)
    | none => .next s1

/-- ACK_TIMEOUT (R315): retransmission from the oldest unacknowledged PSN. -/
def execAckTimeout (qpn : Nat) (s : State) : Host.Outcome State Fault Refusal :=
  match (s.qp qpn).sent with
  | [] => .next s
  | r :: _ => .next (s.resendFrom qpn r)

/-! ### Congestion (R312, R313) -/

/-- The port rate in Gb/s. -/
def State.portRate (s : State) : Nat := 200 * s.est.lanesInUse.length

/-- CE_PACKET (R312): a notification goes back, at most one per QP per interval. -/
def execCePacket (qpn : Nat) (s : State) : Host.Outcome State Fault Refusal :=
  let x := s.qp qpn
  if !s.est.linkUp || decide (x.phase ≠ 2) then .next s
  else
    let due := match x.lastCnp with
      | some t => decide (t + 1000 * s.est.cfg.cnpIntervalUs ≤ s.nowNs)
      | none => true
    if due then
      .next ((((s.modQp qpn (fun y => { y with lastCnp := some s.nowNs })).sendRoce (.cnp qpn)).modEst (fun c => { c with cnpTx := c.cnpTx + 1 })).countTx 1)
    else .next s

/-- A cut (R313). (DEDUCED: notes/assumptions/42) -/
def Qp.cut (x : Qp) : Qp :=
  let r := x.rate.mul x.alpha.coHalf
  { x with target := x.rate, rate := if r.le (Dyad.ofNat 1) then Dyad.ofNat 1 else r, alpha := x.alpha.decay.add ⟨1, 4⟩, stage := 0, cnpSeen := true }

/-- CNP_RECEIVED (R313). -/
def execCnpReceived (qpn : Nat) (s : State) : Host.Outcome State Fault Refusal :=
  if !s.est.linkUp || decide ((s.qp qpn).phase ≠ 2) then .next s
  else .next ((((s.countRx 1).modQp qpn Qp.cut)).modEst (fun c => { c with cnpRx := c.cnpRx + 1 }))

/-- 55 µs of a QP have passed (R313): α decays when no CNP was received in them; the rate recovers. (DEDUCED: notes/assumptions/42) -/
def Qp.timer (x : Qp) (port : Nat) : Qp :=
  let y := { x with alpha := if x.cnpSeen then x.alpha else x.alpha.decay, cnpSeen := false }
  if y.stage < 5 then { y with rate := (y.rate.add y.target).half, stage := y.stage + 1 }
  else
    let t := y.target.add (Dyad.ofNat 5)
    let t' := if t.le (Dyad.ofNat port) then t else Dyad.ofNat port
    { y with target := t', rate := (y.rate.add t').half }

/-- RATE_TIMER (R313). -/
def execRateTimer (qpn : Nat) (s : State) : Host.Outcome State Fault Refusal :=
  if (s.qp qpn).phase ≠ 2 then .next s else .next (s.modQp qpn (fun x => x.timer s.portRate))

/-! ### Addresses and connections (R298, R301, R302, R318) -/

/-- ARP_REQUEST (R301): answered for the device's IPv4 address. -/
def execArpRequest (target sender : BitVec 32) (mac : BitVec 48) (s : State) : Host.Outcome State Fault Refusal :=
  let _ := (sender, mac)
  if s.est.linkUp && s.est.cfg.ipv4En && decide (target = s.est.cfg.ipv4) then .next (((s.countRx 1).send (.arpReply target s.est.cfg.mac)).countTx 1)
  else .next s

/-- NEIGHBOR_SOLICITATION (R301): answered for the device's IPv6 address. -/
def execNeighborSolicitation (target sender : BitVec 128) (mac : BitVec 48) (s : State) : Host.Outcome State Fault Refusal :=
  let _ := (sender, mac)
  if s.est.linkUp && s.est.cfg.ipv6En && decide (target = s.est.cfg.ipv6) then .next (((s.countRx 1).send (.neighborAdvert target s.est.cfg.mac)).countTx 1)
  else .next s

/-- PAUSE_FRAME (R298): dropped and counted, IEEE 802.3x PAUSE and IEEE 802.1Qbb PFC alike. -/
def execPauseFrame (pfc : Bool) (s : State) : Host.Outcome State Fault Refusal :=
  let _ := pfc
  if s.est.linkUp then .next (s.modEst (fun c => { c with pauseRx := c.pauseRx + 1 })) else .next s

/-- MTU_MAX in bytes (EST_CFG). -/
def EstCfg.mtuBytes (c : EstCfg) : Nat := if c.mtuMax = 3 then 1024 else if c.mtuMax = 4 then 2048 else 4096

/-- A path MTU not above `n`. -/
def pathMtu (n : Nat) : Nat := if 4096 ≤ n then 4096 else if 2048 ≤ n then 2048 else 1024

/-- The QP of a connection. -/
def State.connQp (s : State) (commId : Nat) : Option Nat :=
  (findFirst (fun (q : Nat × Qp) => decide (q.2.commId = commId) && (decide (q.2.phase = 1) || decide (q.2.phase = 2))) s.est.qps).map (·.1)

/-- A free QP: never connected, freed, or in the error state (R302). -/
def State.freeQp (s : State) : Option Nat :=
  findFirst (fun n => decide ((s.qp n).phase = 0) || decide ((s.qp n).phase = 3)) (rangeFrom 0x100 4096)

/-- CM_REQ (R302, R318, R365): a QP is given, or a peer QP bound anew; refused before stage 8 has ended or with no QP free. -/
def execCmReq (pkey commId : Nat) (peer : Bool) (mtu rqpn rkey : Nat) (raddr : BitVec 128) (s : State) : Host.Outcome State Fault Refusal :=
  if !s.est.linkUp || s.pins.removing || decide (pkey ≠ defaultPkey) then .next s
  else if s.spw.asleep then .next (s.slackDrop.wakeTrigger)
  else
    let s1 := s.countRx 1
    if !s.boot.ready then .next ((s1.sendRoce (.cmRej commId)).countTx 1)
    else
      let m := min (pathMtu mtu) s.est.cfg.mtuBytes
      match s1.connQp commId with
      | some n =>
        let s2 := s1.modQp n (fun x => { x with remoteQpn := rqpn, remoteRkey := rkey, remoteAddr := raddr })
        .next ((s2.sendRoce (.cmRep commId n (s2.qp n).rkey (s2.qp n).mtu)).countTx 1)
      | none =>
        match s1.freeQp with
        | none => .next ((s1.sendRoce (.cmRej commId)).countTx 1)
        | some n =>
          let (w, s2) := s1.freshWord
          let key := w.toNat % 2 ^ 32
          let q : Qp := { Qp.zero with phase := 1, peer := peer, commId := commId, rkey := key, mtu := m, remoteQpn := rqpn, remoteRkey := rkey,
                                       remoteAddr := raddr, rate := Dyad.ofNat s.portRate, target := Dyad.ofNat s.portRate }
          .next (((s2.modQp n (fun _ => q)).sendRoce (.cmRep commId n key m)).countTx 1)

/-- CM_RTU (R302): the connection is established. -/
def execCmRtu (commId : Nat) (s : State) : Host.Outcome State Fault Refusal :=
  match s.connQp commId with
  | none => .next s
  | some n => if s.est.linkUp && !s.spw.asleep then .next ((s.countRx 1).modQp n (fun x => { x with phase := 2 })) else .next s

/-- CM_DREQ (R302): the QP is freed and DREP answers. -/
def execCmDreq (commId : Nat) (s : State) : Host.Outcome State Fault Refusal :=
  match s.connQp commId with
  | none => .next s
  | some n =>
    if !s.est.linkUp || s.spw.asleep then .next s
    else .next ((((((s.countRx 1).sendRoce (.cmDrep commId)).countTx 1).qpLost n)).modQp n (fun _ => Qp.zero))

/-! ### The link (R299, R300) -/

/-- LINK_DOWN (R300): the link is lost in service and retrains at its fixed width. -/
def execLinkDown (s : State) : Host.Outcome State Fault Refusal :=
  if s.est.linkUp then .next { s with est := { s.est with linkUp := false, retrainDue := true, ctr := { s.est.ctr with linkDowns := s.est.ctr.linkDowns + 1 } } }
  else .next s

/-- LINK_RETRAIN_TIMER (R300): a second has passed, and training is tried again. -/
def execLinkRetrainTimer (s : State) : Host.Outcome State Fault Refusal :=
  if !s.est.linkUp && !s.est.lanesInUse.isEmpty then .next { s with est := { s.est with retrainDue := true } } else .next s

/-- A bit mask of lanes. -/
def laneMask (l : List Nat) : Nat := (l.map (fun i => 2 ^ i)).sum

/-- LINK_UP (R299, R300): the attempt in progress succeeds and fixes the width, or a retraining succeeds. -/
def execLinkUp (s : State) : Host.Outcome State Fault Refusal :=
  match s.est.attempts with
  | g :: _ =>
    .next ({ s with est := { s.est with linkUp := true, lanesTrained := laneMask g, lanesInUse := g, attempts := [], retrainDue := false },
                    cap := { s.cap with portGbps := 200 * g.length, portLanes := g.length } }).settleStage7
  | [] => if s.est.retrainDue && !s.est.lanesInUse.isEmpty && !s.est.linkUp && !s.unitInReset 8 0 then
      .next { s with est := { s.est with linkUp := true, retrainDue := false } } else .next s

/-- PORT_ATTEMPT_TIMEOUT (R299): the attempt fails after 2 s; groups with a lane that failed to train are skipped; without one left the port
is down. -/
def execPortAttemptTimeout (failedLanes : List Nat) (s : State) : Host.Outcome State Fault Refusal :=
  match s.est.attempts with
  | [] => .next s
  | _ :: rest =>
    let bad := failedLanes.foldl (fun l k => ninsert k l) s.est.badLanes
    let left := rest.filter (fun g => !g.any (fun l => bad.contains l))
    let s1 := { s with est := { s.est with badLanes := bad, attempts := left, attemptCount := s.est.attemptCount + b2n (!left.isEmpty) } }
    if left.isEmpty && decide (s.tide.source ≠ 1) then .next s1.finishStage7 else .next s1.settleStage7

end Sys2Proof.Machine
end

