-- ==== Sys2Proof/Machine/Csr.lean ====
section
/-! DEFINITION. The control and status space (R11, R12, R26 to R31): every register as it reads, the locked fields that the configuration
sets, and device code's writes. -/

namespace Sys2Proof.Machine

open Sys2Proof

/-! ### Bit fields -/

/-- Place values at bit positions: (value, low bit, width). -/
def packBits (fs : List (Nat × Nat × Nat)) : Nat := (fs.map (fun f => f.1 % 2 ^ f.2.2 * 2 ^ f.2.1)).sum

/-- A flag at a bit position. -/
def flagAt (b : Bool) (i : Nat) : Nat × Nat × Nat := (b2n b, i, 1)

/-- The k-th of a run of 64-bit registers that starts at an offset; none outside it. -/
def runIndex (off base n : Nat) : Option Nat := if off % 8 = 0 ∧ base ≤ off ∧ off < base + 8 * n then some ((off - base) / 8) else none

/-- A run of counters from an offset on. -/
def counterAt (off base : Nat) (cs : List Nat) : Nat :=
  match runIndex off base cs.length with
  | some k => lget 0 cs k
  | none => 0

/-! ### What registers read (the register maps of the chapters) -/

/-- SEQ_ registers of a partition. -/
def State.readSeq (s : State) (p off : Nat) : Nat :=
  let x := s.seqr p
  if s.partCores p = 0 then 0
  else if off = 0 then packBits [flagAt true 0, (s.partDecoded p, 8, 11)]
  else if off = 8 then packBits [(x.depthEff, 0, 7), flagAt x.expertPf 8]
  else if off < 0x100 then counterAt off 0x10 [x.raUsed, x.raDiscarded, x.descLate]
  else match runIndex off 0x100 64, runIndex off 0x300 64 with
    | some j, _ => (s.queue (64 * p + j)).tally
    | none, some j => (s.queue (64 * p + j)).expected
    | none, none => 0

/-- WEIR_ registers (R49). -/
def State.readWeir (s : State) (off : Nat) : Nat :=
  match runIndex off 0 65536 with
  | some i => packBits [((s.weir i).arrived, 0, 16), ((s.weir i).target, 16, 16), ((s.weir i).gen, 32, 16)]
  | none => 0

/-- DLT_ registers. -/
def State.readDlt (s : State) (off : Nat) : Nat :=
  let d := s.dlt
  let valid := (d.history.filter (fun h => h.2.isSome)).length
  if off = 0 then packBits [flagAt d.busyQueue.isSome 0, flagAt d.pfActive 1, (d.busyQueue.getD 0, 8, 8), (valid, 16, 9)]
  else if off = 8 then packBits [flagAt d.pfEn 0, (d.pfBudgetMib, 8, 8)]
  else if off = 0x10 then packBits [(d.lastExperts, 0, 9), (d.lastTopk, 9, 4), (d.lastLayer, 16, 12), (d.lastImbalance, 32, 16)]
  else counterAt off 0x18 [d.routes, d.choices, d.dropped, d.moved, d.spilled, d.pfPredicted, d.pfHits, d.pfWrong, d.pfUnpredicted, d.pfLines,
    d.pfLinesDiscarded, d.pfBudgetCut, d.badEntries, d.nonfinite]

/-- LLC_ registers of a slice. -/
def State.readLlc (s : State) (i off : Nat) : Nat :=
  let x := s.slice i
  let mine := s.llc.lines.filter (fun l => decide (l.1 / 16 / 1536 = i))
  let first := decide (i = 0)
  if off = 0 then
    (if first then packBits [(s.llc.pinQuota, 0, 4), flagAt s.llc.strictDead 4, (s.llc.thrashPct, 8, 7), (s.llc.thrashMarks, 16, 16)] else 0)
  else if off = 8 then
    packBits [(x.ways, 0, 5), ((mine.filter (fun l => l.2.pinned)).length, 5, 15), ((mine.filter (fun l => l.2.dead)).length, 20, 15),
      flagAt (first && s.llc.thrash) 35, (s.quotaEff i, 36, 4)]
  else if off = 0x10 then packBits [(x.rate, 0, 16), (if first then s.llc.wideRate else 0, 16, 16)]
  else if off = 0x108 then (if first then s.llc.rangeDone else 0)
  else if off = 0x110 then (if first then s.llc.rangeQueue.length else 0)
  else counterAt off 0x20 [x.accesses, x.misses, x.dupMisses, x.unpinnedAccesses, x.unpinnedMisses, x.pinDemoted, x.deadDropped, x.readAfterDead,
    x.writebacks, x.uncached, x.ce, x.ue]

/-- NT_ or DT_ registers of an instance. -/
def State.readCtl (s : State) (deep : Bool) (k off : Nat) : Nat :=
  let c := tget MemCtl.zero (if deep then s.dt else s.nt) k
  let list := if deep then s.cap.deep else s.cap.near
  if off = 0 then packBits [(c.trained, 0, 32), flagAt (list.any (fun x => decide (x % (if deep then 24 else 8) = k))) 32]
  else if off = 8 then packBits [(c.scrubHours, 0, 8)]
  else counterAt off 0x10 [c.reads, c.writes, c.rmw, c.ce, c.ue, c.scrubPasses, c.poisonWrites]

/-- COD_ registers. -/
def State.readCod (s : State) (off : Nat) : Nat :=
  let c := s.cod
  if off = 0 then packBits [(c.busyEngines, 0, 6)]
  else counterAt off 8 [c.inBytes, c.outBytes, c.expIn, c.expOut, c.rawBlocks, c.zeroBlocks, c.streamBad, c.cutSegments]

/-- UPD_ registers of a partition; the device-wide ones are instance 0's. -/
def State.readUpd (s : State) (p off : Nat) : Nat :=
  let u := s.upd p
  let t := s.train
  if s.partCores p = 0 then 0
  else if off = 0 then packBits [flagAt u.running.isSome 0, flagAt (u.running.isSome && u.prepass) 1, ((u.running.map (·.1)).getD 0, 8, 8),
    (if u.running.isSome then u.layer else 0, 16, 12)]
  else if off < 0x40 ∧ p ≠ 0 then 0
  else if off = 8 then b2n t.checkEn
  else if off = 0x10 then t.step.toNat
  else if off = 0x18 then t.seed.toNat
  else if off = 0x20 then packBits [flagAt t.token.isSome 0, flagAt t.vote.isSome 1, (t.lastOutcome, 2, 2)]
  else if off = 0x28 then t.lastMark
  else if off < 0x100 then
    counterAt off 0x40 ([u.commands, u.elements, u.held, u.late, u.deriveChecked, u.deriveMismatch, u.exportBytes] ++
      (if p = 0 then [t.commits, t.voteFailed, t.noVote] else []))
  else if p = 0 ∧ 0x10000 ≤ off ∧ off < 0x90000 ∧ off % 8 = 0 then fieldAt (s.row ((off - 0x10000) / 128)).bytes ((off - 0x10000) % 128) 8
  else 0

/-- EST_ registers. -/
def State.readEst (s : State) (off : Nat) : Nat :=
  let e := s.est
  let c := e.ctr
  let g := e.cfg
  if off = 0 then packBits [flagAt e.linkUp 0, flagAt s.boot.ready 1, (e.lanesTrained, 8, 8), (laneMask e.lanesInUse, 16, 8),
    ((e.qps.filter (fun q => decide (q.2.phase = 2))).length, 24, 13)]
  else if off = 8 then packBits [(g.mtuMax, 0, 3), flagAt g.vlanEn 3, (g.vlanId, 4, 12), (g.pcp, 16, 3), (g.dscp, 19, 6), flagAt g.ipv4En 25, flagAt g.ipv6En 26,
    (g.ackTimeout, 27, 5), (g.retryCnt, 32, 3), (g.cnpIntervalUs, 48, 16)]
  else if off = 0x10 then g.mac.toNat
  else if off = 0x18 then packBits [(g.ipv4.toNat, 0, 32), (g.ipv4Len, 32, 6)]
  else if off = 0x20 then g.ipv6.toNat % 2 ^ 64
  else if off = 0x28 then g.ipv6.toNat / 2 ^ 64
  else if off < 0x100 then
    counterAt off 0x40 [c.rxPkts, c.txPkts, c.rxBytes, c.txBytes, c.fecCorrected, c.fecUncorrected, c.linkDowns, c.pauseRx, c.oobAccess, c.writeDropped,
      c.sendDropped, c.ringStale, c.slotSuperseded, c.cnpRx, c.cnpTx, c.retransmits, c.qpErrors]
  else counterAt off 0x100 [c.collDone, c.collLate, c.collCarried, c.collDropped, c.collPeerLost, c.collStray, c.fpRowsCompared, c.fpMismatch,
    c.fpRepairedBlocks, c.fpUnresolved]

/-- FRD_ registers. -/
def State.readFrd (s : State) (off : Nat) : Nat :=
  let f := s.frd
  if off = 0 then packBits [flagAt f.linkUp 0, flagAt f.partnerPresent 1, flagAt f.partnerLost 2, flagAt f.mirrorBusy 3, (f.lanesTrained, 8, 8),
    (f.lanesInUse, 16, 8)]
  else if off = 8 then b2n f.side
  else if off = 0x10 then f.mirrorBase
  else if off = 0x18 then f.pairKey.toNat
  else if off = 0x20 then f.mirrorStep
  else if off = 0x28 then f.mirrorMark
  else if off < 0x100 then
    counterAt off 0x40 [f.txFlits, f.rxFlits, f.crcErrors, f.replays, f.mirrorBytes, f.wakeEntries, f.helloReject, f.linkDowns, f.failovers]
  else match runIndex off 0x100 64 with
    | some w => ((List.range 64).map (fun b => if tget false f.mirrorEpoch (64 * w + b) then 2 ^ b else 0)).sum
    | none => 0

/-- TIDE_ registers. -/
def State.readTide (s : State) (off : Nat) : Nat :=
  let t := s.tide
  if off = 0 then packBits [(t.source, 0, 2), (t.periodUs, 16, 14), (t.domain, 32, 7)]
  else if off = 8 then packBits [(t.st, 0, 2), flagAt t.ptpOk 2, flagAt t.ppsOk 3, flagAt t.slewing 4, flagAt t.paused 5]
  else if off = 0x10 then t.count
  else if off = 0x18 then packBits [(t.phaseNs, 0, 32)]
  else if off = 0x20 then wrap 64 t.offsetNs
  else counterAt off 0x28 [t.steps, t.ppsReject, t.unsyncMarks]

/-- SPW_ registers. -/
def State.readSpw (s : State) (off : Nat) : Nat :=
  let x := s.spw
  if off = 0 then packBits [(x.capW, 0, 12), (lget 0 x.cutOrder 0, 12, 2), (lget 0 x.cutOrder 1, 14, 2), (lget 0 x.cutOrder 2, 16, 2), flagAt x.boostEn 18]
  else if off = 8 then packBits [(x.freqBase, 0, 11), (x.boostMax, 16, 11), (x.droopMv, 32, 7), (x.slackIdleMarks, 40, 24)]
  else if off = 0x10 then packBits [(x.freq, 0, 11), (x.target, 16, 11), (x.level, 32, 5), (x.reason, 40, 8), (x.memLevel, 48, 5), (x.linkLevel, 56, 5),
    flagAt (decide (x.slack ≠ 0)) 61, flagAt (decide (x.stop ≠ 0)) 62, flagAt x.inFlight.isSome 63]
  else if off = 0x18 then packBits [(x.samples.sum / (500 * wattSample), 0, 16), (x.bucket / (65536 * 1000000), 16, 16), (x.currents.sum / 8000, 32, 16),
    ((s.hottest / 16).toNat, 48, 8)]
  else if off < 0x100 then counterAt off 0x40 [x.stepsUp, x.stepsDown, x.droops, x.droopCancels, x.peakEvents, x.bucketFulls, x.spillNs, x.slackEntries,
    x.slackDropped, x.coolantStops, x.trips]
  else match runIndex off 0x100 10 with
    | some c => tget 0 x.throttleNs c
    | none => 0

/-- Are ledger records held on the die (JUI_STATUS, R384, R387). -/
def State.ledgerHeld (s : State) : Bool := !s.boot.ready || s.spw.asleep

/-- JUI_ registers. -/
def State.readJui (s : State) (off : Nat) : Nat :=
  let j := s.jui
  if off = 0 then packBits [flagAt j.running 0, flagAt (s.inWindow j.ringBase && !s.ledgerHeld) 1, flagAt s.ledgerHeld 2, (j.openReqs.length, 16, 13),
    (j.queued.length, 32, 13)]
  else if off = 8 then packBits [(j.closeMarks, 0, 32)]
  else if off = 0x10 then j.ringBase
  else if off < 0x40 then counterAt off 0x18 [j.seq, j.totalIn, j.bootCount]
  else if off < 0x100 then counterAt off 0x40 [j.records, j.heartbeats, j.overflowCmds, j.scaledIntervals, j.deferredCloses, j.ringLost, j.timeouts]
  else match runIndex off 0x100 8 with
    | some c => lget 0 j.weights c
    | none => 0

/-- A temperature register: the reading and VALID. -/
def tempReg (valid : Bool) (t : Int) : Nat := packBits [(wrap 16 t, 0, 16), flagAt valid 16]

/-- GAU_ registers. -/
def State.readGau (s : State) (off : Nat) : Nat :=
  let g := s.gau
  if off = 0 then packBits [flagAt g.up 0, flagAt g.debugOpen 1, flagAt g.updating 2, (g.eid, 8, 8)]
  else if off = 8 then packBits [flagAt g.sbMode 0, (g.sbAddr, 1, 7)]
  else if off < 0x40 then counterAt off 0x10 [g.errRingBase, g.attestBase, g.stageBase]
  else if off < 0x100 then counterAt off 0x40 [g.unmapped, g.errRecords, g.logEntries, g.logLost, g.wdogRestarts, g.updates, g.activateRefused, g.debugUnlocks,
    g.sbErrors]
  else match runIndex off 0x100 96, runIndex off 0x400 32, runIndex off 0x500 9 with
    | some i, _, _ => tempReg g.tempsValid (tget 0 g.temps i)
    | _, some k, _ => tempReg g.tempsValid (tget 0 g.memTemps k)
    | _, _, some j => packBits [((tget (0, 0) g.rails j).1, 0, 16), ((tget (0, 0) g.rails j).2, 16, 16)]
    | none, none, none => 0

/-- FSH_ registers. -/
def State.readFsh (s : State) (off : Nat) : Nat :=
  let b := s.boot
  if off = 0 then packBits [(b.stage, 0, 4), flagAt b.ready 4, flagAt b.failed 5, flagAt b.warm 6, (b.round, 8, 4), (b.coresPending, 16, 12)]
  else if off = 8 then b.reportBase
  else if off < 0x40 then counterAt off 0x20 [b.bundleId.toNat, b.listVersion]
  else if off < 0x80 then counterAt off 0x40 [b.chunksSent, b.resends, b.crcErrors, b.hashFails, b.coresOxbowed, b.sitesOxbowed, b.cfgIgnored]
  else match runIndex off 0x80 5, runIndex off 0x100 4, runIndex off 0x1000 144, runIndex off 0x2000 2304 with
    | some l, _, _, _ => lget 0 b.resets l
    | _, some i, _, _ => packBits [((lget (0, 0) b.images i).1.toNat, 0, 32), ((lget (0, 0) b.images i).2.toNat, 32, 32)]
    | _, _, some k, _ => fieldAt (tget [] b.reports (k / 16)) (8 * (k % 16)) 8
    | _, _, _, some p => packBits [((tget FshCore.zero b.cores p).ack, 0, 2), ((tget FshCore.zero b.cores p).rounds, 2, 4), ((tget FshCore.zero b.cores p).result, 6, 2)]
    | none, none, none, none => 0

/-- A site word (OXB_SITE). -/
def SiteSt.word (x : SiteSt) : Nat := packBits [(x.pass, 0, 18), flagAt x.linkOk 18, (x.st, 19, 2), (x.cluster, 21, 8)]

/-- The two words of a cluster entry (OXB_CLUSTER_A, OXB_CLUSTER_B). -/
def ClusterSt.words (x : ClusterSt) : Nat × Nat :=
  let at5 (k : Nat) : List (Nat × Nat × Nat) := (List.range 8).map (fun i => (lget 0 x.pos (k + i), 5 * i, 5))
  (packBits (at5 0 ++ [(x.site, 40, 7), flagAt x.valid 47, flagAt x.withdrawn 48, flagAt x.remapped 49]), packBits (at5 8))

/-- Healthy sites. -/
def State.healthySites (s : State) : Nat := ((List.range 128).filter (fun k => decide ((tget SiteSt.zero s.oxb.sites k).st ≠ 2) && (tget SiteSt.zero s.oxb.sites k).linkOk)).length

/-- OXB_ registers. -/
def State.readOxb (s : State) (off : Nat) : Nat :=
  let o := s.oxb
  if off = 0 then packBits [(s.healthySites, 0, 8), ((o.clusters.filter (fun c => c.2.valid)).length, 8, 8), (o.flashMap, 16, 2), flagAt o.changed 18]
  else if off < 0x20 then counterAt off 8 [o.remaps, o.withdrawn]
  else match runIndex off 0x800 128, runIndex off 0x1000 256 with
    | some k, _ => (tget SiteSt.zero o.sites k).word
    | none, some k => let w := (tget ClusterSt.zero o.clusters (k / 2)).words
      if k % 2 = 0 then w.1 else w.2
    | none, none => 0

/-- MX_ registers. -/
def CoreSt.readMx (c : CoreSt) (off : Nat) : Nat :=
  let m := c.mx
  if off = 0 then packBits [flagAt m.busy 0, ((c.bsn.groups.filter (·.isSome)).length, 1, 3), (m.fmtA, 8, 8), (m.fmtB, 16, 8), (m.sparsity, 24, 2), (m.slices, 26, 4)]
  else if off = 8 then packBits [flagAt m.zbSkipEn 0, flagAt m.checkEn 1]
  else counterAt off 0x10 [m.passes, m.passesSkipped, m.rowsIssued, m.rowsSkipped, m.stallOperand, m.stallPlane, m.checkMismatch, m.activeCycles]

/-- BSN_ registers. -/
def CoreSt.readBsn (c : CoreSt) (off : Nat) : Nat :=
  let b := c.bsn
  if off = 0 then packBits ((List.range 8).map (fun k => (lget 0 b.banks k, 2 * k, 2)) ++ [((b.groups.filter (·.isSome)).length, 16, 3),
    flagAt (b.drain.any (·.started)) 19, (b.rerun, 20, 2)])
  else counterAt off 0x10 [b.promotions, b.earlyPromotions, b.alignInexact, b.stallBank, b.stallSluice, b.drainRows, b.recomputes, b.saturatedTiles, b.intSaturated]

/-- VEC_ registers. -/
def CoreSt.readVec (c : CoreSt) (off : Nat) : Nat :=
  let v := c.vec
  if off = 0 then packBits [flagAt v.running 0, flagAt (v.running && v.feedActive) 1, (v.pc, 16, 13)]
  else if off = 8 then b2n v.residueEn
  else if off = 0x10 then v.flags.toNat
  else counterAt off 0x18 [v.issueV, v.issueS, v.paired, v.stallDep, v.stallMem, v.stallSluice, v.illegal, v.reissue, v.limitHit, v.progLoads, v.mxRetries]

/-- SLC_ registers. -/
def CoreSt.readSlc (c : CoreSt) (now off : Nat) : Nat :=
  let x := c.slc
  let pop := (x.slots.filter (fun y => decide (y.pops ≠ 0))).length
  let fill := (x.slots.filter (fun y => y.filling now)).length
  let head := ((x.slots.filter (fun y => !y.filling now)).head?.map (·.slot)).getD 0
  let excess := decide (x.tilesLeft = 0) && x.slots.isEmpty
  if off = 0 then packBits [(8 - x.slots.length, 0, 4), (fill, 4, 4), (x.slots.length - pop - fill, 8, 4), (pop, 12, 4), (head, 16, 3), flagAt (c.vec.running && excess) 19]
  else counterAt off 8 [x.rowsIn, x.rowsPopped, x.rowsDiscarded, x.refusedCycles, x.popEmpty]

/-- A channel's state code (DMA_CH_STATE). -/
def DmaCh.code (x : DmaCh) (running : Bool) : Nat := if running then 3 else if x.desc.isNone then 0 else if x.fired.isSome then 2 else 1

/-- DMA_ registers. -/
def CoreSt.readDma (c : CoreSt) (off : Nat) : Nat :=
  let d := c.dma
  let ch (k : Nat) : DmaCh := tget .zero d.ch k
  if off = 0 then packBits ((List.range 8).map (fun k => flagAt (ch k).active.isSome k) ++ [(d.run.getD 0, 8, 3), flagAt d.run.isSome 11])
  else if off < 0x100 then counterAt off 0x20 [d.descDone, d.descBad, d.bytes, d.clamps, d.trigLate]
  else match runIndex off 0x200 8, runIndex off 0x300 8 with
    | some k, _ => packBits [((ch k).code (decide (d.run = some k)), 0, 2), ((ch k).fifo.length, 2, 3), ((ch k).doneCount, 16, 16)]
    | none, some k => (((ch k).desc.map (·.addr)).getD 0)
    | none, none => 0

/-- The five blocks of a logical core (R28, R29, R431). (DESIGN CHOICE: notes/assumptions/72) -/
def State.readCoreBlock (s : State) (c off : Nat) : Nat :=
  let x := s.core c
  if s.cap.activeCores ≤ c ∨ s.coreInReset c = true then 0
  else if off < 0x2000 then x.readMx off
  else if off < 0x4000 then x.readBsn (off - 0x2000)
  else if off < 0x6000 then x.readVec (off - 0x4000)
  else if off < 0x8000 then x.readSlc s.nowNs (off - 0x6000)
  else if off < 0xA000 then x.readDma (off - 0x8000)
  else 0

/-- A register of the control and status space as it reads (R28). Offsets with no register behind them read as zero. -/
def State.readReg (s : State) (a : Nat) : W64 :=
  BitVec.ofNat 64
    (if 0x0F0100000000 ≤ a ∧ a < 0x0F0108000000 then s.readCoreBlock ((a - 0x0F0100000000) / 0x10000) (a % 0x10000)
     else if csrBase ≤ a ∧ a < csrBase + 0x10000000 then
       (let b := (a - csrBase) / 0x1000000
        let off := a % 0x1000000
        if b = 0 then (if off / 0x100000 < 4 then s.readSeq (off / 0x100000) (off % 0x100000) else 0)
        else if b = 1 then s.readWeir off
        else if b = 2 then s.readDlt off
        else if b = 3 then (if off / 0x10000 < 128 then s.readLlc (off / 0x10000) (off % 0x10000) else 0)
        else if b = 4 then (if off / 0x100000 < 8 then s.readCtl false (off / 0x100000) (off % 0x100000) else 0)
        else if b = 5 then (if off / 0x80000 < 24 then s.readCtl true (off / 0x80000) (off % 0x80000) else 0)
        else if b = 6 then s.readCod off
        else if b = 7 then (if off / 0x100000 < 4 then s.readUpd (off / 0x100000) (off % 0x100000) else 0)
        else if b = 8 then s.readEst off
        else if b = 9 then s.readFrd off
        else if b = 10 then s.readTide off
        else if b = 11 then s.readSpw off
        else if b = 12 then s.readJui off
        else if b = 13 then s.readGau off
        else if b = 14 then s.readFsh off
        else s.readOxb off)
     else 0)

/-! ### Locked fields (R31, R413) -/

/-- Clamp into a range. -/
def clampTo (lo hi v : Nat) : Nat := max lo (min hi v)

/-- A legal tide period, or 100 (R66). -/
def legalPeriod (p : Nat) : Nat := if 10 ≤ p ∧ p ≤ 10000 ∧ p % 10 = 0 ∧ 1000000 % p = 0 then p else 100

/-- A clock on the 50 MHz grid. -/
def onGrid (lo hi v : Nat) : Nat := clampTo lo hi (v / 50 * 50)

/-- Bits of a register value. -/
def fld (v : W64) (hi lo : Nat) : Nat := bitsOf v.toNat hi lo

/-- EST_CFG from a value. -/
def EstCfg.write (c : EstCfg) (v : W64) : EstCfg :=
  { c with mtuMax := if fld v 2 0 = 3 ∨ fld v 2 0 = 4 then fld v 2 0 else 5, vlanEn := v.getLsbD 3, vlanId := fld v 15 4, pcp := fld v 18 16, dscp := fld v 24 19,
           ipv4En := v.getLsbD 25, ipv6En := v.getLsbD 26, ackTimeout := max 1 (fld v 31 27), retryCnt := fld v 34 32, cnpIntervalUs := max 1 (fld v 63 48) }

/-- SPW_CFG from a value. -/
def SpwSt.writeCfg (x : SpwSt) (v : W64) : SpwSt :=
  let o := [fld v 13 12, fld v 15 14, fld v 17 16]
  { x with capW := clampTo 1200 2400 (fld v 11 0), cutOrder := if (List.range 3).all (fun k => o.contains k) then o else [0, 1, 2], boostEn := v.getLsbD 18 }

/-- SPW_FREQ_CFG from a value. -/
def SpwSt.writeFreq (x : SpwSt) (v : W64) : SpwSt :=
  { x with freqBase := onGrid 600 1000 (fld v 10 0), boostMax := onGrid 1000 1100 (fld v 26 16), droopMv := clampTo 20 80 (fld v 38 32), slackIdleMarks := fld v 63 40 }

/-- Write the locked fields of the register at an address, out-of-range values read back as the field says; none when it has no locked
field (R31, R413). A PREFIX of EST_IPV4 above 32 reads back 32; its text gives the range and no readback. (DEDUCED: notes/assumptions/63) (DESIGN CHOICE: notes/assumptions/71) -/
def State.cfgWrite (s : State) (a : Nat) (v : W64) : Option State :=
  let b := (a - csrBase) / 0x1000000
  let off := a % 0x1000000
  if 0x0F0100000000 ≤ a ∧ a < 0x0F0108000000 then
    (let c := (a - 0x0F0100000000) / 0x10000
     if a % 0x10000 = 8 then some (s.modMx c (fun m => { m with zbSkipEn := v.getLsbD 0, checkEn := v.getLsbD 1 }))
     else if a % 0x10000 = 0x4008 then some (s.modVec c (fun x => { x with residueEn := v.getLsbD 0 }))
     else none)
  else if a < csrBase ∨ 0x0F0010000000 ≤ a then none
  else if b = 0 ∧ off / 0x100000 < 4 ∧ off % 0x100000 = 8 then
    some (s.modSeq (off / 0x100000) (fun x => { x with depth := clampTo 1 64 (fld v 6 0), expertPf := v.getLsbD 8 }))
  else if b = 2 ∧ off = 8 then some { s with dlt := { s.dlt with pfEn := v.getLsbD 0, pfBudgetMib := clampTo 1 192 (fld v 15 8) } }
  else if b = 3 ∧ off = 0 then
    some { s with llc := { s.llc with pinQuota := min 12 (fld v 3 0), strictDead := v.getLsbD 4, thrashPct := min 100 (fld v 14 8), thrashMarks := max 1 (fld v 31 16) } }
  else if b = 4 ∧ off / 0x100000 < 8 ∧ off % 0x100000 = 8 then
    some { s with nt := tmod MemCtl.zero s.nt (off / 0x100000) (fun c => { c with scrubHours := fld v 7 0 }) }
  else if b = 5 ∧ off / 0x80000 < 24 ∧ off % 0x80000 = 8 then
    some { s with dt := tmod MemCtl.zero s.dt (off / 0x80000) (fun c => { c with scrubHours := fld v 7 0 }) }
  else if b = 7 ∧ off = 8 then some { s with train := { s.train with checkEn := v.getLsbD 0 } }
  else if b = 8 then
    (let up (f : EstCfg → EstCfg) : Option State := some { s with est := { s.est with cfg := f s.est.cfg } }
     if off = 8 then up (fun c => c.write v)
     else if off = 0x10 then up (fun c => { c with mac := v.setWidth 48 })
     else if off = 0x18 then up (fun c => { c with ipv4 := v.setWidth 32, ipv4Len := min 32 (fld v 37 32) })
     else if off = 0x20 then up (fun c => { c with ipv6 := BitVec.ofNat 128 (c.ipv6.toNat / 2 ^ 64 * 2 ^ 64 + v.toNat) })
     else if off = 0x28 then up (fun c => { c with ipv6 := BitVec.ofNat 128 (c.ipv6.toNat % 2 ^ 64 + v.toNat * 2 ^ 64) })
     else none)
  else if b = 9 then
    (if off = 8 then some (s.modFrd (fun f => { f with side := v.getLsbD 0 }))
     else if off = 0x10 then some (s.modFrd (fun f => { f with mirrorBase := v.toNat }))
     else if off = 0x18 then some (s.modFrd (fun f => { f with pairKey := v }))
     else none)
  else if b = 10 ∧ off = 0 then
    some (s.modTide (fun t => { t with source := fld v 1 0, periodUs := legalPeriod (fld v 29 16), domain := fld v 38 32 }))
  else if b = 11 ∧ off = 0 then some (s.modSpw (fun x => x.writeCfg v))
  else if b = 11 ∧ off = 8 then some (s.modSpw (fun x => x.writeFreq v))
  else if b = 12 then
    (if off = 8 then some (s.modJui (fun j => { j with closeMarks := max 1 (fld v 31 0) }))
     else if off = 0x10 then some (s.modJui (fun j => { j with ringBase := fld v 47 8 * 256 }))
     else match runIndex off 0x100 8 with
       | some c => some (s.modJui (fun j => { j with weights := lset j.weights c (fld v 15 0) }))
       | none => none)
  else if b = 13 then
    (if off = 8 then some { s with gau := { s.gau with sbMode := v.getLsbD 0, sbAddr := fld v 7 1 } }
     else if off = 0x10 then some { s with gau := { s.gau with errRingBase := fld v 47 6 * 64 } }
     else if off = 0x18 then some { s with gau := { s.gau with attestBase := fld v 47 9 * 512 } }
     else if off = 0x20 then some { s with gau := { s.gau with stageBase := fld v 47 12 * 4096 } }
     else none)
  else if b = 14 ∧ off = 8 then some { s with boot := { s.boot with reportBase := fld v 47 12 * 4096 } }
  else none

/-- The block number of an address (the row of the R28 table, the per-core blocks as 16). -/
def regBlock (a : Nat) : Nat := if a < 0x0F0010000000 then (a - csrBase) / 0x1000000 else 16

/-- Apply the configuration entries of some blocks, in list order; entries that name no locked field count when they are met (R413). -/
def State.applyConfig (s : State) (entries : List (Nat × W64)) (inBlocks : Nat → Bool) : State :=
  entries.foldl (fun st e =>
    if inBlocks (regBlock e.1) then
      match st.cfgWrite e.1 e.2 with
      | some x => x
      | none => { st with boot := { st.boot with cfgIgnored := st.boot.cfgIgnored + 1 } }
    else st) s

/-! ### Device code (R12, R26, R50, R52) -/

/-- Does an address lie in the SEQ_ or UPD_ block of a partition with no active core (R29). -/
def State.idlePartBlock (s : State) (a : Nat) : Bool :=
  let b := (a - csrBase) / 0x1000000
  let p := a % 0x1000000 / 0x100000
  decide (csrBase ≤ a) && (decide (b = 0) || decide (b = 7)) && decide (p < 4) && decide (s.partCores p = 0)

/-- REGISTER_WRITE (R11, R12, R31): locked fields take a write only before stage 8 has ended; VEC_FLAGS is cleared by ones; other fields
keep their values. Blocks of a core beyond the active count, and SEQ_ and UPD_ of a partition without one, ignore writes (R29). Registers with a
row of their own are written by that row. Until stage 8 has fixed the active count it is 0, so these blocks ignore
device code's writes and read 0 all through bring-up. (DEDUCED: notes/assumptions/63) (DESIGN CHOICE: notes/assumptions/72) -/
def execRegisterWrite (addr : Nat) (value : BitVec 64) (s : State) : Host.Outcome State Fault Refusal :=
  let c := (addr - 0x0F0100000000) / 0x10000
  let perCore : Bool := decide (0x0F0100000000 ≤ addr) && decide (addr < 0x0F0108000000)
  if (perCore && (decide (s.cap.activeCores ≤ c) || s.coreInReset c)) || s.idlePartBlock addr then .next s
  else if perCore && decide (addr % 0x10000 = 0x4010) then .next (s.modVec c (fun v => { v with flags := v.flags &&& ~~~(value.setWidth 7) }))
  else if s.boot.ready then .next s
  else .next ((s.cfgWrite addr value).getD s)

/-- UNMAPPED_ACCESS (R26): an access by device code outside every window reads zero or is ignored, and counts. -/
def execUnmappedAccess (addr : Nat) (write : Bool) (s : State) : Host.Outcome State Fault Refusal :=
  let _ := write
  if s.inWindow addr || (decide (csrBase ≤ addr) && decide (addr < 0x0F0108000000)) then .next s
  else .next { s with gau := { s.gau with unmapped := s.gau.unmapped + 1 } }

/-- WEIR_ARRIVE_WRITE (R50, R52): device code gives one arrival at weir INDEX. -/
def execWeirArriveWrite (core : Nat) (value : BitVec 64) (s : State) : Host.Outcome State Fault Refusal :=
  if s.servedCore core then .next (s.arriveWeir (fld value 15 0)) else .next s

/-- WEIR_ARM_WRITE (R50, R52): device code arms weir INDEX with TARGET. -/
def execWeirArmWrite (core : Nat) (value : BitVec 64) (s : State) : Host.Outcome State Fault Refusal :=
  if s.servedCore core then .next (s.armWeir (fld value 15 0) (fld value 31 16) (256 + core)) else .next s

end Sys2Proof.Machine
end

