-- ==== Sys2Proof/Machine/Boot.lean ====
section
/-! DEFINITION. Bring-up (R2 to R6, R18, R19, R223, R239, R296, R299, R339, R408 to R428): the nine stages, headwater's choice of a bank,
licences, the oxbow map, freshet; attestation reports (R451); whole-device resets (R409, R430, R434). -/

namespace Sys2Proof.Machine

open Sys2Proof

/-- Change the bring-up state. -/
def State.modBoot (s : State) (f : BootSt → BootSt) : State := { s with boot := f s.boot }

/-- A list of numbers as a bit mask. -/
def maskOf (n : Nat) (l : List Nat) : Nat := ((List.range n).map (fun i => if l.contains i then 2 ^ i else 0)).sum

/-! ### Headwater (R411 to R416, R426 to R428) -/

/-- BUNDLE_ID over the image hashes (R426). -/
def bundleOf (m : Manifest) : W64 := BitVec.ofNat 64 (leVal ((sha256 (m.images.flatMap (·.sha))).take 8))

/-- The list of one bank if its signature verifies (R427). -/
def bankList (b : BankImage) : Option (Nat × List (W64 × Nat)) :=
  if Config.keyVerify 0 [] b.listRaw b.listSig then some (b.listVersion, b.listEntries.take 1024) else none

/-- The valid tested-bundle list with the highest LIST_VERSION of either bank (R427). -/
def flashTested (f : FlashImage) : Option (Nat × List (W64 × Nat)) :=
  match bankList f.bankA, bankList f.bankB with
  | some a, some b => if a.1 < b.1 then some b else some a
  | some a, none => some a
  | none, b => b

/-- A bank. -/
def bankOf (f : FlashImage) : Bank → BankImage
  | .A => f.bankA
  | .B => f.bankB

/-- The other bank. -/
def otherBank : Bank → Bank
  | .A => .B
  | .B => .A

/-- Is a bundle tested on this stack (R427). -/
def bundleTested (f : FlashImage) (b : W64) : Bool :=
  match flashTested f with
  | none => false
  | some l => l.2.any (fun e => decide (e.1 = b) && bitOf e.2 f.hwRevision)

/-- The checks of R428 on a bank: 0 passes, 2 the signature fails, 3 an image hash, 4 the stack is not served or the bundle not tested. -/
def bankCheck (f : FlashImage) (b : Bank) : Nat :=
  let i := bankOf f b
  let m := i.manifest
  if !Config.keyVerify 0 [] m.raw m.sig then 2
  else if i.imageSha ≠ m.images.map (·.sha) ∨ m.images.length ≠ 4 then 3
  else if !bitOf m.hwMask f.hwRevision || !bundleTested f (bundleOf m) then 4
  else 0

/-- The bank to boot, why another than the first chosen (FALLBACK), and the selector afterwards (R428). `ok` tells which banks hold a
finished image. (DEDUCED: notes/assumptions/52) -/
def chooseBank (f : FlashImage) (ok : Bank → Bool) : Option (Bank × Nat × FlashImage) :=
  let chk (b : Bank) : Nat := if ok b then bankCheck f b else 3
  let trial := if f.tries = 1 then f.trial else none
  let first := (trial.map chk).getD 0
  let g := chk f.golden
  let why := if trial.isSome then 1 else g
  match trial with
  | some t => if first = 0 then some (t, 0, { f with tries := 0 }) else rest trial why g chk
  | none => rest trial why g chk
where
  /-- GOLDEN, else the other bank. -/
  rest (trial : Option Bank) (why g : Nat) (chk : Bank → Nat) : Option (Bank × Nat × FlashImage) :=
    let o := otherBank f.golden
    if g = 0 then some (f.golden, if trial.isSome then why else 0, f)
    else if chk o = 0 then some (o, why, { f with golden := o })
    else none

/-- One place of the licence area: none when empty, else its item and value if it is valid (R415, R416). (DEDUCED: notes/assumptions/52) -/
def licenceOf (r : List Byte) : Option (Option (Nat × Nat)) :=
  if fieldAt r 0 2 = 0xFFFF then none
  else
    let item := fieldAt r 2 1
    let v := fieldAt r 4 4
    let legal : Bool := if item = 0 then [1024, 1536, 2048].contains v else if item = 1 then [800, 1600].contains v else decide (item ≤ 4) && decide (v = 1)
    let good := decide (fieldAt r 0 2 = 1) && decide ((r.drop 8).take 16 = deviceId) && legal && Config.keyVerify 1 [] (r.take 64) ((r.drop 64).take 64)
    some (if good then some (item, v) else none)

/-- Licences in force (R3, R416): the highest valid value of each item, within the manifest's limits. -/
def BootSt.license (b : BootSt) (m : Manifest) (area : List (List Byte)) : BootSt :=
  let all := (area.take 64).filterMap licenceOf
  let good := all.filterMap id
  let best (item lo : Nat) : Nat := good.foldl (fun x l => if l.1 = item then max x l.2 else x) lo
  { b with licCores := best 0 1024, licPort := if best 1 800 ≤ m.portLimit then best 1 800 else 800, licFp64 := decide (best 2 0 = 1) && m.fp64Allowed,
           licHormi := decide (best 3 0 = 1) && m.hormiAllowed, licPaired := decide (best 4 0 = 1) && m.pairedAllowed, licValid := good.length,
           licRejected := all.length - good.length }

/-! ### Ends of stages (R408, R409, R410) -/

/-- A stage ends PASS or DEGRADED, and the next one is in progress. -/
def State.endStage (s : State) (n : Nat) (c : Nat × Nat × Nat) (detail : List Byte) : State :=
  (s.stageReport n c.1 c.2.1 c.2.2 detail).modBoot (fun b => { b with stage := n + 1 })

/-- CORE and SHOAL are removed: clocks stop, slabs, scratch and instruction memory are lost. -/
def State.coreOff (s : State) : State :=
  { s with mem := s.mem.filter (fun x => decide (x.1 < shoalBase)), poison := s.poison.filter (fun k => decide (k < shoalBase / 32)),
           cores := tmapAll CoreSt.zero (fun _ c => c.coreOff) s.cores, spw := { s.spw with freq := 0, target := 0, coreMv := 0, inFlight := none } }

/-- The latest saved record that START chains to after a cold boot: the newest anchor (R443). -/
def GauSt.newestAnchor (g : GauSt) : List Byte := lget [] g.anchors ((g.anchorNext + 7) % 8)

/-- What survives with the power gone: flash, with the gauge's log, anchors and entry number in it; and the count of boots. -/
def State.flashOnly (s : State) : State :=
  { State.reset with
    pending := s.pending, freeCtr := s.freeCtr, nowNs := s.nowNs, out := s.out, pins := s.pins,
    gau := { GauSt.zero with log := s.gau.log, logSeq := s.gau.logSeq, anchors := s.gau.anchors, anchorNext := s.gau.anchorNext, badBank := s.gau.badBank },
    boot := { BootSt.zero with flash := s.boot.flash }, jui := { JuiSt.zero with bootCount := s.jui.bootCount }, spw := { SpwSt.zero with flowAt := s.spw.flowAt } }

/-- The log's entries reach flash (R442). -/
def State.flushLog (s : State) : State :=
  { s with gau := { s.gau with log := s.gau.log ++ s.gau.logPending, logPending := [], logEntries := s.gau.logEntries + s.gau.logPending.length } }

/-- Stage 0 begins (R456): the gauge runs, the rest is off. -/
def State.beginCold (s : State) : State :=
  let s1 := s.flashOnly
  { s1 with gau := { s1.gau with up := true }, boot := { s1.boot with running := true }, pins := { s1.pins with removeRdy := false, removing := false } }

/-- A cold whole-device reset requested through the gauge (R387, R434): the books close and FINAL reaches an anchor. -/
def State.coldReset (s : State) : State := (s.ledgerFinal.flushLog).beginCold

/-- A stage ends FAIL (R409): later stages are NOT_RUN, CORE and SHOAL are removed; a failed trial is followed by a cold boot of GOLDEN (R428). -/
def State.failStage (s : State) (n unit inst : Nat) (detail : List Byte) : State :=
  let s1 := s.stageReport n 2 unit inst detail
  let s2 := (rangeFrom (n + 1) (8 - n)).foldl (fun st k => st.stageReport k 3 0xFFFF 0 []) s1
  let s3 := s2.coreOff.modBoot (fun b => { b with stage := n, failed := true, running := false, waitLock := false })
  if s.boot.trialBoot then s3.coldReset.modBoot (fun b => { b with fallback := 1 }) else s3

/-- Is a stage the one in progress. -/
def State.atStage (s : State) (n : Nat) : Bool := s.boot.running && decide (s.boot.stage = n) && !s.boot.waitLock

/-- HEADWATER (R2, R411, R414, R416, R428): stage 0 reads the flash. The operand is what the flash holds; of the bank selector and the oxbow
copy, which only the gauge writes, the module knows its own last writing. (DEDUCED: notes/assumptions/52) -/
def execHeadwater (flash : FlashImage) (s : State) : Host.Outcome State Fault Refusal :=
  if !s.atStage 0 then .next s
  else
    let f := match s.boot.flash with
      | some k => { flash with golden := k.golden, trial := k.trial, tries := k.tries, oxbow := k.oxbow }
      | none => flash
    let s1 := s.modJui (fun j => { j with bootCount := j.bootCount + 1 })
    match chooseBank f (fun b => !(s.gau.badBank && decide (b ≠ f.golden))) with
    | none => .next ((s1.modBoot (fun b => { b with flash := some f })).failStage 0 14 0 (leBytes 2 0 ++ leBytes 1 f.hwRevision))
    | some (b, why, f1) =>
      let m := (bankOf f1 b).manifest
      let fb := if why = 0 ∧ s.boot.fallback = 1 then 1 else why
      let ver := ((flashTested f1).map (·.1)).getD 0
      let s2 := s1.modBoot (fun x =>
        ({ x with flash := some f1, manifest := some m, bank := b, trialBoot := decide (f.tries = 1) && decide (f.trial = some b) && decide (why = 0), fallback := fb,
                  bundleId := bundleOf m, listVersion := ver,
                  images := m.images.map (fun (i : ImageEntry) => (i.version, BitVec.ofNat 32 (leVal (i.sha.take 4)))) }).license m f1.licenceArea)
      let s3 := { s2 with cap := { s2.cap with hwRevision := f1.hwRevision } }
      let x := s3.boot
      let detail := leBytes 1 (if b = .A then 0 else 1) ++ leBytes 1 fb ++ leBytes 1 f1.hwRevision ++ leBytes 1 x.licValid ++ leBytes 1 x.licRejected ++
        List.replicate 3 0 ++ leBytes 8 x.bundleId.toNat ++ leBytes 4 ver
      .next (s3.endStage 0 (stageCause [(decide (fb ≠ 0) || decide (x.licRejected ≠ 0), 14, 0)]) detail)

/-! ### Stages 1 to 3 -/

/-- The configuration block's bytes (R412, R413). -/
def configBytes (m : Manifest) : List Byte := m.config.flatMap (fun e => leBytes 8 e.1 ++ leBytes 8 e.2.toNat)

/-- The configuration entries the device applies: those of a block whose operator signature verifies (R412). (DEDUCED: notes/assumptions/53) -/
def State.config (s : State) : List (Nat × W64) :=
  match s.boot.manifest with
  | none => []
  | some m => if Config.keyVerify 3 m.operatorKey (configBytes m) m.configSig then m.config else []

/-- Blocks on the AON rail: TIDE_, SPW_, JUI_, GAU_, FSH_, OXB_. (DEDUCED: notes/assumptions/53) -/
def aonBlock (k : Nat) : Bool := decide (10 ≤ k) && decide (k ≤ 15)

/-- RAILS_AND_CLOCKS (R384, R408, R467): stage 1, once FLOW_OK has stood for 100 ms. CORE rises to the voltage of FREQ_BASE, the tide runs FREE from
mark 0, and the ledger emits START. (DESIGN CHOICE: notes/assumptions/54) -/
def execRailsAndClocks (failedRails inputMv : Nat) (s : State) : Host.Outcome State Fault Refusal :=
  if !s.atStage 1 || !s.pins.flowOk then .next s
  else
    let rails := failedRails % 256
    let detail := leBytes 2 rails ++ List.replicate 2 0 ++ leBytes 4 inputMv
    if rails ≠ 0 then .next (s.failStage 1 11 (lowest 8 (bitOf rails)) detail)
    else
      let s1 := s.applyConfig s.config aonBlock
      let s2 := s1.modSpw (fun x => { x with coreMv := gridMv x.freqBase })
      let s3 := ((s2.modTide (fun t => { t with st := 0, count := 0, phaseNs := 0 })).modJui (fun j => { j with chainStart := s.gau.newestAnchor })).ledgerStart
      .next (s3.endStage 1 (stageCause []) detail)

/-- The manifest's items that bed-die units take (R149, R301, R339). -/
def State.applyManifest (s : State) : State :=
  match s.boot.manifest with
  | none => s
  | some m =>
    { s with train := { s.train with headroom := if m.scaleHeadroom ≤ 3 then m.scaleHeadroom else 1, kmax := if m.lrScaleMax ≤ 12 then m.lrScaleMax else 6 },
             est := { s.est with cfg := { s.est.cfg with mac := m.mac, ipv4 := m.ipv4, ipv4Len := min 32 m.ipv4Len, ipv6 := m.ipv6 } },
             frd := { s.frd with pairKey := m.pairKey, side := m.side, mirrorBase := m.mirrorBase } }

/-- BASE_DIE (R223, R413): stage 2. A warm reset runs it without repair and keeps the way map. -/
def execBaseDie (disabled : List (Nat × Nat)) (repairs : Nat) (failUnit : Option Nat) (s : State) : Host.Outcome State Fault Refusal :=
  if !s.atStage 2 then .next s
  else
    let s1 := if s.boot.warm then s
      else { s with llc := { s.llc with slices := disabled.foldl (fun t d =>
               if d.1 < 128 then tmod SliceSt.zero t d.1 (fun (x : SliceSt) => { x with waysOff := x.waysOff ||| d.2 % 65536 }) else t) s.llc.slices } }
    let reps := if s.boot.warm then 0 else repairs
    let off (k : Nat) : Nat := (s1.slice k).waysOff
    let ways := ((List.range 128).map (fun k => popCount 16 (off k))).sum
    let gone := ((List.range 128).filter (fun k => decide ((s1.slice k).ways = 0))).length
    let detail := leBytes 2 ways ++ leBytes 1 gone ++ List.replicate 1 0 ++ leBytes 4 reps ++ leBytes 2 (failUnit.getD 0xFFFF)
    match failUnit with
    | some u => .next (s1.failStage 2 u 0 detail)
    | none =>
      let s2 := s1.applyManifest
      let s3 := s2.applyConfig s2.config (fun k => !aonBlock k && decide (k ≠ 16))
      .next (s3.endStage 2 (stageCause [(decide (0 < ways), 3, lowest 128 (fun k => decide (off k ≠ 0)))]) detail)

/-- Spares of a group that training used: one to each data lane that failed, from those of its 4 that work (R16). (DEDUCED: notes/assumptions/67) -/
def laneUsed (g : LaneTraining) : Nat := min g.dead (4 - g.deadSpares)

/-- Is a group short of lanes (R18). (DEDUCED: notes/assumptions/67) -/
def laneShort (g : LaneTraining) : Bool := decide (4 - g.deadSpares < g.dead)

/-- VERTICAL_LINKS (R15, R16, R18): stage 3 trains every lane group. What a group uses of its 4 spares it has no more in service. (DEDUCED: notes/assumptions/67) -/
def execVerticalLinks (groups : List LaneTraining) (s : State) : Host.Outcome State Fault Refusal :=
  if !s.atStage 3 then .next s
  else
    let ss := (List.range 128).filter (fun k => groups.any (fun g => !g.shoal && decide (g.inst = k) && laneShort g))
    let sc := (List.range 2304).filter (fun p => groups.any (fun g => g.shoal && decide (g.inst = p) && laneShort g))
    let lanes := groups.foldl (fun t (g : LaneTraining) =>
      tset .zero t (laneKey g.shoal g.inst g.group) { LaneGroup.zero with spares := min 4 (laneUsed g + g.deadSpares) }) []
    let s1 := { s with boot := { s.boot with shortSites := ss, shortCores := sc }, oxb := { s.oxb with lanes := lanes } }
    let detail := leBytes 16 (maskOf 128 ss) ++ leBytes 4 (groups.map laneUsed).sum ++ leBytes 4 (groups.map (fun g => g.dead + g.deadSpares)).sum ++
      leBytes 2 sc.length
    .next (s1.endStage 3 (stageCause [(!ss.isEmpty, 0x20, lget 0 ss 0), (!sc.isEmpty, 0x21, lget 0 sc 0)]) detail)

/-! ### The oxbow map (R4, R18, R19, R424, R425) -/

/-- The manifest limit as a number of cores (R4). -/
def coreLimit (v : Nat) : Nat := max 16 (min 2048 (v / 16 * 16))

/-- The active core count with so many healthy sites (R4). -/
def State.activeCount (s : State) (healthy : Nat) : Nat :=
  min s.boot.licCores (min (coreLimit ((s.boot.manifest.map (·.coreLimit)).getD 2048)) (16 * healthy))

/-- Positions of a pass mask. -/
def passing (m : Nat) : List Nat := (List.range 18).filter (fun i => bitOf m i)

/-- Build the map (R18, R19): `good` sites are healthy and not oxbowed already; clusters go to them in ascending order. (DEDUCED: notes/assumptions/53) -/
def State.buildMap (s : State) (pass : Nat → Nat) (link oxbowed : Nat → Bool) : State :=
  let good := (List.range 128).filter (fun k => link k && !oxbowed k && decide (16 ≤ (passing (pass k)).length))
  let n := s.activeCount good.length / 16
  let place (k : Nat) : Option Nat := (findFirst (fun i => decide (lget 999 good i = k)) (List.range good.length)).filter (· < n)
  let sites := (List.range 128).foldl (fun t k =>
    let x : SiteSt := { pass := pass k, linkOk := link k, st := if good.contains k then (if (place k).isSome then 0 else 1) else 2, cluster := (place k).getD 0xFF }
    tset SiteSt.zero t k x) []
  let clusters := (List.range n).foldl (fun t i =>
    let k := lget 0 good i
    tset ClusterSt.zero t i { pos := (passing (pass k)).take 16, site := k, valid := true, withdrawn := false, remapped := false }) []
  { s with oxb := { s.oxb with sites := sites, clusters := clusters } }

/-- The site words and cluster entries in force. -/
def State.mapWords (s : State) : List W64 × List (W64 × W64) :=
  ((List.range 128).map (fun k => BitVec.ofNat 64 (tget SiteSt.zero s.oxb.sites k).word),
   (List.range 128).map (fun n => let w := (tget ClusterSt.zero s.oxb.clusters n).words; (BitVec.ofNat 64 w.1, BitVec.ofNat 64 w.2)))

/-- The map's bytes. -/
def mapBytes (m : List W64 × List (W64 × W64)) : List Byte :=
  m.1.flatMap (fun w => leBytes 8 w.toNat) ++ m.2.flatMap (fun e => leBytes 8 e.1.toNat ++ leBytes 8 e.2.toNat)

/-- The signed copy of the map in force (R424). (DEDUCED: notes/assumptions/53) -/
def State.oxbowCopy (s : State) : OxbowCopy :=
  let h := padTo 64 (leBytes 2 1 ++ leBytes 6 s.cap.hwRevision ++ leBytes 8 s.jui.bootCount)
  let m := s.mapWords
  { header := h, sites := m.1, clusters := m.2, sig := s.signWith false (h ++ mapBytes m) }

/-- FLASH_MAP (R425): 0 match, 1 differs, 2 copy invalid. -/
def State.mapMatch (s : State) : Nat :=
  match s.boot.flash.bind (·.oxbow) with
  | none => 2
  | some c =>
    if !ecdsaVerify (p256mul (deviceKey false)) (c.header ++ mapBytes (c.sites, c.clusters)) c.sig then 2
    else if (c.sites, c.clusters) = s.mapWords then 0 else 1

/-- The stage 4 report and its end. -/
def State.endStage4 (s : State) : State :=
  let st (k : Nat) : SiteSt := tget SiteSt.zero s.oxb.sites k
  let out := (List.range 128).filter (fun k => decide ((st k).st = 2))
  let fc := s.boot.failedCores
  let detail := leBytes 16 (maskOf 128 out) ++ leBytes 2 fc.length ++ leBytes 1 s.healthySites ++ leBytes 1 s.oxb.flashMap
  let c := stageCause [(!out.isEmpty, 0x24, lget 0 out 0), (!fc.isEmpty, 0x25, lget 0 fc 0), (decide (s.oxb.flashMap ≠ 0), 15, 0)]
  if s.healthySites < 32 then s.failStage 4 c.2.1 c.2.2 detail else s.endStage 4 c detail

/-- COMPUTE_AND_SHOAL (R18 to R20, R425): stage 4. A warm reset runs it without self-test and keeps the map in force. -/
def execComputeAndShoal (failedCores : List Nat) (s : State) : Host.Outcome State Fault Refusal :=
  if !s.atStage 4 then .next s
  else
    let clear : State := { s with mem := s.mem.filter (fun x => decide (x.1 < shoalBase)), poison := s.poison.filter (fun k => decide (k < shoalBase / 32)),
                                  cores := [] }
    let s1 := clear.applyConfig clear.config (fun k => decide (k = 16))
    if s.boot.warm then .next s1.endStage4
    else
      let fc := (List.range 2304).filter (fun p => failedCores.contains p)
      let ok (p : Nat) : Bool := !fc.contains p && !s.boot.shortCores.contains p
      let s2 := (s1.modBoot (fun b => { b with failedCores := fc })).buildMap (fun k => maskOf 18 ((List.range 18).filter (fun i => ok (k * 18 + i))))
        (fun k => !s.boot.shortSites.contains k) (fun _ => false)
      let s3 := { s2 with oxb := { s2.oxb with flashMap := s2.mapMatch, built := some s2.oxbowCopy } }
      .next s3.endStage4

/-! ### Stage 5: memory (R238, R239, R242) -/

/-- The trained mask of one instance: channel c of instance k has key c × n + k. -/
def trainedMask (keys : List Nat) (n chans k : Nat) : Nat := maskOf chans ((List.range chans).filter (fun c => keys.contains (c * n + k)))

/-- MEMORY (R239): stage 5 trains every channel, makes new keys and leaves memory zero. -/
def execMemoryStage (nearFailed deepFailed : List Nat) (s : State) : Host.Outcome State Fault Refusal :=
  if !s.atStage 5 then .next s
  else
    let near := (List.range 256).filter (fun k => !nearFailed.contains k)
    let deep := (List.range 96).filter (fun k => !deepFailed.contains k)
    let (keys, s1) := State.freshWords 16 s
    let train (keys : List Nat) (n chans : Nat) (t : Tbl MemCtl) : Tbl MemCtl :=
      (List.range n).foldl (fun t k => tmod MemCtl.zero t k (fun (c : MemCtl) => { c with trained := trainedMask keys n chans k })) t
    let s2 := { s1 with memKeys := keys, mem := [], poison := [], cap := { s1.cap with near := near, deep := deep },
                        nt := train near 8 32 s1.nt, dt := train deep 24 4 s1.dt }
    let detail := leBytes 32 (maskOf 256 near) ++ leBytes 12 (maskOf 96 deep)
    let nk := lowest 256 (fun k => nearFailed.contains k)
    let dk := lowest 96 (fun k => deepFailed.contains k)
    let c := stageCause [(decide (near.length < 256), 4, nk % 8), (decide (deep.length < 96), 5, dk % 24)]
    if near.length < 128 then .next (s2.failStage 5 c.2.1 c.2.2 detail) else .next ((s2.endStage 5 c detail).modBoot (fun b => { b with hashBase := b.hashFails }))

/-! ### Stage 6: freshet (R421 to R423) -/

/-- Bytes of the core runtime by the running manifest. -/
def State.runtimeLen (s : State) : Nat := ((s.boot.manifest.map (fun m => (m.images.map (·.len)))).getD []).getD 2 0

/-- Chunks of the runtime (R422). -/
def State.runtimeChunks (s : State) : Nat := min 2 (cdiv s.runtimeLen 4096)

/-- Is a physical core a passing one. -/
def State.passes (s : State) (p : Nat) : Bool := bitOf (tget SiteSt.zero s.oxb.sites (p / 18)).pass (p % 18)

/-- The loads of one distribution: cores in `late` took so many re-send rounds, more than 8 when they stayed incomplete. -/
def State.loadCores (s : State) (cores : List Nat) (resends : Nat) (late : List (Nat × Nat)) : State :=
  let n := s.runtimeChunks
  let rounds (p : Nat) : Nat := ((findFirst (fun x => decide (x.1 = p)) late).map (·.2)).getD 0
  let load (p : Nat) (c : FshCore) : FshCore :=
    if rounds p ≤ 8 then { c with ack := 2 ^ n - 1, rounds := rounds p, result := 1, chunks := n } else { c with ack := if c.result = 1 then 0 else c.ack, rounds := 8, result := 2 }
  let last := (late.filter (fun x => cores.contains x.1)).foldl (fun m x => max m (min 8 x.2)) 0
  s.modBoot (fun b => { b with cores := cores.foldl (fun t p => tmod FshCore.zero t p (load p)) b.cores, chunksSent := b.chunksSent + n, resends := b.resends + resends,
                               round := last, coresPending := 0 })

/-- FRESHET (R422): stage 6 ends; cores still incomplete after round 8 are failed, sites left with fewer than 16 are oxbowed, and the map is made
again. (DEDUCED: notes/assumptions/55) -/
def execFreshet (resends : Nat) (late : List (Nat × Nat)) (s : State) : Host.Outcome State Fault Refusal :=
  if !s.atStage 6 then .next s
  else
    let cores := (List.range 2304).filter (fun p => s.passes p)
    let s1 := s.loadCores cores resends late
    let bad := cores.filter (fun p => late.any (fun x => decide (x.1 = p) && decide (8 < x.2)))
    let others := ((List.range 2304).filter (fun p => !s.passes p)).foldl (fun t p => tset FshCore.zero t p { FshCore.zero with result := 3 }) s1.boot.cores
    let pass (k : Nat) : Nat := maskOf 18 ((passing (tget SiteSt.zero s.oxb.sites k).pass).filter (fun i => !bad.contains (k * 18 + i)))
    let lost := (List.range 128).filter (fun k => decide ((tget SiteSt.zero s.oxb.sites k).st ≠ 2) && decide ((passing (pass k)).length < 16))
    let s2 := s1.modBoot (fun b => { b with cores := others, failedCores := bad.foldl (fun l p => ninsert p l) b.failedCores })
    let s3 := if bad.isEmpty then s2 else s2.buildMap pass (fun k => (tget SiteSt.zero s.oxb.sites k).linkOk)
      (fun k => decide ((tget SiteSt.zero s.oxb.sites k).st = 2))
    let alone := bad.filter (fun p => !lost.contains (p / 18))
    let s4 := s3.modBoot (fun b => { b with coresOxbowed := b.coresOxbowed + alone.length, sitesOxbowed := b.sitesOxbowed + lost.length })
    let detail := leBytes 2 s.runtimeChunks ++ leBytes 1 s1.boot.round ++ leBytes 1 lost.length ++ leBytes 2 alone.length ++ leBytes 2 (s.boot.hashFails - s.boot.hashBase)
    let c := stageCause [(!lost.isEmpty, 0x24, lget 0 lost 0), (!alone.isEmpty, 0x25, lget 0 alone 0)]
    if s4.healthySites = 0 then .next (s4.failStage 6 c.2.1 c.2.2 detail) else .next (s4.endStage 6 c detail)

/-- FRESHET_BEGIN (R422): a core's interface learns the chunk count and the hash, and clears its bitmap. -/
def execFreshetBegin (core chunks : Nat) (hash : List Byte) (s : State) : Host.Outcome State Fault Refusal :=
  if !s.passes core then .next s
  else .next (s.modBoot (fun b => { b with cores := tset FshCore.zero b.cores core { FshCore.zero with chunks := min 2 chunks, hash := hash } }))

/-- Takes in a chunk whose CRC is good: its bit is set, and when every chunk is held the image is checked. (DEDUCED: notes/assumptions/55) -/
def FshCore.take (c : FshCore) (index : Nat) (data : List Byte) : FshCore × Bool :=
  let held := (c.data.filter (fun x => x.1 ≠ index)) ++ [(index, data)]
  let part (i : Nat) : List Byte := ((findFirst (fun x => decide (x.1 = i)) held).map (·.2)).getD []
  let c1 := { c with data := held, ack := c.ack ||| 2 ^ index }
  if c1.ack = 2 ^ c.chunks - 1 then
    (if sha256 ((List.range c.chunks).flatMap part) = c.hash then ({ c1 with result := 1 }, true) else ({ c1 with ack := 0, data := [], result := 0 }, false))
  else (c1, true)

/-- FRESHET_CHUNK (R422): a bad chunk is dropped and counted; a good one sets its bit. -/
def execFreshetChunk (core index : Nat) (crc : BitVec 32) (data : List Byte) (s : State) : Host.Outcome State Fault Refusal :=
  let c := tget FshCore.zero s.boot.cores core
  if !s.passes core || decide (c.chunks ≤ index) then .next s
  else if crc32c data ≠ crc then .next (s.modBoot (fun b => { b with crcErrors := b.crcErrors + 1 }))
  else
    let (c1, ok) := c.take index data
    .next (s.modBoot (fun b => { b with cores := tset FshCore.zero b.cores core c1, hashFails := b.hashFails + b2n (!ok) }))

/-- The reload of the runtime at a slack wake or a coolant resume (R423): cores still incomplete after round 8 are failed in service. -/
def State.reloadRuntime (s : State) (resends : Nat) (late : List (Nat × Nat)) : State :=
  let cores := List.range s.cap.activeCores
  let s1 := s.loadCores (cores.map s.physical) resends late
  (cores.filter (fun c => late.any (fun x => decide (x.1 = s.physical c) && decide (8 < x.2)))).foldl (fun st c => st.coreFailed c none) s1

/-! ### Stage 7: ports and the tide (R73, R299, R339) -/

/-- The lane groups of R299, widest first, from a greatest width on. -/
def laneGroups (most : Nat) : List (List Nat) :=
  [8, 4, 2, 1].flatMap (fun w => if w ≤ most then (List.range (8 / w)).map (fun i => rangeFrom (w * i) w) else [])

/-- The first group without a dead lane. -/
def liveGroup (dead : List Nat) (gs : List (List Nat)) : List Nat := (findFirst (fun g => !g.any (fun l => dead.contains l)) gs).getD []

/-- ETHERNET_AND_TIDE (R73, R299, R339): stage 7 begins the port's first attempt, which brings the link up at once unless a lane of its group is
dead; trains the ford link under its licence; then waits for the tide. -/
def execEthernetAndTide (deadLanes fordDead : List Nat) (s : State) : Host.Outcome State Fault Refusal :=
  if !s.atStage 7 then .next s
  else
    let gs := laneGroups (if s.boot.licPort = 1600 then 8 else 4)
    let g := lget [] gs 0
    let s1 := { s with est := { s.est with attempts := gs, badLanes := [], attemptCount := 1, linkUp := false, lanesInUse := [], lanesTrained := 0, retrainDue := false } }
    let s2 := if g.any (fun l => deadLanes.contains l) then s1
      else { s1 with est := { s1.est with linkUp := true, lanesTrained := laneMask g, lanesInUse := g, attempts := [] },
                     cap := { s1.cap with portGbps := 200 * g.length, portLanes := g.length } }
    let fg := if s.boot.licPaired then liveGroup fordDead (laneGroups 8) else []
    let s3 := { s2 with frd := { s2.frd with lanesTrained := laneMask fg, lanesInUse := laneMask fg, linkUp := false }, cap := { s2.cap with fordLanes := fg.length } }
    let s4 := s3.modBoot (fun b => { b with waitLock := true })
    .next (if fg.isEmpty then s4.settleStage7 else s4.fordTrained.settleStage7)

/-! ### Stage 8 (R4 to R6, R58, R296, R420, R425, R451) -/

/-- The attestation report over a nonce (R451). -/
def State.attestation (s : State) (nonce : List Byte) : List Byte :=
  let b := s.boot
  let im := ((b.manifest.map (·.images)).getD []).map (·.sha)
  let body := leBytes 2 1 ++ leBytes 1 s.cap.hwRevision ++ leBytes 1 0 ++ leBytes 4 s.cap.features ++ leBytes 8 s.jui.bootCount ++ padTo 16 deviceId ++
    leBytes 8 b.bundleId.toNat ++ leBytes 4 b.listVersion ++ leBytes 2 s.cap.activeCores ++ leBytes 2 0 ++ leBytes 8 s.tide.count ++ leBytes 8 0 ++
    padTo 32 nonce ++ padTo 128 (im.flatMap id) ++ sha256 ((b.manifest.map (·.raw)).getD []) ++ sha256 ((b.manifest.map configBytes).getD []) ++
    sha256 (mapBytes s.mapWords) ++ p256pub (deviceKey false) ++ p256pub (deviceKey true)
  body ++ s.signWith false body

/-- FEATURES (R58). -/
def State.featureBits (s : State) : Nat := b2n s.boot.licFp64 + 2 * b2n s.boot.licHormi + 4 * b2n s.boot.licPaired + 8 * b2n s.llc.strictDead

/-- Reports of the nine stages. -/
def State.nineReports (s : State) : List Byte := (List.range 9).flatMap (fun k => padTo 128 (tget [] s.boot.reports k))

/-- The trial bank that booted becomes GOLDEN (R428), and after a cold boot the map that self-test built is written (R425). -/
def State.settleFlash (s : State) : State :=
  match s.boot.flash with
  | none => s
  | some f =>
    let f1 := if s.boot.trialBoot then { f with golden := s.boot.bank, trial := none } else f
    let f2 := if s.boot.warm then f1 else { f1 with oxbow := s.oxb.built }
    let s1 := s.modBoot (fun b => { b with flash := some f2, trialBoot := false })
    if s.boot.warm then s1 else s1.addLog 5 []

/-- LICENCES (R3 to R6, R31, R58, R296, R408): stage 8 fixes what the module offers, writes its records, locks the fields and sets READY. (DESIGN CHOICE: notes/assumptions/4) (DESIGN CHOICE: notes/assumptions/54) -/
def execLicences (s : State) : Host.Outcome State Fault Refusal :=
  if !s.atStage 8 then .next s
  else
    let s1 := { s with cap := { s.cap with activeCores := s.activeCount s.healthySites, features := s.featureBits } }
    let detail := leBytes 2 s1.cap.activeCores ++ leBytes 2 s1.boot.licCores ++ leBytes 4 s1.cap.features ++ leBytes 2 s1.cap.portGbps
    let s2 := s1.stageReport 8 0 0xFFFF 0 detail
    let s3 := { s2 with cap := { s2.cap with record := s2.capsRecord }, oxb := { s2.oxb with changed := false } }
    let s4 := (s3.poke s3.boot.reportBase s3.nineReports).poke s3.gau.attestBase (s3.attestation (List.replicate 32 0))
    let s5 := ((s4.modBoot (fun b => { b with running := false, ready := true })).modSpw (fun x =>
      { x with freq := x.freqBase, target := x.freqBase, coreMv := gridMv x.freqBase })).settleFlash
    .next (if s5.frd.partnerPresent then s5.sayHello else s5)

/-! ### The warm whole-device reset (R387, R430, R434) -/

/-- May a warm reset run: rails up and no stop or failure that only a cold reset ends (R409, R434). (DEDUCED: notes/assumptions/56) -/
def State.warmAllowed (s : State) : Bool :=
  (s.boot.ready || (s.boot.running && decide (2 ≤ s.boot.stage))) && !s.boot.failed && decide (s.spw.stop = 0) && !s.spw.dead && !s.gau.warmHeld

/-- The state in which a warm reset's bring-up begins: the gauge and what stands on AON are kept, with configuration, licences, bundle, oxbow map
and way map. -/
def State.warmStart (s : State) : State :=
  let b := s.boot
  { State.reset with
    pending := s.pending, freeCtr := s.freeCtr, nowNs := s.nowNs, out := s.out, pins := s.pins,
    tide := { TideSt.zero with source := s.tide.source, periodUs := s.tide.periodUs, domain := s.tide.domain, count := s.tide.count, phaseNs := s.tide.phaseNs },
    llc := { LlcSt.zero with slices := tmapAll SliceSt.zero (fun _ (x : SliceSt) => { SliceSt.zero with waysOff := x.waysOff }) s.llc.slices },
    spw := { s.spw with slack := 0, slackReq := false, slackWake := false, idleMarks := 0, freq := 0, target := 0, inFlight := none,
                        coreMv := gridMv s.spw.freqBase, stepsUp := 0, stepsDown := 0, droops := 0, droopCancels := 0, peakEvents := 0, bucketFulls := 0, spillNs := 0,
                        slackEntries := 0, slackDropped := 0, coolantStops := 0, trips := 0, throttleNs := [], throttleMarks := [] },
    jui := { JuiSt.zero with closeMarks := s.jui.closeMarks, ringBase := s.jui.ringBase, weights := s.jui.weights, bootCount := s.jui.bootCount + 1,
                             acc := s.jui.acc, chainStart := s.gau.savedRecord },
    gau := { s.gau with errSeq := 0, lastErr := none, ringQueue := [], bedQueue := [] },
    boot := { b with stage := 2, ready := false, failed := false, warm := true, running := true, waitLock := false, round := 0, coresPending := 0, cores := [],
                     resets := lmod b.resets 4 (· + 1) },
    oxb := { s.oxb with pendingReset := [], lanes := [], clusters := tmapAll ClusterSt.zero (fun _ (x : ClusterSt) => { x with remapped := false }) s.oxb.clusters },
    cap := { CapSt.zero with hwRevision := s.cap.hwRevision } }

/-- A warm whole-device reset (R387): the books close at the mark of the request, and the ledger starts again. -/
def State.warmReset (s : State) : State := if s.warmAllowed then (s.ledgerFinal.warmStart).ledgerStart else s.refuseReset 4 0

/-- WARM_RESET (R434): requested by the gauge or by R398 and R430. (DEDUCED: notes/assumptions/56) -/
def execWarmReset (s : State) : Host.Outcome State Fault Refusal := .next s.warmReset

/-- May a cold reset be taken (R446): after a trip or the end of a hold, only a cool device with its coolant flowing for 100 ms. -/
def State.coldAllowed (s : State) : Bool :=
  s.gau.up && s.pins.enable && (!(decide (s.spw.stop = 2) || s.spw.dead) || (decide (s.hottest ≤ 960) && s.pins.flowOk && decide (s.spw.flowAt + 100000000 ≤ s.nowNs)))

/-- COLD_RESET (R434, R446): everything starts from off. -/
def execColdReset (s : State) : Host.Outcome State Fault Refusal := .next (if s.coldAllowed then s.coldReset else s.refuseReset 4 1)

end Sys2Proof.Machine
end

