-- ==== Sys2Proof/Machine/Stop.lean ====
section
/-! DEFINITION. The watchdogs (R398), and the stops of the device (R360, R364 to R367, R467): coolant stop and hold, thermal trip, the ends of
slack and of the hold. -/

namespace Sys2Proof.Machine

open Sys2Proof

/-! ### Watchdogs (R398) -/

/-- The command a unit works on, if the record can name it (R392). -/
def State.holderOf (s : State) (unit inst : Nat) : Option (Nat × Nat) :=
  if 16 ≤ unit ∧ unit ≤ 20 then (s.core inst).holder
  else if unit = 0x21 ∨ unit = 0x25 then (s.logical inst).bind (fun c => (s.core c).holder)
  else if unit = 7 then (s.upd inst).running
  else if unit = 2 then (findFirst (fun e => decide (e.cmd.opcode = 0x4000) && e.started && !e.ran) s.allEntries).map (fun e => (e.cmd.queue, e.cmd.seq))
  else none

/-- Where a unit is reset: a level and instance of R430, or a warm whole-device reset (R398, R430). The gauge's units have none. -/
inductive ResetScope where
  | at (level inst : Nat)
  | warm
  | none
  deriving DecidableEq, Repr

/-- The smallest reset that contains a unit (R398, R430, R435). An update engine's number beyond 3 stands for the norm table. (DEDUCED: notes/assumptions/58) -/
def State.scopeOf (s : State) (unit inst : Nat) : ResetScope :=
  let cluster (k : Nat) : ResetScope := let n := (tget SiteSt.zero s.oxb.sites k).cluster; if n = 0xFF then .none else .at 1 n
  let core (p : Nat) : ResetScope := match s.logical p with
    | some c => .at 0 c
    | Option.none => .none
  if unit = 0 then .at 2 inst
  else if unit = 7 ∧ 4 ≤ inst then .warm
  else if ownReset unit then .at 3 (256 * unit + inst)
  else if 16 ≤ unit ∧ unit ≤ 20 then .at 0 inst
  else if unit = 0x20 ∨ unit = 0x22 ∨ unit = 0x24 then cluster inst
  else if unit = 0x21 ∨ unit = 0x25 then core inst
  else if unit = 1 ∨ unit = 11 ∨ unit = 12 ∨ unit = 0xFF then .warm
  else .none

/-- Is a unit in a reset that runs, so that its timers start again (R398, R436). -/
def State.scopeInReset (s : State) : ResetScope → Bool
  | .at level inst => s.rst.active.any (fun r => resetWithin level inst r.1 r.2)
  | _ => false

/-- A control fault (R398): a CONTROL record, then the smallest reset that contains the unit. Before stage 8 has ended it is only recorded (R410). (DEDUCED: notes/assumptions/58) -/
def State.controlFault (s : State) (kind unit inst addr : Nat) : State :=
  let who := s.holderOf unit inst
  let fl := ((who.bind (fun c => s.entry c.1 c.2)).map WakeEntry.fateFlags).getD 0
  let scope := s.scopeOf unit inst
  let act := if s.boot.ready && decide (scope ≠ .none) then 3 else 0
  let s1 := s.raise 5 act unit inst who addr (kind + 65536 * unit) (if act = 3 then fl else 0)
  if act = 0 then s1
  else match scope with
    | .at level i => s1.beginReset level i true
    | .warm => s1.warmReset
    | .none => s1

/-- TXN_WATCHDOG_EXPIRE (R398): a request to a unit has gone unanswered for 80 µs. Retry answers of a resetting unit start the timer again. -/
def execTxnWatchdogExpire (unit inst addr : Nat) (s : State) : Host.Outcome State Fault Refusal :=
  if s.spw.asleep || s.scopeInReset (s.scopeOf unit inst) then .next s else .next (s.controlFault 1 unit inst addr)

/-- LIVENESS_TIMEOUT (R398): eight beats of a unit are missing. -/
def execLivenessTimeout (unit inst : Nat) (s : State) : Host.Outcome State Fault Refusal :=
  if s.spw.asleep || s.scopeInReset (s.scopeOf unit inst) then .next s else .next (s.controlFault 2 unit inst 0)

/-! ### Losing power to the stack (R360, R366, R468) -/

/-- Every rail but AON is removed: what remains is the gauge, the books of bring-up, the power controller's registers and the pins. -/
def State.railsOff (s : State) : State :=
  { State.reset with
    pending := s.pending, freeCtr := s.freeCtr, nowNs := s.nowNs, out := s.out, pins := s.pins, gau := s.gau,
    boot := { s.boot with ready := false, running := false, waitLock := false },
    jui := { JuiSt.zero with bootCount := s.jui.bootCount },
    spw := { s.spw with freq := 0, target := 0, coreMv := 0, inFlight := none, slack := 0, slackReq := false, slackWake := false } }

/-- The hottest junction point in whole °C. -/
def State.hottestC (s : State) : Nat := s.hottest.toNat / 16

/-- The partitions in service. -/
def State.partitions (s : State) : List Nat := List.range (cdiv s.cap.activeCores 512)

/-- The stop sequence (R366), with its cause: 1 coolant, 2 trip. Commands are halted by a reset of every partition that ends with the resume
(R367); GOODBYE goes out, CORE and SHOAL are removed; the link stays up. -/
def State.stopSequence (s0 : State) (cause : Nat) : State :=
  let s := s0.partitions.foldl (fun st p => st.beginReset 2 p false) s0
  let s1 := (s.sendFlit 8 0 []).modFrd (fun x => { x with linkUp := false, helloWait := false, partnerPresent := false, partnerReady := false, kept := [], txWait := [] })
  s1.coreOff.modSpw (fun x => { x with lvCoolant := 0, stop := cause, slack := 0, slackReq := false, slackWake := false })

/-- The hold ends (R366, R387): NEAR, DEEP and BED are removed after FINAL is saved; only a cold reset returns the device. (DEDUCED: notes/assumptions/57) -/
def State.holdEnd (s : State) : State := s.ledgerFinal.railsOff.modSpw (fun x => { x with dead := true })

/-- Does a temperature end the hold (R366): a stack or package above 85 °C, a bed-die point above 105 °C. -/
def State.holdTooHot (s : State) : Bool :=
  s.gau.memTemps.any (fun t => decide (1360 < t.2)) || s.gau.temps.any (fun t => decide (64 ≤ t.1) && decide (t.1 < 80) && decide (1680 < t.2))

/-- The coolant stop begins (R366). (DEDUCED: notes/assumptions/57) -/
def State.coolantStop (s : State) : State :=
  let s1 := s.raise 0x0C 0x0A 0xFF 0 none 0 s.hottestC 0
  (s1.stopSequence 1).modSpw (fun x => { x with coolantStops := x.coolantStops + 1 })

/-- FLOW_OK has fallen (R366, R467): the coolant stop after stage 8; before, the stage in progress fails once stage 1 has begun. -/
def State.flowLost (s : State) : State :=
  let begun := s.boot.running && (decide (2 ≤ s.boot.stage) || (decide (s.boot.stage = 1) && s.pins.flowOk && decide (s.spw.flowAt + 100000000 ≤ s.nowNs)))
  let s1 := { s with pins := { s.pins with flowOk := false } }
  if s.boot.ready && decide (s.spw.stop = 0) then s1.coolantStop
  else if begun && !s.boot.ready then s1.failStage s.boot.stage 0xFF 0 []
  else s1

/-- FLOW_OK_DEASSERT (R366, R467). -/
def execFlowOkDeassert (s : State) : Host.Outcome State Fault Refusal := .next s.flowLost

/-- FLOW_OK_ASSERT (R367, R467): FLOW_OK stands from now on; what waits for it waits 100 ms more. -/
def execFlowOkAssert (s : State) : Host.Outcome State Fault Refusal :=
  if s.pins.flowOk then .next s else .next { s with pins := { s.pins with flowOk := true, p3v3 := true }, spw := { s.spw with flowAt := s.nowNs } }

/-- COOLANT_HOLD_TIMEOUT (R366): 60 s have passed since FLOW_OK fell. -/
def execCoolantHoldTimeout (s : State) : Host.Outcome State Fault Refusal :=
  if s.spw.stop = 1 ∧ s.spw.dead = false then .next s.holdEnd else .next s

/-- COOLANT_RESUME (R367, R423): after 100 ms of FLOW_OK, with no junction point above 60 °C, the runtime is loaded again and every partition is
reset. (DEDUCED: notes/assumptions/57) -/
def execCoolantResume (resends : Nat) (late : List (Nat × Nat)) (s : State) : Host.Outcome State Fault Refusal :=
  if s.spw.stop ≠ 1 ∨ s.spw.dead = true ∨ s.pins.flowOk = false ∨ 960 < s.hottest then .next s
  else
    let s1 := s.modSpw (fun x => { x with stop := 0, lvCoolant := 16, freq := x.freqBase, target := x.freqBase, coreMv := gridMv x.freqBase })
    let s2 := s1.partitions.foldl (fun st p => st.completeReset 2 p) s1
    .next (s2.reloadRuntime resends late)

/-- SLACK_WAKE_END (R365, R423): 2.0 ms after the trigger the clock stands as it did at entry, and the runtime is in place again. -/
def execSlackWakeEnd (resends : Nat) (late : List (Nat × Nat)) (s : State) : Host.Outcome State Fault Refusal :=
  if s.spw.slack ≠ 3 then .next s
  else .next ((s.modSpw (fun x => { x with slack := 0, freq := x.slackFreq, target := x.slackFreq, coreMv := gridMv x.slackFreq })).reloadRuntime resends late)

/-- THERMAL_TRIP (R360, R387): the comparator stops the device at a point of 110 °C, also while the gauge restarts; memory is lost, and only a cold reset returns it. -/
def execThermalTrip (point : Nat) (s : State) : Host.Outcome State Fault Refusal :=
  if s.spw.stop = 2 ∨ s.pins.switchOn = false then .next s
  else
    let s0 := if s.boot.running then s.failStage s.boot.stage 0xFF 0 [] else s
    let s1 := s0.raise 0x0D 0x0A 0xFF 0 none 0 point 0
    let s2 := (s1.ledgerFinal.stopSequence 2).railsOff
    .next (s2.modSpw (fun x => { x with trips := x.trips + 1, dead := true }))

/-- TEMP_SAMPLE (R439): the 96 junction points and the 32 memory temperatures, in 1/16 °C; too hot a reading ends the coolant hold (R366). -/
def execTempSample (junction memory : List Int) (s : State) : Host.Outcome State Fault Refusal :=
  if !s.gau.up then .next s
  else
    let s1 := { s with gau := { s.gau with temps := readingTbl (junction.take 96), memTemps := readingTbl (memory.take 32), tempsValid := true } }
    if decide (s.spw.stop = 1) && !s.spw.dead && s1.holdTooHot then .next s1.holdEnd else .next s1

end Sys2Proof.Machine
end

