-- ==== Sys2Proof/Machine/Hotplug.lean ====
section
/-! DEFINITION. Live insertion and removal, the input switch and its limits (R456, R465 to R470). -/

namespace Sys2Proof.Machine

open Sys2Proof

/-- Change the pins. -/
def State.modPins (s : State) (f : PinSt → PinSt) : State := { s with pins := f s.pins }

/-- The input switch closes (R456, R465, R466): AON rises and the gauge runs; with ENABLE high a cold boot follows. (DEDUCED: notes/assumptions/59) -/
def State.powerOn (s : State) : State :=
  let s1 := { s with pins := { s.pins with switchOn := true, latched := false }, gau := { s.gau with up := true } }
  if s.pins.enable then s1.beginCold else s1

/-- The input switch opens (R465): power loss. FINAL goes to an anchor while AON is held up; what is not in flash is lost. -/
def State.powerLoss (s : State) : State :=
  if !s.pins.switchOn then s
  else s.ledgerFinal.flashOnly.modPins (fun p => { p with switchOn := false, removing := false, removeRdy := false })

/-- PWR_SENSE_MAKE (R466): the module is present; after the debounce the switch closes. -/
def execPwrSenseMake (s : State) : Host.Outcome State Fault Refusal :=
  if s.pins.pwrSense then .next s
  else .next ((s.modPins (fun p => { p with pwrSense := true, present := true, p3v3 := true })).powerOn)

/-- PWR_SENSE_BREAK (R465, R469, R470): the switch opens within 5 µs; an over-current latch is released. -/
def execPwrSenseBreak (s : State) : Host.Outcome State Fault Refusal :=
  .next (s.powerLoss.modPins (fun p => { p with pwrSense := false, present := false, latched := false }))

/-- ENABLE_ASSERT (R456, R465, R470): stage 0 begins; after an over-current latch the switch closes first. -/
def execEnableAssert (s : State) : Host.Outcome State Fault Refusal :=
  if s.pins.enable then .next s
  else
    let s1 := s.modPins (fun p => { p with enable := true, p3v3 := true })
    if s1.pins.switchOn then .next s1.beginCold
    else if s1.pins.latched && s1.pins.pwrSense then .next s1.powerOn
    else .next s1

/-- Connected host QPs. -/
def State.hostQps (s : State) : List Nat := (s.est.qps.filter (fun q => decide (q.2.phase = 2) && !q.2.peer)).map (·.1)

/-- An open update session ends failed, and the bank it was writing is invalid (R448, R470). -/
def State.failSession (s : State) : State :=
  match s.gau.session with
  | none => s
  | some x => if x.failed then s
    else { s with gau := { s.gau with session := some { x with failed := true }, badBank := s.gau.badBank || decide (2 ≤ x.stage) } }

/-- Removal (R468): GOODBYE, DREQs, link down; open requests close with CUT, FINAL is saved, the log is flushed; every rail but AON is removed;
REMOVE_RDY goes high. (DEDUCED: notes/assumptions/59) -/
def State.remove (s : State) : State :=
  let s1 := s.sendFlit 8 0 []
  let s2 := if s.boot.ready && s.est.linkUp then s1.hostQps.foldl (fun st q => st.sendRoce (.cmDreq q)) s1 else s1
  let s3 := (s2.failSession.ledgerFinal).flushLog
  s3.railsOff.modPins (fun p => { p with removing := true, removeRdy := true })

/-- ENABLE_DEASSERT (R456, R468, R470): removal runs, from a stage in progress too. -/
def execEnableDeassert (s : State) : Host.Outcome State Fault Refusal :=
  if !s.pins.enable then .next s
  else
    let s1 := s.modPins (fun p => { p with enable := false })
    if s1.pins.switchOn then .next s1.remove else .next s1

/-- P3V3_AUX_LOSS (R462, R470): ENABLE and FLOW_OK read low, so the coolant stop and the removal both run. -/
def execP3v3AuxLoss (s : State) : Host.Outcome State Fault Refusal :=
  if !s.pins.p3v3 then .next s
  else
    let on := s.pins.enable && s.pins.switchOn
    let s1 := if s.boot.ready && decide (s.spw.stop = 0) then s.flowLost else s
    let s2 := s1.modPins (fun p => { p with p3v3 := false, enable := false, flowOk := false })
    if on then .next s2.remove else .next s2

/-- INPUT_UNDERVOLTAGE (R465): below 55 V for 100 µs. -/
def execInputUndervoltage (s : State) : Host.Outcome State Fault Refusal := .next s.powerLoss

/-- INPUT_OVERVOLTAGE (R465): above 85 V for 10 µs. -/
def execInputOvervoltage (s : State) : Host.Outcome State Fault Refusal := .next s.powerLoss

/-- INPUT_OVERCURRENT (R465): above 55 A for 1 ms or above 80 A; latched. (DEDUCED: notes/assumptions/59) -/
def execInputOvercurrent (s : State) : Host.Outcome State Fault Refusal :=
  if s.pins.switchOn then .next (s.powerLoss.modPins (fun p => { p with latched := true })) else .next s

/-- INPUT_RECOVERED (R465): the input has stood within 60 to 80 V for 100 ms; the switch closes unless it is latched open. -/
def execInputRecovered (s : State) : Host.Outcome State Fault Refusal :=
  if !s.pins.switchOn && s.pins.pwrSense && !s.pins.latched then .next s.powerOn else .next s

end Sys2Proof.Machine
end

