-- ==== Sys2Proof/Machine/Gauge.lean ====
section
/-! DEFINITION. The gauge (R394, R420, R438 to R455): the error ring and the log, its watchdog, the sideband and its requests, firmware update,
attestation, debug unlock and JTAG. -/

namespace Sys2Proof.Machine

open Sys2Proof

/-- Change the gauge. -/
def State.modGau (s : State) (f : GauSt → GauSt) : State := { s with gau := f s.gau }

/-! ### The error ring and the log (R394, R441, R442) -/

/-- ERROR_RING_WRITE (R394): the oldest record not in the ring is written to its place; a place outside every window is skipped. Memory in
self-refresh takes no write. -/
def execErrorRingWrite (s : State) : Host.Outcome State Fault Refusal :=
  match s.gau.ringQueue with
  | [] => .next s
  | r :: rest =>
    if !s.gau.up || s.spw.asleep then .next s
    else
      let s1 := s.modGau (fun g => { g with ringQueue := rest })
      let a := s.gau.errRingBase + 64 * (r.errSeq % 65536)
      if s1.inWindow a then .next (s1.poke a r.bytes) else .next s1

/-- Bytes of a log entry: a 16-byte header and the record in 16-byte units (R441). -/
def entryLen (e : Nat × Nat × List Byte) : Nat := 16 + upTo e.2.2.length 16

/-- The bytes of a log entry. -/
def entryBytes (e : Nat × Nat × List Byte) : List Byte :=
  let r := padTo (upTo e.2.2.length 16) e.2.2
  let h := leBytes 8 e.1 ++ leBytes 1 e.2.1 ++ leBytes 1 (r.length / 16) ++ leBytes 2 0
  h ++ leBytes 4 (crc32c (h ++ leBytes 4 0 ++ r)).toNat ++ r

/-- Drop the oldest entries until a sector's worth is free. (DEDUCED: notes/assumptions/62) -/
def dropSector : Nat → List (Nat × Nat × List Byte) → List (Nat × Nat × List Byte)
  | _, [] => []
  | freed, e :: t => if 65536 ≤ freed then e :: t else dropSector (freed + entryLen e) t

/-- LOG_FLASH_WRITE (R441, R442): the oldest waiting entry reaches flash; a full log loses its oldest 64 KiB. -/
def execLogFlashWrite (s : State) : Host.Outcome State Fault Refusal :=
  match s.gau.logPending with
  | [] => .next s
  | e :: rest =>
    if !s.gau.up then .next s
    else
      let full := decide (12224 * 1024 < (s.gau.log.map entryLen).sum + entryLen e)
      let kept := if full then dropSector 0 s.gau.log else s.gau.log
      .next (s.modGau (fun g => { g with logPending := rest, log := kept ++ [e], logEntries := g.logEntries + 1 }))

/-! ### The gauge's watchdog (R438) -/

/-- GAUGE_WDOG_EXPIRE (R438): the gauge core restarts; nothing else is touched. -/
def execGaugeWdogExpire (s : State) : Host.Outcome State Fault Refusal :=
  if s.gau.up then .next ((s.modGau (fun g => { g with wdogRestarts := g.wdogRestarts + 1, up := false })).gaugeEvent 5 []) else .next s

/-- GAUGE_RESTART_DONE (R438): the gauge runs again and takes the records that waited in the bed die. -/
def execGaugeRestartDone (s : State) : Host.Outcome State Fault Refusal :=
  if s.gau.up || !s.pins.switchOn then .next s
  else
    let q := s.gau.bedQueue
    .next (q.foldl (fun st r => st.keepRecord r) (s.modGau (fun g => { g with up := true, bedQueue := [] })))

/-! ### Sideband requests (R444 to R446) -/

/-- A sideband request is heard while the gauge runs and the bus buffers have their supply (R438, R461). -/
def State.heard (s : State) : Bool := s.gau.up && s.pins.p3v3

/-- Number of a message: the kind of message (0 to 63 a PLDM type, 64 MCTP control) and its command code in its standard. (PRESUMED: notes/assumptions/60) -/
def sbCode (kind cmd : Nat) : Nat := 256 * kind + cmd

/-- Answer a request with success. -/
def State.answer (s : State) (code : Nat) (payload : List Byte) : State := s.send (.sideband code payload)

/-- Refuse a request (R446): an error completion, counted and logged. -/
def State.refuse (s : State) (code : Nat) : State :=
  ((s.modGau (fun g => { g with sbErrors := g.sbErrors + 1 })).gaugeEvent 4 (leBytes 2 code)).send (.sidebandError code)

/-- I3C_DAA (R444): under SB_MODE 0 the target takes a dynamic address. -/
def execI3cDaa (addr : Nat) (s : State) : Host.Outcome State Fault Refusal :=
  if s.heard && !s.gau.sbMode then .next (s.modGau (fun g => { g with dynAddr := addr % 128 })) else .next s

/-- SET_ENDPOINT_ID (R444). -/
def execSetEndpointId (eid : BitVec 8) (s : State) : Host.Outcome State Fault Refusal :=
  if s.heard then .next ((s.modGau (fun g => { g with eid := eid.toNat })).answer (sbCode 64 1) [eid]) else .next s

/-- GET_ENDPOINT_ID (R444). -/
def execGetEndpointId (s : State) : Host.Outcome State Fault Refusal :=
  if s.heard then .next (s.answer (sbCode 64 2) (leBytes 1 s.gau.eid)) else .next s

/-- GET_ENDPOINT_UUID (R444): the manual gives no value. (DESIGN CHOICE: notes/assumptions/61) -/
def execGetEndpointUuid (s : State) : Host.Outcome State Fault Refusal :=
  if s.heard then .next (s.answer (sbCode 64 3) ((List.range 16).map (fun i => Config.identityArea (4096 + i)))) else .next s

/-- GET_MCTP_VERSION_SUPPORT (R444): control messages and PLDM are supported; the versions are not in the manual. -/
def execGetMctpVersionSupport (msgType : Nat) (s : State) : Host.Outcome State Fault Refusal :=
  if !s.heard then .next s
  else if msgType ≤ 1 then
    (let (w, s1) := s.freshWord
     .next (s1.answer (sbCode 64 4) (leBytes 4 w.toNat)))
  else .next (s.refuse (sbCode 64 4))

/-- GET_MESSAGE_TYPE_SUPPORT (R444): PLDM beside control. -/
def execGetMessageTypeSupport (s : State) : Host.Outcome State Fault Refusal :=
  if s.heard then .next (s.answer (sbCode 64 5) [0, 1]) else .next s

/-- GET_TID (R444): the manual gives no value. -/
def execGetTid (s : State) : Host.Outcome State Fault Refusal :=
  if s.heard then .next (s.answer (sbCode 0 2) [Config.identityArea 4112]) else .next s

/-- The PLDM types of R444: base, monitoring, FRU, firmware update, OEM. -/
def pldmTypes : List Nat := [0, 2, 4, 5, 63]

/-- GET_PLDM_VERSION (R444): the versions are not in the manual. -/
def execGetPldmVersion (pldmType : Nat) (s : State) : Host.Outcome State Fault Refusal :=
  if !s.heard then .next s
  else if pldmTypes.contains pldmType then
    (let (w, s1) := s.freshWord
     .next (s1.answer (sbCode 0 3) (leBytes 4 w.toNat)))
  else .next (s.refuse (sbCode 0 3))

/-- GET_PLDM_TYPES (R444). -/
def execGetPldmTypes (s : State) : Host.Outcome State Fault Refusal :=
  if s.heard then .next (s.answer (sbCode 0 4) (leBytes 8 (maskOf 64 pldmTypes))) else .next s

/-- Command codes of a PLDM type (R444, R445). (PRESUMED: notes/assumptions/60) -/
def pldmCommands (t : Nat) : List Nat :=
  if t = 0 then [2, 3, 4, 5] else if t = 2 then [0x0B, 0x11, 0x50, 0x51] else if t = 4 then [1, 2]
  else if t = 5 then [0x10, 0x13, 0x14, 0x15, 0x16, 0x17, 0x18, 0x1A, 0x1B, 0x1C, 0x1D] else if t = 63 then [1, 2, 3, 4, 5, 6, 7, 8] else []

/-- GET_PLDM_COMMANDS (R444, R445). -/
def execGetPldmCommands (pldmType : Nat) (s : State) : Host.Outcome State Fault Refusal :=
  if !s.heard then .next s
  else if pldmTypes.contains pldmType then .next (s.answer (sbCode 0 5) (leBytes 32 (maskOf 256 (pldmCommands pldmType))))
  else .next (s.refuse (sbCode 0 5))

/-- The value of a sensor: 0 to 95 the junction points, 96 to 127 the memory temperatures, 128 to 136 the rails, 137 the input power, 138 the
throttle reason (R444). (PRESUMED: notes/assumptions/60) -/
def State.sensor (s : State) (i : Nat) : Option (List Byte) :=
  if i < 96 then some (leBytes 4 (tempReg s.gau.tempsValid (tget 0 s.gau.temps i)))
  else if i < 128 then some (leBytes 4 (tempReg s.gau.tempsValid (tget 0 s.gau.memTemps (i - 96))))
  else if i < 137 then (let r := tget (0, 0) s.gau.rails (i - 128); some (leBytes 2 r.1 ++ leBytes 2 r.2))
  else if i = 137 then some (leBytes 2 (s.spw.samples.sum / (500 * wattSample)))
  else if i = 138 then some (leBytes 1 s.spw.reason)
  else none

/-- GET_SENSOR_READING (R444). -/
def execGetSensorReading (sensor : Nat) (s : State) : Host.Outcome State Fault Refusal :=
  if !s.heard then .next s
  else match s.sensor sensor with
    | some v => .next (s.answer (sbCode 2 0x11) v)
    | none => .next (s.refuse (sbCode 2 0x11))

/-- GET_PDR (R444): one record per sensor. Of its bytes the model gives the sensor number. -/
def execGetPdr (handle : Nat) (s : State) : Host.Outcome State Fault Refusal :=
  if !s.heard then .next s
  else if handle < 139 then .next (s.answer (sbCode 2 0x51) (leBytes 2 handle))
  else .next (s.refuse (sbCode 2 0x51))

/-- GET_PDR_REPOSITORY_INFO (R444): how many records there are. -/
def execGetPdrRepositoryInfo (s : State) : Host.Outcome State Fault Refusal :=
  if s.heard then .next (s.answer (sbCode 2 0x50) (leBytes 4 139)) else .next s

/-- POLL_FOR_PLATFORM_EVENT_MESSAGE (R444): the throttle state, if it is not the one told last; an empty answer says there is no event. -/
def execPollForPlatformEventMessage (s : State) : Host.Outcome State Fault Refusal :=
  if !s.heard then .next s
  else
    let r := s.spw.reason
    if s.gau.events = [r] then .next (s.answer (sbCode 2 0x0B) [])
    else .next ((s.modGau (fun g => { g with events := [r] })).answer (sbCode 2 0x0B) (leBytes 1 r))

/-- The FRU record: the part of R1, in ASCII. (PRESUMED: notes/assumptions/60) -/
def fruRecord : List Byte := [0x4D, 0x47, 0x56, 0x2D, 0x57, 0x4E, 0x56, 0x2D, 0x4C, 0x31]

/-- GET_FRU_RECORD_TABLE_METADATA (R444): the table's length. -/
def execGetFruRecordTableMetadata (s : State) : Host.Outcome State Fault Refusal :=
  if s.heard then .next (s.answer (sbCode 4 1) (leBytes 4 fruRecord.length)) else .next s

/-- GET_FRU_RECORD_TABLE (R444). -/
def execGetFruRecordTable (s : State) : Host.Outcome State Fault Refusal :=
  if s.heard then .next (s.answer (sbCode 4 2) fruRecord) else .next s

/-! ### Firmware update (R429, R447, R448) -/

/-- The bank an update writes: the one that is not GOLDEN. -/
def State.updateBank (s : State) : Bank := otherBank ((s.boot.flash.map (·.golden)).getD .A)

/-- Before a bank named TRIAL is written its name is cleared; from then until it is verified the bank is invalid (R448). -/
def State.openBank (s : State) : State :=
  let s1 := s.modBoot (fun b => { b with flash := b.flash.map (fun f => if f.trial = some s.updateBank then { f with trial := none } else f) })
  s1.modGau (fun g => { g with badBank := true })

/-- Change the open session. -/
def State.modSession (s : State) (f : Session → Session) : State := s.modGau (fun g => { g with session := g.session.map f })

/-- The stage of the open session; 99 when none is open. -/
def State.updateStage (s : State) : Nat :=
  match s.gau.session with
  | some x => if x.failed then 99 else x.stage
  | none => 99

/-- A request of an open session at one of some stages does `f` and is answered; at another it is refused. -/
def State.inSession (s : State) (code : Nat) (stages : List Nat) (f : State → State) : State :=
  if !s.heard then s else if stages.contains s.updateStage then (f s).answer code [] else s.refuse code

/-- Answer busy: a session is open already (R448). -/
def State.busy (s : State) (code : Nat) : State := s.answer code [0x81]

/-- A new session. -/
def Session.fresh : Session := { staging := false, stage := 0, components := [], current := 0, len := 0, sha := [], received := 0, failed := false }

/-- REQUEST_UPDATE (R448). -/
def execRequestUpdate (s : State) : Host.Outcome State Fault Refusal :=
  if !s.heard then .next s
  else if s.gau.updating then .next (s.busy (sbCode 5 0x10))
  else .next ((s.modGau (fun g => { g with session := some Session.fresh })).answer (sbCode 5 0x10) [0])

/-- PASS_COMPONENT_TABLE (R444). -/
def execPassComponentTable (components : List Nat) (s : State) : Host.Outcome State Fault Refusal :=
  .next (s.inSession (sbCode 5 0x13) [0] (fun st => st.modSession (fun x => { x with components := components, stage := 1 })))

/-- UPDATE_COMPONENT (R444, R448): writing into the bank begins. -/
def execUpdateComponent (component : Nat) (s : State) : Host.Outcome State Fault Refusal :=
  if s.heard && !((s.gau.session.map (fun x => x.components.contains component)).getD false) then .next (s.refuse (sbCode 5 0x14))
  else .next (s.inSession (sbCode 5 0x14) [1, 5] (fun st =>
    (st.openBank).modSession (fun x => { x with current := component, stage := 2, received := 0 })))

/-- REQUEST_FIRMWARE_DATA (R447): a piece of the component arrives. -/
def execRequestFirmwareData (off : Nat) (data : List Byte) (s : State) : Host.Outcome State Fault Refusal :=
  .next (s.inSession (sbCode 5 0x15) [2] (fun st => st.modSession (fun x => { x with received := max x.received (off + data.length) })))

/-- A step of a component that succeeds with result 0; otherwise the session fails. -/
def State.componentStep (s : State) (code from_ to_ result : Nat) : State :=
  s.inSession code [from_] (fun st => if result = 0 then st.modSession (fun x => { x with stage := to_ }) else st.failSession)

/-- TRANSFER_COMPLETE (R444). -/
def execTransferComplete (result : Nat) (s : State) : Host.Outcome State Fault Refusal := .next (s.componentStep (sbCode 5 0x16) 2 3 result)

/-- VERIFY_COMPLETE (R444, R448). -/
def execVerifyComplete (result : Nat) (s : State) : Host.Outcome State Fault Refusal := .next (s.componentStep (sbCode 5 0x17) 3 4 result)

/-- APPLY_COMPLETE (R444). -/
def execApplyComplete (result : Nat) (s : State) : Host.Outcome State Fault Refusal := .next (s.componentStep (sbCode 5 0x18) 4 5 result)

/-- UPDATE_FROM_STAGING (R447, R448): the package lies in the staging window, at most 128 MiB. -/
def execUpdateFromStaging (len : Nat) (sha : List Byte) (s : State) : Host.Outcome State Fault Refusal :=
  if !s.heard then .next s
  else if s.gau.updating then .next (s.busy (sbCode 63 8))
  else if 134217728 < len ∨ sha.length ≠ 32 ∨ s.boot.ready = false then .next (s.refuse (sbCode 63 8))
  else .next (((s.modGau (fun g => { g with session := some { Session.fresh with staging := true, stage := 2, len := len, sha := sha } })).openBank).answer (sbCode 63 8) [0])

/-- UPDATE_PROGRAM_DONE (R448): the bank is read back as `image`; `packageOk` says the package's SHA-256 matched. Any mismatch ends the session
failed and leaves the bank invalid. -/
def execUpdateProgramDone (image : BankImage) (packageOk : Bool) (s : State) : Host.Outcome State Fault Refusal :=
  if !s.gau.up || decide (s.updateStage = 99) || decide (s.updateStage < 2) then .next s
  else
    let b := s.updateBank
    let s1 := s.modBoot (fun x => { x with flash := x.flash.map (fun f => if b = .A then { f with bankA := image } else { f with bankB := image }) })
    let m := image.manifest
    if packageOk && Config.keyVerify 0 [] m.raw m.sig && decide (image.imageSha = m.images.map (·.sha)) then
      .next ((s1.modGau (fun g => { g with badBank := false })).modSession (fun x => { x with stage := 5 }))
    else .next (s1.modSession (fun x => { x with failed := true }))

/-- ACTIVATE_FIRMWARE (R429, R448): a tested bundle is named TRIAL for the next cold boot; an untested one is refused. -/
def execActivateFirmware (s : State) : Host.Outcome State Fault Refusal :=
  if !s.heard then .next s
  else if s.updateStage ≠ 5 ∨ s.gau.badBank = true then .next (s.refuse (sbCode 5 0x1A))
  else
    let b := s.updateBank
    let tested := (s.boot.flash.map (fun f => bundleTested f (bundleOf (bankOf f b).manifest))).getD false
    if tested then
      .next ((((s.modBoot (fun x => { x with flash := x.flash.map (fun f => { f with trial := some b, tries := 1 }) })).modGau
        (fun g => { g with session := none, updates := g.updates + 1 })).gaugeEvent 0 []).answer (sbCode 5 0x1A) [0])
    else
      .next ((((s.modSession (fun x => { x with failed := true })).modGau (fun g => { g with activateRefused := g.activateRefused + 1 })).gaugeEvent 1 []).send
        (.sidebandError (sbCode 5 0x1A)))

/-- GET_STATUS (R448): the stage of the session, and whether it failed. -/
def execGetStatus (s : State) : Host.Outcome State Fault Refusal :=
  if !s.heard then .next s
  else
    let p := match s.gau.session with
      | some x => leBytes 1 x.stage ++ leBytes 1 (b2n x.failed) ++ leBytes 4 x.received
      | none => [0xFF, 0, 0, 0, 0, 0]
    .next (s.answer (sbCode 5 0x1B) p)

/-- CANCEL_UPDATE (R444, R448): the session is over; a bank half written stays invalid. -/
def execCancelUpdate (s : State) : Host.Outcome State Fault Refusal :=
  .next (s.inSession (sbCode 5 0x1D) [0, 1, 2, 3, 4, 5] (fun st => st.modGau (fun g => { g with session := none })))

/-- CANCEL_UPDATE_COMPONENT (R444): the component is given up, the session stays. -/
def execCancelUpdateComponent (s : State) : Host.Outcome State Fault Refusal :=
  .next (s.inSession (sbCode 5 0x1C) [2, 3, 4] (fun st => st.modSession (fun x => { x with stage := 1, received := 0 })))

/-! ### OEM commands (R445, R446, R451, R453, R454) -/

/-- GET_ATTESTATION (R451, R454): a fresh report over the request's nonce; refused while debug is open. -/
def execGetAttestation (nonce : List Byte) (s : State) : Host.Outcome State Fault Refusal :=
  if !s.heard then .next s
  else if s.gau.debugOpen || decide (nonce.length ≠ 32) then .next (s.refuse (sbCode 63 1))
  else .next (s.answer (sbCode 63 1) (s.attestation nonce))

/-- GET_CHALLENGE (R453): 32 random bytes, which void the challenge before. -/
def execGetChallenge (s : State) : Host.Outcome State Fault Refusal :=
  if !s.heard then .next s
  else
    let (ws, s1) := State.freshWords 4 s
    let c := ws.flatMap (fun w => leBytes 8 w.toNat)
    .next ((s1.modGau (fun g => { g with challenge := some c })).answer (sbCode 63 2) c)

/-- CHALLENGE_EXPIRE (R453): ten minutes have passed. -/
def execChallengeExpire (s : State) : Host.Outcome State Fault Refusal := .next (s.modGau (fun g => { g with challenge := none }))

/-- Is a token good (R453). -/
def State.tokenOk (s : State) (t : List Byte) : Bool :=
  decide (t.length = 128) && decide (fieldAt t 0 2 = 1) && decide ((t.drop 8).take 16 = deviceId) && decide (s.gau.challenge = some ((t.drop 32).take 32)) &&
    Config.keyVerify 2 [] (t.take 64) (t.drop 64)

/-- Debug opens (R454): the books close under the ledger key, the keys are zeroised, a warm reset runs, the scopes open. -/
def State.openDebug (s : State) (scopes : Nat) : State :=
  let s1 := (s.ledgerFinal.modGau (fun g => { g with keysZero := true, challenge := none })).warmReset
  (s1.modGau (fun g => { g with debugOpen := true, scopes := scopes, debugUnlocks := g.debugUnlocks + 1 })).gaugeEvent 2 (leBytes 1 scopes)

/-- DEBUG_UNLOCK (R453, R454). A challenge serves one token. (DEDUCED: notes/assumptions/62) -/
def execDebugUnlock (token : List Byte) (s : State) : Host.Outcome State Fault Refusal :=
  if !s.heard then .next s
  else if s.tokenOk token then .next ((s.openDebug (fieldAt token 2 1 % 8)).answer (sbCode 63 3) [0])
  else .next (((s.modGau (fun g => { g with challenge := none })).gaugeEvent 2 [0xFF]).refuse (sbCode 63 3))

/-- May a reset be requested (R410, R430, R434, R446): its level is known, its scope exists, and its level's rules allow it. -/
def State.resetAllowed (s : State) (level inst : Nat) : Bool :=
  if level = 5 then s.coldAllowed
  else if level = 4 then s.warmAllowed
  else s.boot.ready && decide (s.spw.stop = 0) &&
    (if level = 0 then decide (inst < s.cap.activeCores) else if level = 1 then decide (16 * inst < s.cap.activeCores)
     else if level = 2 then decide (512 * inst < s.cap.activeCores) else decide (level = 3) && ownReset (inst / 256))

/-- RESET (R430, R446): level 0 core, 1 cluster, 2 partition, 3 base-die subsystem (unit code × 256 + instance), 4 warm, 5 cold. A request that
is taken is logged. -/
def execSbReset (level inst : Nat) (s : State) : Host.Outcome State Fault Refusal :=
  if !s.heard then .next s
  else if !s.resetAllowed level inst then .next (s.refuse (sbCode 63 4))
  else
    let s1 := (s.gaugeEvent 3 (leBytes 1 level ++ leBytes 2 inst)).answer (sbCode 63 4) [0]
    if level = 5 then .next s1.coldReset else if level = 4 then .next s1.warmReset else .next (s1.beginReset level inst false)

/-- SLACK (R364, R365): slack is entered at the first idle mark, or the wake is triggered. -/
def execSbSlack (wake : Bool) (s : State) : Host.Outcome State Fault Refusal :=
  if !s.heard then .next s
  else
    let s1 := s.answer (sbCode 63 5) [0]
    if wake then .next s1.wakeTrigger else if s.boot.ready && !s.spw.asleep then .next (s1.modSpw (fun x => { x with slackReq := true })) else .next s1

/-- READ_LOG (R445): the log's entries from a LOG_SEQ on. -/
def execReadLog (logSeq : Nat) (s : State) : Host.Outcome State Fault Refusal :=
  if !s.heard then .next s
  else .next (s.answer (sbCode 63 6) ((s.gau.log.filter (fun e => decide (logSeq ≤ e.1))).flatMap entryBytes))

/-- READ_STAGE (R420, R445): the latest report of a stage. -/
def execReadStage (stage : Nat) (s : State) : Host.Outcome State Fault Refusal :=
  if !s.heard then .next s
  else if stage ≤ 8 then .next (s.answer (sbCode 63 7) (tget [] s.boot.reports stage))
  else .next (s.refuse (sbCode 63 7))

/-! ### JTAG (R455, R463) -/

/-- JTAG_INSTRUCTION (R455): while debug is shut, any instruction but BYPASS, IDCODE and SAMPLE zeroises the memory keys and holds the device in
whole-device reset. (DEDUCED: notes/assumptions/56) -/
def execJtagInstruction (op : JtagOp) (s : State) : Host.Outcome State Fault Refusal :=
  match op with
  | .bypass | .idcode | .sample => .next s
  | .other =>
    if s.gau.debugOpen || !s.pins.switchOn then .next s
    else
      let s1 := s.ledgerFinal.warmStart
      .next { s1 with memKeys := [], boot := { s1.boot with running := false, stage := s.boot.stage }, gau := { s1.gau with warmHeld := true } }

end Sys2Proof.Machine
end

