-- ==== Sys2Proof/Machine/Vector.lean ====
section
/-! DEFINITION. V-slot instructions (R175 to R177, R190): arithmetic, conversion, compare, logic, movement, horizontal and mask
operations. -/

namespace Sys2Proof.Machine

open Sys2Proof

/-- A vector result element by element: bits, poison and flags of active element `j` come from `g`. -/
def VecSt.eachElem (v : VecSt) (w : W64) (ty : Nat) (g : Nat → Nat × Bool × BitVec 7) : VecSt × BitVec 7 :=
  let res := (List.range (vCount ty)).map (fun j => if v.active w (vMaskBit ty j) then some (g j) else none)
  (v.setV ty (vZm w) (vVd w) (res.map (fun o => o.map (fun x => (x.1, x.2.1)))),
   res.foldl (fun a o => match o with | some x => a ||| x.2.2 | none => a) 0)

/-- A vector result lane by lane, without flags. -/
def VecSt.eachLane (v : VecSt) (w : W64) (g : Nat → Nat × Bool) : VecSt × BitVec 7 :=
  (v.setV 0 (vZm w) (vVd w) ((List.range 64).map (fun l => if v.active w (vLaneBit (vType w) l) then some (g l) else none)), 0)

/-- The word r of an arithmetic instruction (R175): handle 0, index `j`; drawn only under SR. -/
def WakeEntry.drawV (e : WakeEntry) (rm j : Nat) : Nat := if rm = 4 then srWord e.seed 0 j e.step else 0

/-- The exact result of an arithmetic operation and its divide-by-zero flag (R175 to R177). -/
def vArith (op : Nat) (rdn : Bool) (a b c : FVal) : XVal × Bool :=
  match op with
  | 0x01 => (xadd rdn a b, false)
  | 0x02 => (xadd rdn a (fneg b), false)
  | 0x03 => (xmul a b, false)
  | 0x04 => (xfma rdn a b c, false)
  | 0x05 => (xfma rdn (fneg a) b c, false)
  | 0x06 => (ofF (fmin a b), false)
  | 0x07 => (ofF (fmax a b), false)
  | 0x08 => (ofF (fabs a), false)
  | 0x09 => (ofF (fneg a), false)
  | 0x0A => (xdiv a b, isZero b && isFin a && !isZero a)
  | 0x0B => (xsqrt a, false)
  | 0x0C => (xdiv (ofInt 1) a, isZero a)
  | 0x0D => (xrsqrt a, isZero a)
  | 0x0E => (xexp2 a, false)
  | _ => (xlog2 a, isZero a)

/-- How many operands an arithmetic operation has. -/
def vArity (op : Nat) : Nat := if op = 0x04 ∨ op = 0x05 then 3 else if op ≤ 0x03 ∨ op = 0x06 ∨ op = 0x07 ∨ op = 0x0A then 2 else 1

/-- A floating-point operation on every active element (R175, R176, R182, R183). -/
def VecSt.arith (v : VecSt) (w : W64) (op : Nat) (e : WakeEntry) : VecSt × BitVec 7 :=
  let ty := vType w
  let rm := vRm w
  let n := vArity op
  let xa := v.vreg (vVa w)
  let pa := v.vpz (vVa w)
  let xb := v.opB w ty
  let pb := v.opBpz w
  let xc := v.vreg (vVc w)
  let pc := v.vpz (vVc w)
  v.eachElem w ty (fun j =>
    let a := vVal ty xa pa j
    let b := if 2 ≤ n then vVal ty xb pb j else fzero
    let c := if 3 ≤ n then vVal ty xc pc j else fzero
    let pz := vElPoison ty pa j || (decide (2 ≤ n) && vElPoison ty pb j) || (decide (3 ≤ n) && vElPoison ty pc j)
    let (x, dz) := vArith op (decide (rm = 2)) a b c
    let o := roundX (fmtOf (vFmt ty)) rm (e.drawV rm j) false x
    let nv := invalidOp x [a, b, c] && decide (op ≠ 0x06) && decide (op ≠ 0x07)
    (encodeElem (vFmt ty) o.v, pz, o.flags nv dz))

/-- VABS and VNEG of I32 elements, modulo 2^32 (R175). (DEDUCED: notes/assumptions/19) -/
def VecSt.signI32 (v : VecSt) (w : W64) (neg : Bool) : VecSt × BitVec 7 :=
  let xa := v.vreg (vVa w)
  let pa := v.vpz (vVa w)
  v.eachElem w 3 (fun j =>
    let i := sext 32 (vGet 3 xa j)
    (wrap 32 (if neg || decide (i < 0) then -i else i), vElPoison 3 pa j, 0))

/-- A lane operation on a and b: poisoned when either lane is. -/
def VecSt.lane2 (v : VecSt) (w : W64) (g : W32 → W32 → W32) : VecSt × BitVec 7 :=
  let xa := v.vreg (vVa w)
  let xb := v.opB w (vType w)
  let pa := v.vpz (vVa w)
  let pb := v.opBpz w
  v.eachLane w (fun l => ((g (BitVec.ofNat 32 (vGet 0 xa l)) (BitVec.ofNat 32 (vGet 0 xb l))).toNat, pa.getLsbD l || pb.getLsbD l))

/-- One element of a VCVT: source value, source poison, destination format, mode, index, saturation (R177, R145). -/
def cvtElem (e : WakeEntry) (v : FVal) (pz : Bool) (f rm j : Nat) (sat : Bool) : Nat × Bool × BitVec 7 :=
  let o := roundX (fmtOf f) rm (e.drawV rm j) sat (ofF v)
  (encodeElem f o.v, pz, o.flags false false)

/-- VCVT by its eight forms (R173, R177). -/
def VecSt.convertV (v : VecSt) (w : W64) (e : WakeEntry) : VecSt × BitVec 7 :=
  let form := vImm w % 8
  let rm := vRm w
  let xa := v.vreg (vVa w)
  let pa := v.vpz (vVa w)
  let xb := v.opB w 0
  let pb := v.opBpz w
  if form = 0 then v.eachElem w 3 (fun j => cvtElem e (vVal 0 xa pa j) (vElPoison 0 pa j) 0x0B rm j true)
  else if form = 1 then v.eachElem w 0 (fun j => cvtElem e (vVal 3 xa pa j) (vElPoison 3 pa j) 0x02 rm j false)
  else if form = 2 then
    v.eachElem w 1 (fun j => if j % 2 = 0 then cvtElem e (vVal 0 xa pa (j / 2)) (vElPoison 0 pa (j / 2)) 0x00 rm j false
      else cvtElem e (vVal 0 xb pb (j / 2)) (vElPoison 0 pb (j / 2)) 0x00 rm j false)
  else if form ≤ 4 then v.eachElem w 0 (fun j => cvtElem e (vVal 1 xa pa (2 * j + form - 3)) (vElPoison 1 pa (2 * j + form - 3)) 0x02 rm j false)
  else if form ≤ 6 then
    v.eachElem w 2 (fun j => cvtElem e (vVal 0 xa pa (j + 32 * (form - 5))) (vElPoison 0 pa (j + 32 * (form - 5))) 0x03 rm j false)
  else
    let lo := if bitOf (vImm w) 3 then 32 else 0
    let old := v.vreg (vVd w)
    let oldP := v.vpz (vVd w)
    let rs := (List.range 64).map (fun l =>
      if l < lo ∨ lo + 32 ≤ l then (some (vGet 0 old l, oldP.getLsbD l), (0 : BitVec 7))
      else if v.active w l then
        (let r := cvtElem e (vVal 2 xa pa (l - lo)) (vElPoison 2 pa (l - lo)) 0x02 rm l false
         (some (r.1, r.2.1), r.2.2))
      else (none, 0))
    (v.setV 0 (vZm w) (vVd w) (rs.map (·.1)), rs.foldl (fun a r => a ||| r.2) 0)

/-- A predicate of VCMP on an ordering (R177): none is unordered. -/
def vPred (p : Nat) (o : Option Ordering) : Bool :=
  match o with
  | none => decide (p = 1) || decide (p = 6)
  | some c =>
    match p with
    | 0 => decide (c = .eq)
    | 1 => decide (c ≠ .eq)
    | 2 => decide (c = .lt)
    | 3 => decide (c ≠ .gt)
    | 4 => decide (c = .gt)
    | 5 => decide (c ≠ .lt)
    | 6 => false
    | _ => true

/-- VCMP (R173, R174, R177): the ordered relations LT, LE, GT, GE signal invalid on a NaN, as IEEE 754 has it (R176). (DEDUCED: notes/assumptions/15) -/
def VecSt.compareV (v : VecSt) (w : W64) : VecSt × BitVec 7 :=
  let ty := vType w
  let p := vImm w % 8
  let xa := v.vreg (vVa w)
  let pa := v.vpz (vVa w)
  let xb := v.opB w ty
  let pb := v.opBpz w
  let cmp (j : Nat) : Option Ordering := fcmp (vVal ty xa pa j) (vVal ty xb pb j)
  let on (j : Nat) : Bool := v.active w j
  let rs := (List.range (vCount ty)).map cmp
  let bits : W64 := BitVec.ofNat 64 (((List.range (vCount ty)).map (fun j => 2 ^ j * b2n (vPred p (lget none rs j)))).sum)
  let v1 := v.setM (vVd w % 8) (vZm w) on bits
  let v2 := if ty = 2 then { v1 with m := tset 0 v1.m (vVd w % 8) ((v1.mask (vVd w % 8)) &&& 0xFFFFFFFF) } else v1
  let nv := decide (2 ≤ p) && decide (p ≤ 5) && (List.range (vCount ty)).any (fun j => on j && (lget none rs j).isNone)
  (v2, flagBits nv false false false false)

/-- One level of the tree of R190: adjacent results added, with the flags; `k` is the level, `a` the first element covered. -/
def treeLevel (e : WakeEntry) (f rm k : Nat) : Nat → List FVal → List FVal × BitVec 7
  | a, x :: y :: t =>
    let s := xadd (decide (rm = 2)) x y
    let o := roundX (fmtOf f) rm (e.drawV rm (a + 2 ^ (k - 1) - 1)) false s
    let (l, fl) := treeLevel e f rm k (a + 2 ^ k) t
    (o.v :: l, fl ||| o.flags (invalidOp s [x, y]) false)
  | _, l => (l, 0)

/-- The tree from level `k` up; `n` bounds the levels. -/
def treeSum (e : WakeEntry) (f rm a : Nat) : Nat → Nat → List FVal → FVal × BitVec 7
  | 0, _, l => (l.headD fzero, 0)
  | n + 1, k, l =>
    match l with
    | [] => (fzero, 0)
    | [x] => (x, 0)
    | _ =>
      let (l1, f1) := treeLevel e f rm k a l
      let (r, f2) := treeSum e f rm a n (k + 1) l1
      (r, f1 ||| f2)

/-- VHSUM and VHMAX (R190). -/
def VecSt.horizontal (v : VecSt) (w : W64) (e : WakeEntry) (isMax : Bool) : VecSt × BitVec 7 :=
  let ty := vType w
  let f := vFmt ty
  let rm := vRm w
  let n := vCount ty
  let seg := min n (8 * 2 ^ (vImm w % 4))
  let xa := v.vreg (vVa w)
  let pa := v.vpz (vVa w)
  let one (g : Nat) : List (Option (Nat × Bool)) × BitVec 7 :=
    let js := rangeFrom (g * seg) seg
    let vals := js.map (fun j => if v.active w j then vVal ty xa pa j else if isMax then FVal.inf true else fnegZero)
    let pz := js.any (fun j => v.active w j && vElPoison ty pa j)
    let (r, fl) := if isMax then (vals.foldl fmax (.inf true), (0 : BitVec 7)) else treeSum e f rm (g * seg) 7 1 vals
    (js.map (fun j => if v.active w j then some (encodeElem f r, pz) else none), fl)
  let gs := (List.range (n / seg)).map one
  (v.setV ty (vZm w) (vVd w) (gs.flatMap (·.1)), gs.foldl (fun a g => a ||| g.2) 0)

/-- A mask result under MEN (R174). -/
def VecSt.maskResult (v : VecSt) (w : W64) (x : W64) : VecSt × BitVec 7 := (v.setM (vVd w % 8) (vZm w) (v.active w) x, 0)

/-- VSEL (R177): by mask MSEL whatever MEN is; moves keep data and poison. -/
def VecSt.selectV (v : VecSt) (w : W64) : VecSt × BitVec 7 :=
  let sel := v.mask (vMsel w)
  let xb := v.opB w (vType w)
  let pb := v.opBpz w
  (v.setV 0 false (vVd w) ((List.range 64).map (fun l =>
    if sel.getLsbD (vLaneBit (vType w) l) then some (vGet 0 (v.vreg (vVa w)) l, (v.vpz (vVa w)).getLsbD l)
    else some (vGet 0 xb l, pb.getLsbD l))), 0)

/-- VPERM (R177). (DEDUCED: notes/assumptions/19) -/
def VecSt.permute (v : VecSt) (w : W64) : VecSt × BitVec 7 :=
  let xb := v.opB w (vType w)
  let pb := v.opBpz w
  v.eachLane w (fun l => let k := vGet 0 xb l % 64; (vGet 0 (v.vreg (vVa w)) k, (v.vpz (vVa w)).getLsbD k || pb.getLsbD l))

/-- VSLIDE (R177). -/
def VecSt.slide (v : VecSt) (w : W64) : VecSt × BitVec 7 :=
  v.eachLane w (fun l =>
    let k : Int := (l : Int) + vImmS w
    if 0 ≤ k ∧ k < 64 then (vGet 0 (v.vreg (vVa w)) k.toNat, (v.vpz (vVa w)).getLsbD k.toNat) else (0, false))

/-- The operation of MLOGIC (R177). -/
def maskLogic (k : Nat) (a b : W64) : W64 := if k = 0 then a &&& b else if k = 1 then a ||| b else if k = 2 then a ^^^ b else a &&& ~~~b

/-- VNOP (R177): nothing but an issue. -/
def execVnop (core : Nat) (w : W64) (re : Nat) (s : State) : Host.Outcome State Fault Refusal :=
  .next (s.vIssue core w 0x00 re (fun _ v => (v, 0)))

/-- VADD (R175, R176): d := a + b. -/
def execVadd (core : Nat) (w : W64) (re : Nat) (s : State) : Host.Outcome State Fault Refusal :=
  .next (s.vIssue core w 0x01 re (fun e v => v.arith w 0x01 e))

/-- VSUB (R175, R176): d := a − b. -/
def execVsub (core : Nat) (w : W64) (re : Nat) (s : State) : Host.Outcome State Fault Refusal :=
  .next (s.vIssue core w 0x02 re (fun e v => v.arith w 0x02 e))

/-- VMUL (R175, R176): d := a × b. -/
def execVmul (core : Nat) (w : W64) (re : Nat) (s : State) : Host.Outcome State Fault Refusal :=
  .next (s.vIssue core w 0x03 re (fun e v => v.arith w 0x03 e))

/-- VFMA (R175, R176): d := a × b + c, rounded once. -/
def execVfma (core : Nat) (w : W64) (re : Nat) (s : State) : Host.Outcome State Fault Refusal :=
  .next (s.vIssue core w 0x04 re (fun e v => v.arith w 0x04 e))

/-- VFNMA (R175, R176): d := c − a × b, rounded once. -/
def execVfnma (core : Nat) (w : W64) (re : Nat) (s : State) : Host.Outcome State Fault Refusal :=
  .next (s.vIssue core w 0x05 re (fun e v => v.arith w 0x05 e))

/-- VMIN (R175, R176): the smaller, NaN if either is. -/
def execVmin (core : Nat) (w : W64) (re : Nat) (s : State) : Host.Outcome State Fault Refusal :=
  .next (s.vIssue core w 0x06 re (fun e v => v.arith w 0x06 e))

/-- VMAX (R175, R176): the larger, NaN if either is. -/
def execVmax (core : Nat) (w : W64) (re : Nat) (s : State) : Host.Outcome State Fault Refusal :=
  .next (s.vIssue core w 0x07 re (fun e v => v.arith w 0x07 e))

/-- VABS (R176): magnitude. -/
def execVabs (core : Nat) (w : W64) (re : Nat) (s : State) : Host.Outcome State Fault Refusal :=
  .next (s.vIssue core w 0x08 re (fun e v => if vType w = 3 then v.signI32 w false else v.arith w 0x08 e))

/-- VNEG (R176): negation. -/
def execVneg (core : Nat) (w : W64) (re : Nat) (s : State) : Host.Outcome State Fault Refusal :=
  .next (s.vIssue core w 0x09 re (fun e v => if vType w = 3 then v.signI32 w true else v.arith w 0x09 e))

/-- VDIV (R175, R176): d := a / b. -/
def execVdiv (core : Nat) (w : W64) (re : Nat) (s : State) : Host.Outcome State Fault Refusal :=
  .next (s.vIssue core w 0x0A re (fun e v => v.arith w 0x0A e))

/-- VSQRT (R175, R176): d := √a. -/
def execVsqrt (core : Nat) (w : W64) (re : Nat) (s : State) : Host.Outcome State Fault Refusal :=
  .next (s.vIssue core w 0x0B re (fun e v => v.arith w 0x0B e))

/-- VRCP (R175, R176): d := 1 / a. -/
def execVrcp (core : Nat) (w : W64) (re : Nat) (s : State) : Host.Outcome State Fault Refusal :=
  .next (s.vIssue core w 0x0C re (fun e v => v.arith w 0x0C e))

/-- VRSQRT (R175, R176): d := 1 / √a. -/
def execVrsqrt (core : Nat) (w : W64) (re : Nat) (s : State) : Host.Outcome State Fault Refusal :=
  .next (s.vIssue core w 0x0D re (fun e v => v.arith w 0x0D e))

/-- VEXP2 (R175, R176): d := 2^a. -/
def execVexp2 (core : Nat) (w : W64) (re : Nat) (s : State) : Host.Outcome State Fault Refusal :=
  .next (s.vIssue core w 0x0E re (fun e v => v.arith w 0x0E e))

/-- VLOG2 (R175, R176): d := log2 a. -/
def execVlog2 (core : Nat) (w : W64) (re : Nat) (s : State) : Host.Outcome State Fault Refusal :=
  .next (s.vIssue core w 0x0F re (fun e v => v.arith w 0x0F e))

/-- VCVT (R173, R177): conversion by IMM[2:0]. -/
def execVcvt (core : Nat) (w : W64) (re : Nat) (s : State) : Host.Outcome State Fault Refusal :=
  .next (s.vIssue core w 0x10 re (fun e v => v.convertV w e))

/-- VCMP (R177): a mask from a predicate. -/
def execVcmp (core : Nat) (w : W64) (re : Nat) (s : State) : Host.Outcome State Fault Refusal :=
  .next (s.vIssue core w 0x11 re (fun _ v => v.compareV w))

/-- VSEL (R177): d := a where mask MSEL is set, otherwise b. -/
def execVsel (core : Nat) (w : W64) (re : Nat) (s : State) : Host.Outcome State Fault Refusal :=
  .next (s.vIssue core w 0x12 re (fun _ v => v.selectV w))

/-- VAND (R177): bitwise and. -/
def execVand (core : Nat) (w : W64) (re : Nat) (s : State) : Host.Outcome State Fault Refusal :=
  .next (s.vIssue core w 0x13 re (fun _ v => v.lane2 w (fun x y => x &&& y)))

/-- VOR (R177): bitwise or. -/
def execVor (core : Nat) (w : W64) (re : Nat) (s : State) : Host.Outcome State Fault Refusal :=
  .next (s.vIssue core w 0x14 re (fun _ v => v.lane2 w (fun x y => x ||| y)))

/-- VXOR (R177): bitwise exclusive or. -/
def execVxor (core : Nat) (w : W64) (re : Nat) (s : State) : Host.Outcome State Fault Refusal :=
  .next (s.vIssue core w 0x15 re (fun _ v => v.lane2 w (fun x y => x ^^^ y)))

/-- VSHL (R177): left shift by the low 5 bits of b. -/
def execVshl (core : Nat) (w : W64) (re : Nat) (s : State) : Host.Outcome State Fault Refusal :=
  .next (s.vIssue core w 0x16 re (fun _ v => v.lane2 w (fun x y => x <<< (y.toNat % 32))))

/-- VSHR (R177): logical right shift. -/
def execVshr (core : Nat) (w : W64) (re : Nat) (s : State) : Host.Outcome State Fault Refusal :=
  .next (s.vIssue core w 0x17 re (fun _ v => v.lane2 w (fun x y => x >>> (y.toNat % 32))))

/-- VSRA (R177): arithmetic right shift. -/
def execVsra (core : Nat) (w : W64) (re : Nat) (s : State) : Host.Outcome State Fault Refusal :=
  .next (s.vIssue core w 0x18 re (fun _ v => v.lane2 w (fun x y => x.sshiftRight (y.toNat % 32))))

/-- VIADD (R177): I32 sum modulo 2^32. -/
def execViadd (core : Nat) (w : W64) (re : Nat) (s : State) : Host.Outcome State Fault Refusal :=
  .next (s.vIssue core w 0x19 re (fun _ v => v.lane2 w (fun x y => x + y)))

/-- VISUB (R177): I32 difference modulo 2^32. -/
def execVisub (core : Nat) (w : W64) (re : Nat) (s : State) : Host.Outcome State Fault Refusal :=
  .next (s.vIssue core w 0x1A re (fun _ v => v.lane2 w (fun x y => x - y)))

/-- VIMUL (R177): I32 product modulo 2^32. -/
def execVimul (core : Nat) (w : W64) (re : Nat) (s : State) : Host.Outcome State Fault Refusal :=
  .next (s.vIssue core w 0x1B re (fun _ v => v.lane2 w (fun x y => x * y)))

/-- VMOV (R177): d := a. -/
def execVmov (core : Nat) (w : W64) (re : Nat) (s : State) : Host.Outcome State Fault Refusal :=
  .next (s.vIssue core w 0x20 re (fun _ v => v.eachLane w (fun l => (vGet 0 (v.vreg (vVa w)) l, (v.vpz (vVa w)).getLsbD l))))

/-- VBCAST (R177): sa to every lane or F64 element. -/
def execVbcast (core : Nat) (w : W64) (re : Nat) (s : State) : Host.Outcome State Fault Refusal :=
  .next (s.vIssue core w 0x21 re (fun _ v => v.eachLane w (fun l => (vGet 0 (vSplat (vType w) (v.sreg (vSa w))) l, false))))

/-- VIDX (R177): lane l := l. -/
def execVidx (core : Nat) (w : W64) (re : Nat) (s : State) : Host.Outcome State Fault Refusal :=
  .next (s.vIssue core w 0x22 re (fun _ v => v.eachLane w (fun l => (l, false))))

/-- VPERM (R177): lane l := a lane (b lane l & 63). -/
def execVperm (core : Nat) (w : W64) (re : Nat) (s : State) : Host.Outcome State Fault Refusal :=
  .next (s.vIssue core w 0x23 re (fun _ v => v.permute w))

/-- VSLIDE (R177): lane l := a lane (l + IMM), +0 outside. -/
def execVslide (core : Nat) (w : W64) (re : Nat) (s : State) : Host.Outcome State Fault Refusal :=
  .next (s.vIssue core w 0x24 re (fun _ v => v.slide w))

/-- VHSUM (R190): tree sum within segments. -/
def execVhsum (core : Nat) (w : W64) (re : Nat) (s : State) : Host.Outcome State Fault Refusal :=
  .next (s.vIssue core w 0x28 re (fun e v => v.horizontal w e false))

/-- VHMAX (R190): maximum within segments. -/
def execVhmax (core : Nat) (w : W64) (re : Nat) (s : State) : Host.Outcome State Fault Refusal :=
  .next (s.vIssue core w 0x29 re (fun e v => v.horizontal w e true))

/-- MLOGIC (R174, R177): mask logic. -/
def execMlogic (core : Nat) (w : W64) (re : Nat) (s : State) : Host.Outcome State Fault Refusal :=
  .next (s.vIssue core w 0x2C re (fun _ v => v.maskResult w (maskLogic (vImm w % 4) (v.mask (vVa w % 8)) (v.mask (vVb w % 8)))))

/-- MFIRST (R174, R177): bits 0 to sa − 1. -/
def execMfirst (core : Nat) (w : W64) (re : Nat) (s : State) : Host.Outcome State Fault Refusal :=
  .next (s.vIssue core w 0x2D re (fun _ v => v.maskResult w (BitVec.ofNat 64 (2 ^ (min 64 (v.sreg (vSa w)).toNat) - 1))))

end Sys2Proof.Machine
end

