-- ==== Sys2Proof/Machine/VectorMem.lean ====
section
/-! DEFINITION. Vector memory, sluice and reduction instructions (R178 to R181, R185 to R189). -/

namespace Sys2Proof.Machine

open Sys2Proof

/-- The tensor slot IMM[1:0] of a program (R168). -/
def WakeEntry.vslot (e : WakeEntry) (k : Nat) : TDesc := lget TDesc.null e.cmd.tensors (k % 4)

/-- The linear index of element `j` of a VLD or VST (R178, R180): `mx` says that starts lose their low 5 bits. (DEDUCED: notes/assumptions/18) -/
def vIndex (v : VecSt) (w : W64) (mx : Bool) (j : Nat) : Nat :=
  let half := vCount (vType w) / 2
  let fl (a : Nat) : Nat := if mx then a / 32 * 32 else a
  let sa := (v.sreg (vSa w)).toNat
  if bitOf (vImm w) 2 then
    (if j < half then fl sa + j else fl ((sa + (v.sreg (vVb w % 16)).toNat) % 2 ^ 64) + (j - half))
  else fl sa + j

/-- The linear index of element `j` of a VGATHER or VSCATTER, none below 0 (R178). (DEDUCED: notes/assumptions/18) -/
def vOffset (v : VecSt) (w : W64) (j : Nat) : Option Nat :=
  let ty := vType w
  let xb := v.opB w ty
  let o : Int := if ty = 1 then sext 16 (vGet 1 xb j) else sext 32 (vGet 0 xb j)
  let i := (v.sreg (vSa w)).toInt + o
  if i < 0 then none else some i.toNat

/-! ### Loads (R178, R179) -/

/-- The element a load puts into a register: bits, poison, flags. (DEDUCED: notes/assumptions/18) -/
def loadElem (s : State) (e : WakeEntry) (t : TDesc) (ty rm : Nat) (idx : Option Nat) : Nat × Bool × BitVec 7 :=
  match idx with
  | none => (0, false, 0)
  | some i =>
    if i < t.count then
      let i0 := i % t.d0
      let r := i / t.d0
      let pz := t.poisoned s i0 r
      if t.fmt = vFmt ty then (t.bits s i0 r, pz, 0)
      else
        let o := roundX (fmtOf (vFmt ty)) rm (if rm = 4 then srWord e.seed t.handle i e.step else 0) (decide (ty = 3)) (ofF (t.val s i0 r))
        (encodeElem (vFmt ty) o.v, pz, o.flags false false)
    else (0, false, 0)

/-- Issue a load: the data waits to arrive (R181). -/
def State.vLoad (s : State) (core : Nat) (w : W64) (op : Nat) (index : VecSt → Nat → Option Nat) : State :=
  match s.vecReady core w op with
  | none => s
  | some e =>
    if s.vecWaits core w then s.sStall core
    else
      let t := e.vslot (vImm w)
      let ty := vType w
      let s1 := s.modVec core (fun v =>
        let (v1, fl) := v.eachElem w ty (fun j => loadElem s e t ty (vRm w) (index v j))
        { v with flags := v.flags ||| fl, loads := v.loads.filter (fun x => x.1 ≠ vVd w) ++ [(vVd w, v1.vreg (vVd w), v1.vpz (vVd w))] })
      s1.retireNext core w

/-- VLD (R178). -/
def execVld (core : Nat) (w : W64) (s : State) : Host.Outcome State Fault Refusal :=
  .next (s.vLoad core w 0x30 (fun v j => some (vIndex v w false j)))

/-- VGATHER (R178). -/
def execVgather (core : Nat) (w : W64) (s : State) : Host.Outcome State Fault Refusal :=
  .next (s.vLoad core w 0x32 (fun v j => vOffset v w j))

/-- VLOAD_RETURN (R181): the data of the load to a register arrives. (DEDUCED: notes/assumptions/19) -/
def execVloadReturn (core vd : Nat) (s : State) : Host.Outcome State Fault Refusal :=
  .next (s.modVec core (fun v =>
    match findFirst (fun x => decide (x.1 = vd)) v.loads with
    | none => v
    | some x => { v with v := tset 0 v.v vd x.2.1, vPoison := tset 0 v.vPoison vd x.2.2, loads := v.loads.filter (fun y => y.1 ≠ vd) }))

/-! ### Stores (R178 to R180) -/

/-- Group single-element writes into runs of consecutive elements of one row: first index, bits, poison. -/
def elemRuns (d0 : Nat) : List (Nat × Nat × Bool) → List (Nat × List Nat × List Bool)
  | [] => []
  | x :: t =>
    match elemRuns d0 t with
    | (i, bs, ps) :: rest =>
      if i = x.1 + 1 ∧ i % d0 ≠ 0 then (x.1, x.2.1 :: bs, x.2.2 :: ps) :: rest
      else (x.1, [x.2.1], [x.2.2]) :: (i, bs, ps) :: rest
    | [] => [(x.1, [x.2.1], [x.2.2])]

/-- The stretches a store writes into a tensor whose elements overlap, behind those its command has written before (R44). -/
def State.overlaps (s : State) (e : WakeEntry) (t : TDesc) (us : List (Nat × Nat × Nat)) : List (Nat × Nat × Nat) :=
  if t.tight then []
  else
    (match s.entry e.cmd.queue e.cmd.seq with
     | some x => (x.stored.filter (fun y => decide (y.1 = t.handle))).map (·.2)
     | none => []) ++ us

/-- The command remembers them. -/
def WakeEntry.noteStored (e : WakeEntry) (t : TDesc) (us : List (Nat × Nat × Nat)) : WakeEntry :=
  if t.tight then e else { e with stored := e.stored ++ us.map (fun u => (t.handle, u)) }

/-- A store of elements (index, value, register bits, poison), the last of one index winning, into a tensor of a plain format. (DEDUCED: notes/assumptions/10) -/
def State.storePlain (s : State) (core : Nat) (e : WakeEntry) (t : TDesc) (ty rm : Nat) (items : List (Nat × FVal × Nat × Bool)) : State :=
  let mode := if t.grad then 4 else rm
  let conv := items.map (fun x =>
    let o := roundX (fmtOf t.fmt) mode (if mode = 4 then srWord e.seed t.handle x.1 e.step else 0) (decide (0x0A ≤ t.fmt)) (ofF x.2.1)
    if t.fmt = vFmt ty then (x.1, x.2.2.1, x.2.2.2, (0 : BitVec 7), !isFin x.2.1)
    else (x.1, encodeElem t.fmt o.v, x.2.2.2, o.flags false false, nonfiniteWrite x.2.1 o))
  let runs := elemRuns t.d0 (conv.map (fun c => (c.1, c.2.1, c.2.2.1)))
  let us := runs.map (fun r => (r.1 / t.d0, r.1 % t.d0, r.2.1.length))
  let ws := s.overlaps e t us
  let s1 := runs.foldl (fun st r => t.writeMarked st (r.1 / t.d0) (r.1 % t.d0) r.2.1 r.2.2 ws) s
  let fl := conv.foldl (fun a c => a ||| c.2.2.2.1) 0
  let pz := conv.any (fun c => c.2.2.1)
  let s2 := s1.modVec core (fun v => { v with flags := v.flags ||| fl ||| (if pz then flagPoison else 0) })
  s2.modEntry e.cmd.queue e.cmd.seq (fun x =>
    WakeEntry.worse { x.noteStored t us with effects := x.effects ++ (if conv.any (fun c => c.2.2.2.2) then [RowEffect.nonfinite t.layer] else []) } pz false)

/-- Flags of a narrowed MX unit: each element converted under its block's final scale (R182). -/
def mxFlags (t : TDesc) (cx : NarrowCtx) (mode : Nat) (sat : Bool) (bs : List Stretch) (ps : List Narrowed) : BitVec 7 :=
  (bs.zip ps).foldl (fun a bp =>
    match bp.2.scale with
    | none => a
    | some sc =>
      if sc = 0xFF then a
      else (bp.1.vals.zip (stretchWords t cx bp.1)).foldl (fun b vr =>
        b ||| (roundX (fmtOf t.fmt) mode vr.2 sat (ofF (scale2 vr.1 (127 - (sc : Int))))).flags false false) a) 0

/-- A store into an MX tensor: whole blocks, one unit of work (R180). -/
def State.storeMx (s : State) (core : Nat) (e : WakeEntry) (t : TDesc) (rm : Nat) (items : List (Nat × FVal × Nat × Bool)) : State :=
  let cx := e.narrowCtx s t
  let mode := if t.grad then 4 else rm
  let blocks := items.foldl (fun a x => ninsert (x.1 / 32) a) []
  let at1 (i : Nat) : Option (Nat × FVal × Nat × Bool) := findFirst (fun x => decide (x.1 = i)) items.reverse
  let bs : List Stretch := blocks.map (fun b =>
    { row := 32 * b / t.d0, i0 := 32 * b % t.d0,
      vals := (rangeFrom (32 * b) 32).map (fun i => match at1 i with | some x => x.2.1 | none => fzero),
      poisoned := (rangeFrom (32 * b) 32).map (fun i => match at1 i with | some x => x.2.2.2 | none => false) })
  if bs.isEmpty then s
  else
    let o := narrowUnit t cx mode bs
    let pz := items.any (fun x => x.2.2.2)
    let fl := mxFlags t cx mode (decide (o.reruns = 2)) bs o.parts ||| (if pz then flagPoison else 0) ||| (if o.saturated then flagSaturated else 0)
    let us := bs.map (fun b => (b.row, b.i0, 32))
    let s1 := (s.writeUnit t o false (s.overlaps e t us)).modVec core (fun v => { v with flags := v.flags ||| fl, mxRetries := v.mxRetries + o.reruns })
    s1.modEntry e.cmd.queue e.cmd.seq (fun x => WakeEntry.worse { x.noteStored t us with effects := x.effects ++ o.effects t } pz o.saturated)

/-- Issue a store. -/
def State.vStore (s : State) (core : Nat) (w : W64) (op : Nat) (index : VecSt → TDesc → Nat → Option Nat) : State :=
  match s.vecReady core w op with
  | none => s
  | some e =>
    if s.vecWaits core w then s.sStall core
    else
      let t := e.vslot (vImm w)
      let ty := vType w
      let v := (s.core core).vec
      let x := v.vreg (vVa w)
      let p := v.vpz (vVa w)
      let items := (List.range (vCount ty)).filterMap (fun j =>
        if v.active w (vMaskBit ty j) then
          match index v t j with
          | some i => if i < t.count then some (i, decodeElem (vFmt ty) (vGet ty x j), vGet ty x j, vElPoison ty p j) else none
          | none => none
        else none)
      let s1 := if fmtMx t.fmt then s.storeMx core e t (vRm w) items else s.storePlain core e t ty (vRm w) items
      (s1.modEntry e.cmd.queue e.cmd.seq (fun y => { y with phase := 1 })).retireNext core w

/-- VST (R178 to R180). -/
def execVst (core : Nat) (w : W64) (s : State) : Host.Outcome State Fault Refusal :=
  .next (s.vStore core w 0x31 (fun v t j => some (vIndex v w (fmtMx t.fmt) j)))

/-- VSCATTER (R178, R180). -/
def execVscatter (core : Nat) (w : W64) (s : State) : Host.Outcome State Fault Refusal :=
  .next (s.vStore core w 0x33 (fun v _ j => vOffset v w j))

/-! ### The sluice (R185 to R187) -/

/-- End of stream on a core (R187). (DEDUCED: notes/assumptions/21) -/
def CoreSt.sluiceEnd (x : CoreSt) : Bool := decide (x.slc.tilesLeft = 0) && x.slc.slots.isEmpty

/-- Issue an instruction that needs the head slot: `f` takes it, `e` acts at end of stream; otherwise it waits (R186). -/
def State.withHead (s : State) (core : Nat) (w : W64) (op : Nat) (f : SluiceSlot → State → State) (e : State → State) : State :=
  match s.vecReady core w op with
  | none => s
  | some _ =>
    if s.vecWaits core w then s.sStall core
    else
      match (s.core core).slc.slots.filter (fun h => !h.filling s.nowNs) with
      | h :: _ => (f h s).retireNext core w
      | [] =>
        if (s.core core).sluiceEnd then (e s).retireNext core w
        else s.modVec core (fun v => { v with stallSluice := v.stallSluice + 1, lastV := false })

/-- SLPOP (R186, R187): two rows of the head slot into lanes 0 to 31 and 32 to 63. (DEDUCED: notes/assumptions/19) -/
def execSlpop (core : Nat) (w : W64) (s : State) : Host.Outcome State Fault Refusal :=
  .next (s.withHead core w 0x38
    (fun h st =>
      let k := h.pops
      let row (i : Nat) : List W32 := lget [] h.rows (2 * k + i)
      let mark (i : Nat) : List Bool := lget [] h.marks (2 * k + i)
      let lane (l : Nat) : Nat × Bool := ((lget 0 (row (l / 32)) (l % 32)).toNat, lget false (mark (l / 32)) (l % 32))
      let taken := min 2 (h.rows.length - 2 * k)
      let s1 := st.modVec core (fun v => (v.eachLane w lane).1)
      let s2 := s1.modSlc core (fun x =>
        { x with rowsPopped := x.rowsPopped + taken,
                 slots := if h.rows.length ≤ 2 * (k + 1) then x.slots.drop 1 else lmod x.slots 0 (fun y => { y with pops := y.pops + 1 }) })
      s2.drainMore core)
    (fun st => (st.modVec core (fun v => (v.eachLane w (fun _ => (0, false))).1)).modSlc core (fun x => { x with popEmpty := x.popEmpty + 1 })))

/-- SLINFO (R186, R187): the head slot's header, all ones at end of stream. -/
def execSlinfo (core : Nat) (w : W64) (s : State) : Host.Outcome State Fault Refusal :=
  .next (s.withHead core w 0x39
    (fun h st =>
      let x := h.tile % 2 ^ 32 + 2 ^ 32 * h.index + 2 ^ 40 * h.rows.length + 2 ^ 46 * h.cols + 2 ^ 52 * h.pops
      st.modVec core (fun v => v.setS (vVd w % 16) (BitVec.ofNat 64 x)))
    (fun st => st.modVec core (fun v => v.setS (vVd w % 16) (BitVec.allOnes 64))))

/-! ### The reduction unit (R188, R189) -/

/-- An accumulator. -/
def VecSt.racc (v : VecSt) (k : Nat) : RedAcc := tget .zero v.r k

/-- Set an accumulator. -/
def VecSt.setR (v : VecSt) (k : Nat) (x : RedAcc) : VecSt := { v with r := tset .zero v.r k x }

/-- A binary64 operation of the reduction unit: its result and the flags it adds (R182, R188). (DEDUCED: notes/assumptions/16) -/
def redOp (fl : BitVec 7) (x : XVal) (ops : List FVal) : FVal × BitVec 7 :=
  let o := roundX f64 0 0 false x
  (o.v, fl ||| o.flags (invalidOp x ops) false)

/-- A binary64 sum of terms in order onto `t`; `sq` adds squares of the terms' distances from `c`. -/
def redSum (sq : Bool) (c : FVal) (xs : List FVal) (t : FVal × BitVec 7) : FVal × BitVec 7 :=
  xs.foldl (fun a x =>
    let (y, f1) := if sq then
        (let d := redOp a.2 (xadd false x (fneg c)) [x, c]
         redOp d.2 (xmul d.1 d.1) [d.1])
      else (x, a.2)
    redOp f1 (xadd false a.1 y) [a.1, y]) t

/-- RACC over active values in order (R188), with the flags of its operations (R182); the merge is that of R132. (DEDUCED: notes/assumptions/16) -/
def RedAcc.accumulate (a : RedAcc) (xs : List FVal) (pz : Bool) : RedAcc × BitVec 7 :=
  if xs.isEmpty then (a, 0)
  else
    let (s, f1) := redSum false fzero xs (of64 a.s, 0)
    let (q, f2) := redSum true fzero xs (of64 a.q, f1)
    let mx := xs.foldl fmax (of64 a.mx)
    let cnt := ofInt (xs.length : Nat)
    let (sum, f3) := redSum false fzero xs (fzero, f2)
    let (mb, f4) := redOp f3 (xdiv sum cnt) [sum, cnt]
    let (qb, f5) := redSum true mb xs (fzero, f4)
    let (na, nn) := (ofInt (a.n.toNat : Nat), ofInt (a.n.toNat + xs.length : Nat))
    let (d, f6) := redOp f5 (xadd false mb (fneg (of64 a.mean))) [mb, of64 a.mean]
    let (dn, f7) := redOp f6 (xmul d cnt) [d, cnt]
    let (dq, f8) := redOp f7 (xdiv dn nn) [dn, nn]
    let (mean, f9) := redOp f8 (xadd false (of64 a.mean) dq) [of64 a.mean, dq]
    let (dd, f10) := redOp f9 (xmul d d) [d]
    let (da, f11) := redOp f10 (xmul dd na) [dd, na]
    let (db, f12) := redOp f11 (xmul da cnt) [da, cnt]
    let (dc, f13) := redOp f12 (xdiv db nn) [db, nn]
    let (mm, f14) := redOp f13 (xadd false (of64 a.m2) qb) [of64 a.m2, qb]
    let (m2, f15) := redOp f14 (xadd false mm dc) [mm, dc]
    ({ s := to64 s, q := to64 q, mx := to64 mx, n := a.n + BitVec.ofNat 64 xs.length, mean := to64 mean, m2 := to64 m2, poison := a.poison || pz }, f15)

/-- RACC (R188, R182). -/
def execRacc (core : Nat) (w : W64) (s : State) : Host.Outcome State Fault Refusal :=
  .next (s.sIssue core w 0x40 (fun v =>
    let ty := vType w
    let x := v.vreg (vVa w)
    let p := v.vpz (vVa w)
    let js := (List.range (vCount ty)).filter (fun j => v.active w (vMaskBit ty j))
    let pz := js.any (fun j => vElPoison ty p j)
    let r := (v.racc (vImm w % 8)).accumulate (js.map (fun j => vVal ty x p j)) pz
    { v.setR (vImm w % 8) r.1 with flags := v.flags ||| r.2 }))

/-- The field RGET returns (R189). (DEDUCED: notes/assumptions/17) -/
def RedAcc.field (a : RedAcc) (k : Nat) : W64 :=
  if a.poison then 0x7FF8000000000000
  else match k with
    | 1 => a.q
    | 2 => a.mx
    | 3 => a.n
    | 4 => a.mean
    | 5 => to64 (divIn f64 (of64 a.m2) (ofInt (a.n.toNat : Nat)))
    | _ => a.s

/-- RGET (R189, R183). -/
def execRget (core : Nat) (w : W64) (s : State) : Host.Outcome State Fault Refusal :=
  let a := (s.core core).vec.racc (vImm w % 8)
  match s.vecReady core w 0x41 with
  | none => .next s
  | some e =>
    let s1 := s.modVec core (fun v =>
      { v.setS (vVd w % 16) (a.field (vImm w / 8 % 8)) with flags := v.flags ||| (if a.poison then flagPoison else 0) })
    .next ((s1.modEntry e.cmd.queue e.cmd.seq (fun x => x.worse a.poison false)).retireNext core w)

/-- RCLR (R188). -/
def execRclr (core : Nat) (w : W64) (s : State) : Host.Outcome State Fault Refusal :=
  .next (s.sIssue core w 0x42 (fun v => v.setR (vImm w % 8) .zero))

/-- RNORM (R189, R270): Q into the row of slot IMM[4:3], with the accumulator's N; nothing for a null tensor. -/
def execRnorm (core : Nat) (w : W64) (s : State) : Host.Outcome State Fault Refusal :=
  match s.vecReady core w 0x43 with
  | none => .next s
  | some e =>
    let t := e.vslot (vImm w / 8)
    let a := (s.core core).vec.racc (vImm w % 8)
    let s1 := if t.isNull then s else s.modEntry e.cmd.queue e.cmd.seq (fun x =>
      { x with effects := x.effects ++ [RowEffect.sumSq t.layer 0 (if a.poison then none else exactUnits (of64 a.q)) a.n.toNat] })
    .next (s1.retireNext core w)

end Sys2Proof.Machine
end

