-- ==== Sys2Proof/Machine/Scalar.lean ====
section
/-! DEFINITION. Scalar and branch instructions, the end of a program (R171, R177), and VPROG itself (R168 to R170). -/

namespace Sys2Proof.Machine

open Sys2Proof

/-- A scalar result of sa, sb and the old sd. -/
def State.scalarOp (s : State) (core : Nat) (w : W64) (op : Nat) (f : W64 → W64 → W64 → W64) : State :=
  s.sIssue core w op (fun v =>
    let d := vVd w % 16
    v.setS d (f (v.sreg (vSa w)) (v.sreg (vVb w % 16)) (v.sreg d)))

/-- A branch by IMM relative to itself when `c` of sa holds (R177). -/
def State.branchOn (s : State) (core : Nat) (w : W64) (op : Nat) (c : W64 → Bool) : State :=
  match s.vecReady core w op with
  | none => s
  | some _ =>
    let v := (s.core core).vec
    s.retire core w false (if c (v.sreg (vSa w)) then (v.pc : Int) + vImmS w else (v.pc : Int) + 1)

/-- SLI (R177): sd := IMM, sign-extended. -/
def execSli (core : Nat) (w : W64) (s : State) : Host.Outcome State Fault Refusal :=
  .next (s.scalarOp core w 0x50 (fun _ _ _ => BitVec.ofInt 64 (vImmS w)))

/-- SLIH (R177): sd := (sd << 16) or IMM. -/
def execSlih (core : Nat) (w : W64) (s : State) : Host.Outcome State Fault Refusal :=
  .next (s.scalarOp core w 0x51 (fun _ _ d => (d <<< 16) ||| BitVec.ofNat 64 (vImm w)))

/-- SADD (R177): sd := sa + sb. -/
def execSadd (core : Nat) (w : W64) (s : State) : Host.Outcome State Fault Refusal :=
  .next (s.scalarOp core w 0x52 (fun a b _ => a + b))

/-- SADDI (R177): sd := sa + IMM. -/
def execSaddi (core : Nat) (w : W64) (s : State) : Host.Outcome State Fault Refusal :=
  .next (s.scalarOp core w 0x53 (fun a _ _ => a + BitVec.ofInt 64 (vImmS w)))

/-- SSUB (R177): sd := sa − sb. -/
def execSsub (core : Nat) (w : W64) (s : State) : Host.Outcome State Fault Refusal :=
  .next (s.scalarOp core w 0x54 (fun a b _ => a - b))

/-- SMUL (R177): low 64 bits of sa × sb. -/
def execSmul (core : Nat) (w : W64) (s : State) : Host.Outcome State Fault Refusal :=
  .next (s.scalarOp core w 0x55 (fun a b _ => a * b))

/-- SSHLI (R177): logical left shift of sa by IMM[5:0]. -/
def execSshli (core : Nat) (w : W64) (s : State) : Host.Outcome State Fault Refusal :=
  .next (s.scalarOp core w 0x56 (fun a _ _ => a <<< (vImm w % 64)))

/-- SSHRI (R177): logical right shift of sa by IMM[5:0]. -/
def execSshri (core : Nat) (w : W64) (s : State) : Host.Outcome State Fault Refusal :=
  .next (s.scalarOp core w 0x57 (fun a _ _ => a >>> (vImm w % 64)))

/-- SAND (R177): sd := sa and sb. -/
def execSand (core : Nat) (w : W64) (s : State) : Host.Outcome State Fault Refusal :=
  .next (s.scalarOp core w 0x58 (fun a b _ => a &&& b))

/-- SLT (R177): 1 if sa < sb, signed. -/
def execSlt (core : Nat) (w : W64) (s : State) : Host.Outcome State Fault Refusal :=
  .next (s.scalarOp core w 0x59 (fun a b _ => if a.slt b then 1 else 0))

/-- SEQ (R177): 1 if sa = sb. -/
def execSeqEq (core : Nat) (w : W64) (s : State) : Host.Outcome State Fault Refusal :=
  .next (s.scalarOp core w 0x5A (fun a b _ => if a = b then 1 else 0))

/-- SMOVV (R177): lane IMM[5:0] of a, zero-extended; with F64, element IMM[4:0]. -/
def execSmovv (core : Nat) (w : W64) (s : State) : Host.Outcome State Fault Refusal :=
  .next (s.sIssue core w 0x5B (fun v =>
    let x := v.vreg (vVa w)
    v.setS (vVd w % 16) (BitVec.ofNat 64 (if vType w = 2 then vGet 2 x (vImm w % 32) else vGet 0 x (vImm w % 64)))))

/-- BNZ (R177). -/
def execBnz (core : Nat) (w : W64) (s : State) : Host.Outcome State Fault Refusal := .next (s.branchOn core w 0x60 (fun a => decide (a ≠ 0)))

/-- BZ (R177). -/
def execBz (core : Nat) (w : W64) (s : State) : Host.Outcome State Fault Refusal := .next (s.branchOn core w 0x61 (fun a => decide (a = 0)))

/-- VEND (R171): the program ends on the core. -/
def execVend (core : Nat) (w : W64) (s : State) : Host.Outcome State Fault Refusal :=
  match s.vecReady core w 0x62 with
  | none => .next s
  | some _ => .next (s.retire core w false (((s.core core).vec.prog.length : Nat) : Int))

/-- SFLAGS (R177): sd := VEC_FLAGS. -/
def execSflags (core : Nat) (w : W64) (s : State) : Host.Outcome State Fault Refusal :=
  .next (s.sIssue core w 0x63 (fun v => v.setS (vVd w % 16) (v.flags.setWidth 64)))

/-- VEC_ILLEGAL (R177): an operation that is not listed, or has no such TYPE, acts as VNOP in its slot and is counted. -/
def execVecIllegal (core : Nat) (w : W64) (s : State) : Host.Outcome State Fault Refusal :=
  let v := (s.core core).vec
  if v.running && decide (v.prog[v.pc]? = some w) && !vLegal (vOp w) (vType w) then
    match s.entry v.queue v.seq with
    | none => .next s
    | some e =>
      if e.cmd.insnLimit ≠ 0 ∧ e.cmd.insnLimit ≤ v.retired then .next s
      else .next ((s.modVec core (fun x => { x with illegal := x.illegal + 1 })).retireNext core w)
  else .next s

/-- INSN_LIMIT_HIT (R171): the program on the core has retired its limit and ends. -/
def execInsnLimitHit (core : Nat) (s : State) : Host.Outcome State Fault Refusal :=
  let v := (s.core core).vec
  if v.running then
    match s.entry v.queue v.seq with
    | none => .next s
    | some e =>
      if e.cmd.insnLimit ≠ 0 ∧ e.cmd.insnLimit ≤ v.retired then
        .next ((s.modVec core (fun x => { x with limitHit := x.limitHit + 1 })).endProgram core)
      else .next s
  else .next s

/-- The shares a core runs, its own first, then those of withdrawn cores in ascending order (R401). -/
def State.sharesOf (s : State) (c : Cmd) (core : Nat) : List Nat :=
  let mine := ((s.shares c).filter (fun sh => sh.2 = core)).map (·.1)
  mine.filter (fun i => c.firstCore + i = core) ++ mine.filter (fun i => c.firstCore + i ≠ core)

/-- VPROG (R168 to R171): the program, and its feeder, start on every core of the command; a core whose program has length zero and
nothing to drain is done at once. -/
def execVprog (q seq : Nat) (s : State) : Host.Outcome State Fault Refusal :=
  match s.ready q seq 0x2000 with
  | none => .next s
  | some e =>
    let c := e.cmd
    let cores := (s.shares c).foldl (fun a sh => ninsert sh.2 a) []
    let s1 := s.modEntry q seq (fun x => { x with started := true, code := 0 })
    let s2 := cores.foldl (fun st core =>
      match st.sharesOf c core with
      | [] => st
      | i :: rest =>
        let st1 := (st.modVec core (fun v => { v with sharesLeft := rest })).startShare c core i
        match e.gemmP with
        | some p => (st1.mxBusy core p true).shareStalls (p.onCore st1 core) c.coreCount core i
        | none => st1) s1
    if cores.isEmpty then .next (s2.vprogFinish e)
    else .next (cores.foldl (fun st core => State.vprogCheck q seq core (c.coreCount + 1) st) s2)

end Sys2Proof.Machine
end

