-- ==== Sys2Proof/Machine/Dispatch.lean ====
section
/-! DEFINITION. One arm for each command: a direct call of its meaning. -/

namespace Sys2Proof.Machine

open Sys2Proof

/-- The effect of a command on everything but the queue. -/
def exec (i : Instr) (s : State) : Host.Outcome State Fault Refusal :=
  match i with
  | .rdmaWrite pkey qpn rkey psn va data => Sys2Proof.Machine.execRdmaWrite pkey qpn rkey psn va data s
  | .rdmaRead pkey qpn rkey psn va len => Sys2Proof.Machine.execRdmaRead pkey qpn rkey psn va len s
  | .send pkey qpn psn data => Sys2Proof.Machine.execSend pkey qpn psn data s
  | .unsupportedRequest pkey qpn psn => Sys2Proof.Machine.execUnsupportedRequest pkey qpn psn s
  | .nakReceived qpn psn => Sys2Proof.Machine.execNakReceived qpn psn s
  | .ackTimeout qpn => Sys2Proof.Machine.execAckTimeout qpn s
  | .cePacket qpn => Sys2Proof.Machine.execCePacket qpn s
  | .cnpReceived qpn => Sys2Proof.Machine.execCnpReceived qpn s
  | .rateTimer qpn => Sys2Proof.Machine.execRateTimer qpn s
  | .arpRequest target sender mac => Sys2Proof.Machine.execArpRequest target sender mac s
  | .neighborSolicitation target sender mac => Sys2Proof.Machine.execNeighborSolicitation target sender mac s
  | .pauseFrame pfc => Sys2Proof.Machine.execPauseFrame pfc s
  | .cmReq pkey commId peer mtu rqpn rkey raddr => Sys2Proof.Machine.execCmReq pkey commId peer mtu rqpn rkey raddr s
  | .cmRtu commId => Sys2Proof.Machine.execCmRtu commId s
  | .cmDreq commId => Sys2Proof.Machine.execCmDreq commId s
  | .linkDown => Sys2Proof.Machine.execLinkDown s
  | .linkRetrainTimer => Sys2Proof.Machine.execLinkRetrainTimer s
  | .portAttemptTimeout failedLanes => Sys2Proof.Machine.execPortAttemptTimeout failedLanes s
  | .frameDecode queue => Sys2Proof.Machine.execFrameDecode queue s
  | .commandReach queue => Sys2Proof.Machine.execCommandReach queue s
  | .commandComplete queue seq => Sys2Proof.Machine.execCommandComplete queue seq s
  | .nop queue seq => Sys2Proof.Machine.execNop queue seq s
  | .fence queue seq => Sys2Proof.Machine.execFence queue seq s
  | .weirArm queue seq => Sys2Proof.Machine.execWeirArm queue seq s
  | .weirArrive queue seq => Sys2Proof.Machine.execWeirArrive queue seq s
  | .caps queue seq => Sys2Proof.Machine.execCaps queue seq s
  | .telemetry queue seq => Sys2Proof.Machine.execTelemetry queue seq s
  | .gemm queue seq => Sys2Proof.Machine.execGemm queue seq s
  | .gemmFp32x3 queue seq => Sys2Proof.Machine.execGemmFp32x3 queue seq s
  | .gemmFp64s queue seq => Sys2Proof.Machine.execGemmFp64s queue seq s
  | .gemmHormi queue seq => Sys2Proof.Machine.execGemmHormi queue seq s
  | .gemmRef queue seq => Sys2Proof.Machine.execGemmRef queue seq s
  | .attnBlock queue seq => Sys2Proof.Machine.execAttnBlock queue seq s
  | .vprog queue seq => Sys2Proof.Machine.execVprog queue seq s
  | .dmaChain queue seq => Sys2Proof.Machine.execDmaChain queue seq s
  | .copy queue seq => Sys2Proof.Machine.execCopy queue seq s
  | .route queue seq => Sys2Proof.Machine.execRoute queue seq s
  | .dispatch queue seq => Sys2Proof.Machine.execDispatch queue seq s
  | .combine queue seq => Sys2Proof.Machine.execCombine queue seq s
  | .allreduce queue seq => Sys2Proof.Machine.execAllreduce queue seq s
  | .reduceScatter queue seq => Sys2Proof.Machine.execReduceScatter queue seq s
  | .allgather queue seq => Sys2Proof.Machine.execAllgather queue seq s
  | .broadcast queue seq => Sys2Proof.Machine.execBroadcast queue seq s
  | .update queue seq => Sys2Proof.Machine.execUpdate queue seq s
  | .commitStep queue seq => Sys2Proof.Machine.execCommitStep queue seq s
  | .setState queue seq => Sys2Proof.Machine.execSetState queue seq s
  | .restoreEst queue seq => Sys2Proof.Machine.execRestoreEst queue seq s
  | .derive queue seq misses => Sys2Proof.Machine.execDerive queue seq misses s
  | .exportShard queue seq => Sys2Proof.Machine.execExportShard queue seq s
  | .snapshot queue seq => Sys2Proof.Machine.execSnapshot queue seq s
  | .weirArriveWrite core value => Sys2Proof.Machine.execWeirArriveWrite core value s
  | .weirArmWrite core value => Sys2Proof.Machine.execWeirArmWrite core value s
  | .registerWrite addr value => Sys2Proof.Machine.execRegisterWrite addr value s
  | .unmappedAccess addr write => Sys2Proof.Machine.execUnmappedAccess addr write s
  | .tideMark => Sys2Proof.Machine.execTideMark s
  | .ptpSync domain src logInterval seqId twoStep origin rx => Sys2Proof.Machine.execPtpSync domain src logInterval seqId twoStep origin rx s
  | .ptpFollowUp domain src seqId origin => Sys2Proof.Machine.execPtpFollowUp domain src seqId origin s
  | .ptpAnnounce domain data => Sys2Proof.Machine.execPtpAnnounce domain data s
  | .ptpDelayResp domain src seqId masterRx => Sys2Proof.Machine.execPtpDelayResp domain src seqId masterRx s
  | .syncLossTimeout => Sys2Proof.Machine.execSyncLossTimeout s
  | .announceReceiptTimeout => Sys2Proof.Machine.execAnnounceReceiptTimeout s
  | .tidePpsPulse offset => Sys2Proof.Machine.execTidePpsPulse offset s
  | .ppsAbsentTimeout => Sys2Proof.Machine.execPpsAbsentTimeout s
  | .holdoverTimeout => Sys2Proof.Machine.execHoldoverTimeout s
  | .tideLockTimeout => Sys2Proof.Machine.execTideLockTimeout s
  | .rowLand core slot mismatch => Sys2Proof.Machine.execRowLand core slot mismatch s
  | .groupOpen core slot queue seq tile => Sys2Proof.Machine.execGroupOpen core slot queue seq tile s
  | .drainStart core => Sys2Proof.Machine.execDrainStart core s
  | .vnop core w re => Sys2Proof.Machine.execVnop core w re s
  | .vadd core w re => Sys2Proof.Machine.execVadd core w re s
  | .vsub core w re => Sys2Proof.Machine.execVsub core w re s
  | .vmul core w re => Sys2Proof.Machine.execVmul core w re s
  | .vfma core w re => Sys2Proof.Machine.execVfma core w re s
  | .vfnma core w re => Sys2Proof.Machine.execVfnma core w re s
  | .vmin core w re => Sys2Proof.Machine.execVmin core w re s
  | .vmax core w re => Sys2Proof.Machine.execVmax core w re s
  | .vabs core w re => Sys2Proof.Machine.execVabs core w re s
  | .vneg core w re => Sys2Proof.Machine.execVneg core w re s
  | .vdiv core w re => Sys2Proof.Machine.execVdiv core w re s
  | .vsqrt core w re => Sys2Proof.Machine.execVsqrt core w re s
  | .vrcp core w re => Sys2Proof.Machine.execVrcp core w re s
  | .vrsqrt core w re => Sys2Proof.Machine.execVrsqrt core w re s
  | .vexp2 core w re => Sys2Proof.Machine.execVexp2 core w re s
  | .vlog2 core w re => Sys2Proof.Machine.execVlog2 core w re s
  | .vcvt core w re => Sys2Proof.Machine.execVcvt core w re s
  | .vcmp core w re => Sys2Proof.Machine.execVcmp core w re s
  | .vsel core w re => Sys2Proof.Machine.execVsel core w re s
  | .vand core w re => Sys2Proof.Machine.execVand core w re s
  | .vor core w re => Sys2Proof.Machine.execVor core w re s
  | .vxor core w re => Sys2Proof.Machine.execVxor core w re s
  | .vshl core w re => Sys2Proof.Machine.execVshl core w re s
  | .vshr core w re => Sys2Proof.Machine.execVshr core w re s
  | .vsra core w re => Sys2Proof.Machine.execVsra core w re s
  | .viadd core w re => Sys2Proof.Machine.execViadd core w re s
  | .visub core w re => Sys2Proof.Machine.execVisub core w re s
  | .vimul core w re => Sys2Proof.Machine.execVimul core w re s
  | .vmov core w re => Sys2Proof.Machine.execVmov core w re s
  | .vbcast core w re => Sys2Proof.Machine.execVbcast core w re s
  | .vidx core w re => Sys2Proof.Machine.execVidx core w re s
  | .vperm core w re => Sys2Proof.Machine.execVperm core w re s
  | .vslide core w re => Sys2Proof.Machine.execVslide core w re s
  | .vhsum core w re => Sys2Proof.Machine.execVhsum core w re s
  | .vhmax core w re => Sys2Proof.Machine.execVhmax core w re s
  | .mlogic core w re => Sys2Proof.Machine.execMlogic core w re s
  | .mfirst core w re => Sys2Proof.Machine.execMfirst core w re s
  | .vld core w => Sys2Proof.Machine.execVld core w s
  | .vloadReturn core vd => Sys2Proof.Machine.execVloadReturn core vd s
  | .vst core w => Sys2Proof.Machine.execVst core w s
  | .vgather core w => Sys2Proof.Machine.execVgather core w s
  | .vscatter core w => Sys2Proof.Machine.execVscatter core w s
  | .slpop core w => Sys2Proof.Machine.execSlpop core w s
  | .slinfo core w => Sys2Proof.Machine.execSlinfo core w s
  | .racc core w => Sys2Proof.Machine.execRacc core w s
  | .rget core w => Sys2Proof.Machine.execRget core w s
  | .rclr core w => Sys2Proof.Machine.execRclr core w s
  | .rnorm core w => Sys2Proof.Machine.execRnorm core w s
  | .sli core w => Sys2Proof.Machine.execSli core w s
  | .slih core w => Sys2Proof.Machine.execSlih core w s
  | .sadd core w => Sys2Proof.Machine.execSadd core w s
  | .saddi core w => Sys2Proof.Machine.execSaddi core w s
  | .ssub core w => Sys2Proof.Machine.execSsub core w s
  | .smul core w => Sys2Proof.Machine.execSmul core w s
  | .sshli core w => Sys2Proof.Machine.execSshli core w s
  | .sshri core w => Sys2Proof.Machine.execSshri core w s
  | .sand core w => Sys2Proof.Machine.execSand core w s
  | .slt core w => Sys2Proof.Machine.execSlt core w s
  | .seqEq core w => Sys2Proof.Machine.execSeqEq core w s
  | .smovv core w => Sys2Proof.Machine.execSmovv core w s
  | .bnz core w => Sys2Proof.Machine.execBnz core w s
  | .bz core w => Sys2Proof.Machine.execBz core w s
  | .vend core w => Sys2Proof.Machine.execVend core w s
  | .sflags core w => Sys2Proof.Machine.execSflags core w s
  | .vecIllegal core w => Sys2Proof.Machine.execVecIllegal core w s
  | .insnLimitHit core => Sys2Proof.Machine.execInsnLimitHit core s
  | .llcRead src addr len pin errs => Sys2Proof.Machine.execLlcRead src addr len pin errs s
  | .llcWrite src addr data pin => Sys2Proof.Machine.execLlcWrite src addr data pin s
  | .llcFill line => Sys2Proof.Machine.execLlcFill line s
  | .slabAccess owner requester off len data => Sys2Proof.Machine.execSlabAccess owner requester off len data s
  | .rangePin line count => Sys2Proof.Machine.execRangePin line count s
  | .rangeUnpin line count => Sys2Proof.Machine.execRangeUnpin line count s
  | .rangeDead line count => Sys2Proof.Machine.execRangeDead line count s
  | .rangeClean line count => Sys2Proof.Machine.execRangeClean line count s
  | .rangeOpDone => Sys2Proof.Machine.execRangeOpDone s
  | .scrubPass level inst corrected bad => Sys2Proof.Machine.execScrubPass level inst corrected bad s
  | .errorRingWrite => Sys2Proof.Machine.execErrorRingWrite s
  | .logFlashWrite => Sys2Proof.Machine.execLogFlashWrite s
  | .dmaChStart core ch addr => Sys2Proof.Machine.execDmaChStart core ch addr s
  | .dmaRunStart core => Sys2Proof.Machine.execDmaRunStart core s
  | .dmaCopy core => Sys2Proof.Machine.execDmaCopy core s
  | .dmaFill core => Sys2Proof.Machine.execDmaFill core s
  | .dmaPin core => Sys2Proof.Machine.execDmaPin core s
  | .dmaUnpin core => Sys2Proof.Machine.execDmaUnpin core s
  | .dmaDead core => Sys2Proof.Machine.execDmaDead core s
  | .dmaClean core => Sys2Proof.Machine.execDmaClean core s
  | .dmaNop core => Sys2Proof.Machine.execDmaNop core s
  | .dmaDescComplete core => Sys2Proof.Machine.execDmaDescComplete core s
  | .countdownExpire core ch => Sys2Proof.Machine.execCountdownExpire core ch s
  | .collArrive group collSeq info => Sys2Proof.Machine.execCollArrive group collSeq info s
  | .collStart group collSeq members vote elems table => Sys2Proof.Machine.execCollStart group collSeq members vote elems table s
  | .collData group collSeq chunk gather off data => Sys2Proof.Machine.execCollData group collSeq chunk gather off data s
  | .collResult group collSeq off data => Sys2Proof.Machine.execCollResult group collSeq off data s
  | .fpMsg src rows => Sys2Proof.Machine.execFpMsg src rows s
  | .bisect src row first len fps => Sys2Proof.Machine.execBisect src row first len fps s
  | .stragglerDeadline group collSeq => Sys2Proof.Machine.execStragglerDeadline group collSeq s
  | .peerLostDeadline group collSeq => Sys2Proof.Machine.execPeerLostDeadline group collSeq s
  | .fordHello hdr pairKey side => Sys2Proof.Machine.execFordHello hdr pairKey side s
  | .fordWrite hdr addr data => Sys2Proof.Machine.execFordWrite hdr addr data s
  | .fordWake hdr entry => Sys2Proof.Machine.execFordWake hdr entry s
  | .fordFlags hdr row flags => Sys2Proof.Machine.execFordFlags hdr row flags s
  | .fordVote hdr result => Sys2Proof.Machine.execFordVote hdr result s
  | .fordAck hdr => Sys2Proof.Machine.execFordAck hdr s
  | .fordColl hdr data => Sys2Proof.Machine.execFordColl hdr data s
  | .fordGoodbye hdr => Sys2Proof.Machine.execFordGoodbye hdr s
  | .fordIdle hdr => Sys2Proof.Machine.execFordIdle hdr s
  | .fordReplayTimeout => Sys2Proof.Machine.execFordReplayTimeout s
  | .fordIdleTimer => Sys2Proof.Machine.execFordIdleTimer s
  | .fordSilenceTimeout => Sys2Proof.Machine.execFordSilenceTimeout s
  | .fordRetrainTimer trained => Sys2Proof.Machine.execFordRetrainTimer trained s
  | .meterSample energy coreMilliamps => Sys2Proof.Machine.execMeterSample energy coreMilliamps s
  | .dvfsStepInForce => Sys2Proof.Machine.execDvfsStepInForce s
  | .droopDetect => Sys2Proof.Machine.execDroopDetect s
  | .droopRelease => Sys2Proof.Machine.execDroopRelease s
  | .tempSample junction memory => Sys2Proof.Machine.execTempSample junction memory s
  | .railSample readings => Sys2Proof.Machine.execRailSample readings s
  | .thermalTrip point => Sys2Proof.Machine.execThermalTrip point s
  | .slackEntryDone => Sys2Proof.Machine.execSlackEntryDone s
  | .slackWakeEnd resends late => Sys2Proof.Machine.execSlackWakeEnd resends late s
  | .flowOkDeassert => Sys2Proof.Machine.execFlowOkDeassert s
  | .coolantHoldTimeout => Sys2Proof.Machine.execCoolantHoldTimeout s
  | .coolantResume resends late => Sys2Proof.Machine.execCoolantResume resends late s
  | .ledgerRecordWrite => Sys2Proof.Machine.execLedgerRecordWrite s
  | .txnWatchdogExpire unit inst addr => Sys2Proof.Machine.execTxnWatchdogExpire unit inst addr s
  | .livenessTimeout unit inst => Sys2Proof.Machine.execLivenessTimeout unit inst s
  | .vlaneFail shoal inst group lane => Sys2Proof.Machine.execVlaneFail shoal inst group lane s
  | .oxbowResetDeadline partition => Sys2Proof.Machine.execOxbowResetDeadline partition s
  | .wakeLogReplay queue seq => Sys2Proof.Machine.execWakeLogReplay queue seq s
  | .coreReset core => Sys2Proof.Machine.execCoreReset core s
  | .clusterReset cluster => Sys2Proof.Machine.execClusterReset cluster s
  | .partitionReset partition => Sys2Proof.Machine.execPartitionReset partition s
  | .subsystemReset unit inst => Sys2Proof.Machine.execSubsystemReset unit inst s
  | .warmReset => Sys2Proof.Machine.execWarmReset s
  | .coldReset => Sys2Proof.Machine.execColdReset s
  | .resetComplete level inst => Sys2Proof.Machine.execResetComplete level inst s
  | .headwater flash => Sys2Proof.Machine.execHeadwater flash s
  | .railsAndClocks failedRails inputMv => Sys2Proof.Machine.execRailsAndClocks failedRails inputMv s
  | .baseDie disabled repairs failUnit => Sys2Proof.Machine.execBaseDie disabled repairs failUnit s
  | .verticalLinks groups => Sys2Proof.Machine.execVerticalLinks groups s
  | .computeAndShoal failedCores => Sys2Proof.Machine.execComputeAndShoal failedCores s
  | .memoryStage nearFailed deepFailed => Sys2Proof.Machine.execMemoryStage nearFailed deepFailed s
  | .freshet resends late => Sys2Proof.Machine.execFreshet resends late s
  | .ethernetAndTide deadLanes fordDead => Sys2Proof.Machine.execEthernetAndTide deadLanes fordDead s
  | .licences => Sys2Proof.Machine.execLicences s
  | .freshetBegin core chunks hash => Sys2Proof.Machine.execFreshetBegin core chunks hash s
  | .freshetChunk core index crc data => Sys2Proof.Machine.execFreshetChunk core index crc data s
  | .gaugeWdogExpire => Sys2Proof.Machine.execGaugeWdogExpire s
  | .i3cDaa addr => Sys2Proof.Machine.execI3cDaa addr s
  | .setEndpointId eid => Sys2Proof.Machine.execSetEndpointId eid s
  | .getEndpointId => Sys2Proof.Machine.execGetEndpointId s
  | .getEndpointUuid => Sys2Proof.Machine.execGetEndpointUuid s
  | .getMctpVersionSupport msgType => Sys2Proof.Machine.execGetMctpVersionSupport msgType s
  | .getMessageTypeSupport => Sys2Proof.Machine.execGetMessageTypeSupport s
  | .getTid => Sys2Proof.Machine.execGetTid s
  | .getPldmVersion pldmType => Sys2Proof.Machine.execGetPldmVersion pldmType s
  | .getPldmTypes => Sys2Proof.Machine.execGetPldmTypes s
  | .getPldmCommands pldmType => Sys2Proof.Machine.execGetPldmCommands pldmType s
  | .getSensorReading sensor => Sys2Proof.Machine.execGetSensorReading sensor s
  | .getPdr handle => Sys2Proof.Machine.execGetPdr handle s
  | .getPdrRepositoryInfo => Sys2Proof.Machine.execGetPdrRepositoryInfo s
  | .pollForPlatformEventMessage => Sys2Proof.Machine.execPollForPlatformEventMessage s
  | .getFruRecordTableMetadata => Sys2Proof.Machine.execGetFruRecordTableMetadata s
  | .getFruRecordTable => Sys2Proof.Machine.execGetFruRecordTable s
  | .requestUpdate => Sys2Proof.Machine.execRequestUpdate s
  | .passComponentTable components => Sys2Proof.Machine.execPassComponentTable components s
  | .updateComponent component => Sys2Proof.Machine.execUpdateComponent component s
  | .requestFirmwareData off data => Sys2Proof.Machine.execRequestFirmwareData off data s
  | .transferComplete result => Sys2Proof.Machine.execTransferComplete result s
  | .verifyComplete result => Sys2Proof.Machine.execVerifyComplete result s
  | .applyComplete result => Sys2Proof.Machine.execApplyComplete result s
  | .activateFirmware => Sys2Proof.Machine.execActivateFirmware s
  | .getStatus => Sys2Proof.Machine.execGetStatus s
  | .cancelUpdate => Sys2Proof.Machine.execCancelUpdate s
  | .cancelUpdateComponent => Sys2Proof.Machine.execCancelUpdateComponent s
  | .getAttestation nonce => Sys2Proof.Machine.execGetAttestation nonce s
  | .getChallenge => Sys2Proof.Machine.execGetChallenge s
  | .debugUnlock token => Sys2Proof.Machine.execDebugUnlock token s
  | .sbReset level inst => Sys2Proof.Machine.execSbReset level inst s
  | .sbSlack wake => Sys2Proof.Machine.execSbSlack wake s
  | .readLog logSeq => Sys2Proof.Machine.execReadLog logSeq s
  | .readStage stage => Sys2Proof.Machine.execReadStage stage s
  | .updateFromStaging len sha => Sys2Proof.Machine.execUpdateFromStaging len sha s
  | .updateProgramDone image packageOk => Sys2Proof.Machine.execUpdateProgramDone image packageOk s
  | .challengeExpire => Sys2Proof.Machine.execChallengeExpire s
  | .jtagInstruction op => Sys2Proof.Machine.execJtagInstruction op s
  | .pwrSenseMake => Sys2Proof.Machine.execPwrSenseMake s
  | .pwrSenseBreak => Sys2Proof.Machine.execPwrSenseBreak s
  | .enableAssert => Sys2Proof.Machine.execEnableAssert s
  | .enableDeassert => Sys2Proof.Machine.execEnableDeassert s
  | .inputUndervoltage => Sys2Proof.Machine.execInputUndervoltage s
  | .inputOvervoltage => Sys2Proof.Machine.execInputOvervoltage s
  | .inputOvercurrent => Sys2Proof.Machine.execInputOvercurrent s
  | .inputRecovered => Sys2Proof.Machine.execInputRecovered s
  | .p3v3AuxLoss => Sys2Proof.Machine.execP3v3AuxLoss s
  | .fordLinkDown => Sys2Proof.Machine.execFordLinkDown s
  | .linkUp => Sys2Proof.Machine.execLinkUp s
  | .flowOkAssert => Sys2Proof.Machine.execFlowOkAssert s
  | .rdmaAckReceived qpn psn => Sys2Proof.Machine.execRdmaAckReceived qpn psn s
  | .rdmaReadResponse qpn psn data => Sys2Proof.Machine.execRdmaReadResponse qpn psn data s
  | .gaugeRestartDone => Sys2Proof.Machine.execGaugeRestartDone s

end Sys2Proof.Machine
end

