-- ==== Sys2Proof/Machine/Tick.lean ====
section
/-! DEFINITION. Time: what one nanosecond with no command waiting does. -/

namespace Sys2Proof.Machine

open Sys2Proof

/-- The phase of the tide moves on: the nanoseconds since the most recent mark, through a pause too (R67, R68, R79). (DESIGN CHOICE: notes/assumptions/3) -/
def TideSt.tick (t : TideSt) : TideSt := { t with phaseNs := t.phaseNs + 1 }

/-- One nanosecond of local time: the clock, the throttle times while the device has power (R354, R362), the tide's phase while the ledger runs,
and the end of a fingerprint comparison that is due (R335). (DESIGN CHOICE: notes/assumptions/3) -/
def State.tick (s : State) : State :=
  let s1 := { s with nowNs := s.nowNs + 1 }
  let s2 := if s1.pins.switchOn then { s1 with spw := s1.spw.tick } else s1
  let s3 := if s2.jui.running then { s2 with tide := s2.tide.tick } else s2
  s3.expireCompare

/-- A command takes its place at the front of the queue. -/
def State.enqueueFront (s : State) (c : Instr) : State := { s with pending := c :: s.pending }

end Sys2Proof.Machine
end

