-- ==== Sys2Proof/Safety.lean ====
section
/-! DEFINITION. What counts as a good state and a safe step, and what a command leaves alone, in the terms statements use. -/

namespace Sys2Proof.Machine

open Sys2Proof

/-- The stored data keep their canonical forms: memory, and the poisoned sectors as a strictly rising list. -/
def State.canonical (s : State) : Prop := Memory.wf s.mem = true ∧ s.poison.Pairwise (· < ·)

/-- A weir as R50 keeps it: ARRIVED below TARGET, or both 0; GEN in 16 bits. -/
def Weir.ok (w : Weir) : Prop := (w.arrived < w.target ∨ (w.target = 0 ∧ w.arrived = 0)) ∧ w.gen < 65536

/-- Every weir is as R50 keeps it, and so is what each was when its cycle began (R52). -/
def State.weirsOk (s : State) : Prop := ∀ i, (s.weir i).ok ∧ (tget WeirOps.zero s.weirOps i).was.ok

/-- A step is safe when it answers a next state. -/
def StepSafe (s : State) : Prop := ∃ t, step s = .next t

/-- A command answers a next state in which `P` holds. -/
def Yields (c : Instr) (s : State) (P : State → Prop) : Prop := ∃ t, exec c s = .next t ∧ P t

/-- What the work of a command on tensors leaves alone: everything but memory and the cache, the cores, the controllers' and engines' counters, the
ledger's bookings, error records, the router's record and free values; no command joins or leaves the wake log, and of the queues nothing changes but
that waiting frames which the work overwrites are lost (R306). -/
structure Work (r s : State) : Prop where
  memKeys : s.memKeys = r.memKeys
  slabTurn : s.slabTurn = r.slabTurn
  weirs : s.weirs = r.weirs
  weirOps : s.weirOps = r.weirOps
  queues : ∀ q, ∃ l, l.Sublist (r.queue q).arrived ∧ s.queue q = { r.queue q with arrived := l }
  slots : s.slots = r.slots
  tide : s.tide = r.tide
  coll : s.coll = r.coll
  frd : s.frd = r.frd
  spw : s.spw = r.spw
  boot : s.boot = r.boot
  oxb : s.oxb = r.oxb
  cap : s.cap = r.cap
  pins : s.pins = r.pins
  rst : s.rst = r.rst
  out : s.out = r.out
  est : s.est = { r.est with ctr := s.est.ctr }
  train : s.train = { r.train with engines := s.train.engines }
  wake : ∀ p, (s.seqr p).wake.map (fun e => e.cmd) = (r.seqr p).wake.map (fun e => e.cmd)


/-- What an instruction of the vector engine of `core` leaves alone: everything but that engine and its sluice, the ledger's bookings and error
records. -/
structure VecOnly (s t : State) (core : Nat) : Prop where
  pending : t.pending = s.pending
  freeCtr : t.freeCtr = s.freeCtr
  nowNs : t.nowNs = s.nowNs
  mem : t.mem = s.mem
  poison : t.poison = s.poison
  memKeys : t.memKeys = s.memKeys
  slabTurn : t.slabTurn = s.slabTurn
  weirs : t.weirs = s.weirs
  weirOps : t.weirOps = s.weirOps
  seqs : t.seqs = s.seqs
  queues : t.queues = s.queues
  slots : t.slots = s.slots
  tide : t.tide = s.tide
  llc : t.llc = s.llc
  nt : t.nt = s.nt
  dt : t.dt = s.dt
  cod : t.cod = s.cod
  dlt : t.dlt = s.dlt
  train : t.train = s.train
  est : t.est = s.est
  coll : t.coll = s.coll
  frd : t.frd = s.frd
  spw : t.spw = s.spw
  boot : t.boot = s.boot
  oxb : t.oxb = s.oxb
  cap : t.cap = s.cap
  pins : t.pins = s.pins
  rst : t.rst = s.rst
  out : t.out = s.out
  cores : ∀ k, k ≠ core → t.core k = s.core k
  mx : (t.core core).mx = (s.core core).mx
  bsn : (t.core core).bsn = (s.core core).bsn
  dma : (t.core core).dma = (s.core core).dma
  scratch : (t.core core).scratch = (s.core core).scratch
  holder : (t.core core).holder = (s.core core).holder


/-- An engine `y` after an instruction issued at `v`, with the next one to follow: its registers are those of `x`, its pc one place on. -/
structure Advanced (v x y : VecSt) : Prop where
  pc : y.pc = (v.pc + 1) % 8192
  retired : y.retired = v.retired + 1
  running : y.running = x.running
  prog : y.prog = x.prog
  v : y.v = x.v
  vPoison : y.vPoison = x.vPoison
  s : y.s = x.s
  m : y.m = x.m
  r : y.r = x.r
  flags : y.flags = x.flags
  loads : y.loads = x.loads

/-- What a write of bytes to memory leaves alone beside what `Work` lists: cores, the ledger, the router but for its
count of discarded lines, the codec, the update engines, free values, time. -/
structure Stored (r s : State) : Prop where
  work : Work r s
  pending : s.pending = r.pending
  nowNs : s.nowNs = r.nowNs
  freeCtr : s.freeCtr = r.freeCtr
  cores : s.cores = r.cores
  jui : s.jui = r.jui
  dlt : s.dlt = { r.dlt with pfLinesDiscarded := s.dlt.pfLinesDiscarded }
  cod : s.cod = r.cod
  train : s.train = r.train
  gau : s.gau = r.gau

/-! ### The vector engine's instructions -/

/-- The next instruction of `core`'s program is `w`, its operation `op`; it waits for no load data, and another follows it. -/
def State.issues (s : State) (core : Nat) (w : W64) (op : Nat) : Prop :=
  (∃ e, s.vecReady core w op = some e) ∧ s.vecWaits core w = false ∧ (s.core core).vec.pc + 1 < (s.core core).vec.prog.length

/-- At most two residue checks of the instruction fail, or they are off (R184, R397). -/
def State.residueOk (s : State) (core re : Nat) : Prop := (s.core core).vec.residueEn = false ∨ re ≤ 2

/-- Element `j` of a vector register, read with a TYPE (R173). -/
def State.elem (s : State) (core ty r j : Nat) : Nat := vGet ty ((s.core core).vec.vreg r) j

/-- Element `j` of operand B: of VB, or the scalar register broadcast (R172). -/
def State.elemB (s : State) (core : Nat) (w : W64) (ty j : Nat) : Nat := vGet ty ((s.core core).vec.opB w ty) j

/-- An instruction wrote VD alone, element by element of TYPE `ty`: element `j` became `g j` where its mask bit `b j` is active, else +0 under ZM,
else it stands (R174). Every other register of the engine stands, flags are only added, and the program goes on. -/
structure WroteVd (s t : State) (core : Nat) (w : W64) (ty : Nat) (b g : Nat → Nat) : Prop where
  only : VecOnly s t core
  sluice : (t.core core).slc = (s.core core).slc
  next : Advanced (s.core core).vec
    { (s.core core).vec with v := (t.core core).vec.v, vPoison := (t.core core).vec.vPoison, flags := (t.core core).vec.flags,
                             loads := (s.core core).vec.loads.filter (fun x => x.1 ≠ vVd w) } (t.core core).vec
  sticky : (s.core core).vec.flags ||| (t.core core).vec.flags = (t.core core).vec.flags
  others : ∀ r, r ≠ vVd w → (t.core core).vec.vreg r = (s.core core).vec.vreg r ∧ (t.core core).vec.vpz r = (s.core core).vec.vpz r
  elems : ∀ j, j < vCount ty → t.elem core ty (vVd w) j =
    if (s.core core).vec.active w (b j) = true then g j % 2 ^ vWidth ty else if vZm w = true then 0 else s.elem core ty (vVd w) j

/-- An instruction wrote the mask register VD & 7 alone: bit `j` became `g j` where `j` is active, else 0 under ZM, else it stands (R174). -/
structure WroteMask (s t : State) (core : Nat) (w : W64) (n : Nat) (g : Nat → Bool) : Prop where
  only : VecOnly s t core
  sluice : (t.core core).slc = (s.core core).slc
  next : Advanced (s.core core).vec
    { (s.core core).vec with m := (t.core core).vec.m, flags := (t.core core).vec.flags } (t.core core).vec
  sticky : (s.core core).vec.flags ||| (t.core core).vec.flags = (t.core core).vec.flags
  others : ∀ k, k ≠ vVd w % 8 → (t.core core).vec.mask k = (s.core core).vec.mask k
  bits : ∀ j, j < n → ((t.core core).vec.mask (vVd w % 8)).getLsbD j =
    if (s.core core).vec.active w j = true then g j else if vZm w = true then false else ((s.core core).vec.mask (vVd w % 8)).getLsbD j

/-- An instruction wrote the scalar register sd alone; a write to s0 is lost (R167). -/
structure WroteScalar (s t : State) (core : Nat) (w : W64) (x : W64) : Prop where
  only : VecOnly s t core
  sluice : (t.core core).slc = (s.core core).slc
  next : Advanced (s.core core).vec { (s.core core).vec with s := (t.core core).vec.s } (t.core core).vec
  value : (t.core core).vec.sreg (vVd w % 16) = if vVd w % 16 = 0 then 0 else x
  others : ∀ k, k ≠ vVd w % 16 → (t.core core).vec.sreg k = (s.core core).vec.sreg k

/-- The tables of cores, sequencers and norm-table rows are canonical: numbers strictly rising, no default listed. -/
def State.tablesOk (s : State) : Prop :=
  twf CoreSt.zero s.cores = true ∧ twf SeqSt.zero s.seqs = true ∧ twf NormRow.zero s.train.rows = true

/-! ### Commands on tensors -/

/-- The command (queue, seq) has done its work and changed nothing outside what `Work` allows: its entry stands with the same command and waits for
completion, its code one of `codes` (R46, R309). -/
structure DidWork (s t : State) (q seq : Nat) (e : WakeEntry) (codes : List Nat) : Prop where
  work : Work s t
  entry : ∃ x, t.entry q seq = some x ∧ x.cmd = e.cmd ∧ x.started = true ∧ x.ran = true ∧ x.phase = 1 ∧ x.code ∈ codes

/-- The command (queue, seq) is done with a code and result bytes, and nothing else has changed but what `t` names: every other entry stands. -/
structure Finished (s t : State) (q seq : Nat) (e : WakeEntry) (code : Nat) (result : List Byte) : Prop where
  entry : t.entry q seq = some { e with started := true, ran := true, phase := 1, code := code, result := result }
  others : ∀ q' n', (q', n') ≠ (q, seq) → t.entry q' n' = s.entry q' n'

/-! ### The cache -/

/-- The cache is as its own rules leave it (R222 to R227): the near and deep windows lie below the windows after them; a resident line lies in an
enabled way of its own set, in a cached window, once; its dirty bytes are valid, its clean valid bytes are memory's, a provisional line is clean and a DEAD tag
holds no byte. Until memory is trained nothing is cached. -/
structure State.cacheOk (s : State) : Prop where
  near : s.nearEnd ≤ deepBase
  deep : s.deepEnd ≤ shoalBase
  untrained : s.boot.running = true → s.boot.stage ≤ 5 → s.cap.near = [] ∧ s.cap.deep = []
  slices : twf SliceSt.zero s.llc.slices = true
  place : ∀ p, (s.line p).resident = true → p < 128 * 1536 * 16 ∧ (s.slice (p / 16 / 1536)).ways ≠ 0 ∧ bitOf (s.slice (p / 16 / 1536)).waysOff (p % 16) = false
  window : ∀ p, (s.line p).resident = true → s.cachedAddr (lineAt p (s.line p).tag * 128) = true
  once : ∀ p k, p / 16 = k / 16 → (s.line p).resident = true → (s.line k).resident = true → (s.line p).tag = (s.line k).tag → p = k
  dirty : ∀ p, (s.line p).dirty &&& ~~~ (s.line p).valid = 0
  clean : ∀ p i, i < 128 → (s.line p).valid.getLsbD i = true → (s.line p).dirty.getLsbD i = false →
    ((s.line p).data >>> (8 * i)).setWidth 8 = s.memByte (lineAt p (s.line p).tag * 128 + i)
  prov : ∀ p, (s.line p).prov ≠ none → (s.line p).dirty = 0
  dead : ∀ p, (s.line p).dead = true → (s.line p).valid = 0
  alloc : ∀ p, (s.line p).alloc = true → (s.line p).valid = 0 ∧ (s.line p).dead = false

/-- Every reader finds in `t` the bytes it found in `s`, but where `p` holds. -/
def SameBytes (s t : State) (p : Nat → Prop) : Prop := ∀ a, ¬ p a → t.peek a = s.peek a

/-- Bytes `bs` were written from `a` on, and every reader finds them there and all other bytes as they were. -/
def WroteBytes (s t : State) (a : Nat) (bs : List Byte) : Prop :=
  (∀ i, i < bs.length → t.peek (a + i) = lget 0 bs i) ∧ SameBytes s t (fun x => a ≤ x ∧ x < a + bs.length)

/-! ### What a tensor holds (R44, R91, R98) -/

/-- Is `a` a byte that a write of a tensor's elements may change: of an element, of its block's scale, of its block's bitmap bit. -/
def TDesc.spans (d : TDesc) (a : Nat) : Prop :=
  d.isNull = false ∧ ∃ i r, i < d.raw0 ∧ r < d.rows ∧
    ((d.addr i r ≤ a ∧ a < d.addr i r + d.ebytes) ∨ (fmtMx d.fmt = true ∧ a = d.scaleAddr i r) ∨ (d.zbMap = true ∧ a = d.zbAddr r (i / 32)))

/-- Can every element of a tensor of a plain format be written, with no byte shared with another element or with the bitmap. -/
structure State.writable (s : State) (d : TDesc) : Prop where
  cache : s.cacheOk
  plain : fmtMx d.fmt = false
  apart : d.tight = true
  inside : ∀ i r, i < d.raw0 → r < d.rows → d.inside i r = true ∧ ∀ a, d.addr i r ≤ a → a < d.addr i r + d.ebytes →
    s.window a = some d.winEnd ∧ deviceOnly a = false ∧ ∀ j k, d.zbMap = true → j < d.raw0 → k < d.rows → a ≠ d.zbAddr k (j / 32)

/-- No byte is written for both of two tensors. -/
def TDesc.disjoint (d e : TDesc) : Prop := ∀ a, ¬ (d.spans a ∧ e.spans a)

/-- An element holds a value, rounded once into the tensor's format by the command that wrote it (R139, R141). -/
def TDesc.holds (d : TDesc) (t : State) (e : WakeEntry) (i r : Nat) (v : FVal) : Prop :=
  d.bits t i r = (convert d.fmt d.mode (srWord e.seed d.handle (d.lin i r) e.step) false v).1

/-- The command of a collective opcode. -/
def collCommand (op q seq : Nat) : Instr :=
  if op = 0x5000 then .allreduce q seq else if op = 0x5001 then .reduceScatter q seq else if op = 0x5002 then .allgather q seq else .broadcast q seq

/-! ### The port (R298 to R316) -/

/-- A packet's effect on the port alone: the QP became `y`, `msgs` left, marked as the configuration says (R301), `rx` packets came and `tx` went, `g`
names the other counters that changed; the lengths on the wire are free values. -/
structure Answered (s t : State) (qpn : Nat) (y : Qp) (rx tx : Nat) (msgs : List OutMsg) (g : EstCtr → EstCtr) : Prop where
  rest : t = { s with est := t.est, freeCtr := t.freeCtr, out := s.out ++ msgs.map (OutMsg.roce s.est.cfg.netHdr) }
  est : t.est = { s.est with ctr := t.est.ctr, qps := t.est.qps }
  qp : t.qp qpn = y
  qps : ∀ n, n ≠ qpn → t.qp n = s.qp n
  ctr : t.est.ctr = { g s.est.ctr with rxPkts := s.est.ctr.rxPkts + rx, txPkts := s.est.ctr.txPkts + tx,
                                       rxBytes := t.est.ctr.rxBytes, txBytes := t.est.ctr.txBytes }

/-- A dyadic rate has the value n / 2^k. -/
def Dyad.is (a : Dyad) (n k : Nat) : Prop := a.m * 2 ^ k = n * 2 ^ a.k

end Sys2Proof.Machine
end

