-- ==== Sys2Proof/Certificates/Slice0/Obligations.lean ====
section
/-! DEFINITION. The statements for the provers: what a step runs, what every step keeps, and family by family what each command does. -/

open Sys2Proof Sys2Proof.Machine

/-! ### The machine -/

/-- A step runs the command at the front of the queue on the state with the queue's rest. -/
def Obligations.StepRunsFront : Prop :=
  ∀ (c : Instr) (rest : List Instr) (s : State), step { s with pending := c :: rest } = exec c { s with pending := rest }

/-- With no command waiting a step is one nanosecond (the model's choice, notes/assumptions/3): local time moves on; the tide's phase does while the
ledger runs, the power controller's throttle times do while the device has power; a fingerprint comparison whose time is over ends; nothing else
changes. -/
def Obligations.IdleStepIsANanosecond : Prop :=
  ∀ s : State, s.pending = [] → ∃ t, step s = .next t ∧ t.nowNs = s.nowNs + 1 ∧
    t = { s with nowNs := t.nowNs, tide := t.tide, spw := t.spw, coll := t.coll, est := t.est, gau := t.gau } ∧
    t.tide = (if s.jui.running = true then { s.tide with phaseNs := s.tide.phaseNs + 1 } else s.tide) ∧
    (s.pins.switchOn = false → t.spw = s.spw) ∧
    (s.pins.switchOn = true → t.spw = { s.spw with throttleNs := t.spw.throttleNs, spillNs := t.spw.spillNs } ∧
      (∀ k, tget 0 t.spw.throttleNs k = tget 0 s.spw.throttleNs k + (if k = s.spw.reason then 1 else 0)) ∧
      t.spw.spillNs = s.spw.spillNs + (if s.spw.level < 16 then 1 else 0)) ∧
    t.coll = { s.coll with flipped := s.coll.flipped.filter (fun x => !(x.marked && decide (x.until200 ≤ s.nowNs))) } ∧
    t.est = { s.est with ctr := { s.est.ctr with fpUnresolved := s.est.ctr.fpUnresolved +
      (s.coll.flipped.filter (fun x => x.marked && decide (x.until200 ≤ s.nowNs) && x.ask.isSome)).length } } ∧
    ((∀ x ∈ s.coll.flipped, x.marked = true → x.until200 ≤ s.nowNs → x.ask = none) → t.gau = s.gau)

/-- No command touches the queue of waiting commands or local time, takes back a free value, or unsends a message. Every command answers a next state in every state: nothing the device is told is an error it stops on (R26, R59). -/
def Obligations.EveryCommandCompletes : Prop :=
  (∀ (c : Instr) (s t : State), exec c s = .next t →
    t.pending = s.pending ∧ t.nowNs = s.nowNs ∧ s.freeCtr ≤ t.freeCtr ∧ ∃ l, t.out = s.out ++ l) ∧
  (∀ (c : Instr) (s : State), ∃ t, exec c s = .next t)

/-- Every step keeps stored data canonical: memory lists strictly rising addresses and no byte equal to what an unlisted address reads as, and
the poisoned sectors rise strictly. -/
def Obligations.StepKeepsCanonical : Prop := ∀ s t : State, s.canonical → step s = .next t → t.canonical

/-- Every step keeps every weir as R50 has it: ARRIVED below TARGET, or both 0, and GEN in 16 bits. -/
def Obligations.StepKeepsWeirs : Prop := ∀ s t : State, s.weirsOk → step s = .next t → t.weirsOk

/-- The invariants hold at reset. -/
def Obligations.ResetMeetsInvariants : Prop := State.reset.canonical ∧ State.reset.weirsOk ∧ State.reset.tablesOk

/-- Every step keeps the tables of cores, sequencers and norm-table rows canonical. -/
def Obligations.StepKeepsTables : Prop := ∀ s t : State, s.tablesOk → step s = .next t → t.tablesOk

/-! ### The vector engine: V-slot instructions (R173 to R177, R190) -/

/-- The lane instructions: a lane's result is the bitwise, shift or I32 operation of R177 on that lane of a and b. The moves: VMOV copies lanes, VBCAST sa, VIDX numbers the lanes, VPERM picks lane b & 63, VSLIDE the lane IMM further on or +0, VSEL by the mask
MSEL (R177). -/
def Obligations.LaneOperations : Prop :=
  (∀ (s : State) (core : Nat) (w : W64) (re : Nat), s.residueOk core re →
    let a (l : Nat) : W32 := BitVec.ofNat 32 (s.elem core 0 (vVa w) l)
    let b (l : Nat) : W32 := BitVec.ofNat 32 (vGet 0 ((s.core core).vec.opB w (vType w)) l)
    let wrote (t : State) (g : W32 → W32 → W32) : Prop := WroteVd s t core w 0 (vLaneBit (vType w)) (fun l => (g (a l) (b l)).toNat)
    (s.issues core w 0x13 → Yields (.vand core w re) s (fun t => wrote t (fun x y => x &&& y))) ∧
    (s.issues core w 0x14 → Yields (.vor core w re) s (fun t => wrote t (fun x y => x ||| y))) ∧
    (s.issues core w 0x15 → Yields (.vxor core w re) s (fun t => wrote t (fun x y => x ^^^ y))) ∧
    (s.issues core w 0x16 → Yields (.vshl core w re) s (fun t => wrote t (fun x y => x <<< (y.toNat % 32)))) ∧
    (s.issues core w 0x17 → Yields (.vshr core w re) s (fun t => wrote t (fun x y => x >>> (y.toNat % 32)))) ∧
    (s.issues core w 0x18 → Yields (.vsra core w re) s (fun t => wrote t (fun x y => x.sshiftRight (y.toNat % 32)))) ∧
    (s.issues core w 0x19 → Yields (.viadd core w re) s (fun t => wrote t (fun x y => x + y))) ∧
    (s.issues core w 0x1A → Yields (.visub core w re) s (fun t => wrote t (fun x y => x - y))) ∧
    (s.issues core w 0x1B → Yields (.vimul core w re) s (fun t => wrote t (fun x y => x * y)))) ∧
  (∀ (s : State) (core : Nat) (w : W64) (re : Nat), s.residueOk core re →
    let a (l : Nat) : Nat := s.elem core 0 (vVa w) l
    let b (l : Nat) : Nat := vGet 0 ((s.core core).vec.opB w (vType w)) l
    let wrote (t : State) (g : Nat → Nat) : Prop := WroteVd s t core w 0 (vLaneBit (vType w)) g
    (s.issues core w 0x20 → Yields (.vmov core w re) s (fun t => wrote t a)) ∧
    (s.issues core w 0x21 → Yields (.vbcast core w re) s (fun t => wrote t (fun l =>
      if vType w = 2 then ((s.core core).vec.sreg (vSa w)).toNat / 2 ^ (32 * (l % 2)) else ((s.core core).vec.sreg (vSa w)).toNat))) ∧
    (s.issues core w 0x22 → Yields (.vidx core w re) s (fun t => wrote t (fun l => l))) ∧
    (s.issues core w 0x23 → Yields (.vperm core w re) s (fun t => wrote t (fun l => a (b l % 64)))) ∧
    (s.issues core w 0x24 → Yields (.vslide core w re) s (fun t => wrote t (fun l =>
      if 0 ≤ (l : Int) + vImmS w ∧ (l : Int) + vImmS w < 64 then a ((l : Int) + vImmS w).toNat else 0))) ∧
    (s.issues core w 0x12 → Yields (.vsel core w re) s (fun t => VecOnly s t core ∧ ∀ l, l < 64 →
      t.elem core 0 (vVd w) l = if ((s.core core).vec.mask (vMsel w)).getLsbD (vLaneBit (vType w) l) = true then a l else b l)))

/-- Floating-point arithmetic: each active element is the exact result rounded once, in the instruction's mode, to TYPE (R175, R176). -/
def Obligations.VectorArithmetic : Prop :=
  ∀ (s : State) (core : Nat) (w : W64) (re : Nat) (e : WakeEntry), s.residueOk core re →
    let v := (s.core core).vec
    let ty := vType w
    let a (j : Nat) : FVal := vVal ty (v.vreg (vVa w)) (v.vpz (vVa w)) j
    let b (j : Nat) : FVal := vVal ty (v.opB w ty) (v.opBpz w) j
    let c (j : Nat) : FVal := vVal ty (v.vreg (vVc w)) (v.vpz (vVc w)) j
    let down : Bool := decide (vRm w = 2)
    let issue (op : Nat) : Prop := s.issues core w op ∧ s.vecReady core w op = some e
    let wrote (t : State) (x : Nat → XVal) : Prop := WroteVd s t core w ty (vMaskBit ty)
      (fun j => encodeElem (vFmt ty) (roundX (fmtOf (vFmt ty)) (vRm w) (if vRm w = 4 then srWord e.seed 0 j e.step else 0) false (x j)).v)
    (issue 0x01 → Yields (.vadd core w re) s (fun t => wrote t (fun j => xadd down (a j) (b j)))) ∧
    (issue 0x02 → Yields (.vsub core w re) s (fun t => wrote t (fun j => xadd down (a j) (fneg (b j))))) ∧
    (issue 0x03 → Yields (.vmul core w re) s (fun t => wrote t (fun j => xmul (a j) (b j)))) ∧
    (issue 0x04 → Yields (.vfma core w re) s (fun t => wrote t (fun j => xfma down (a j) (b j) (c j)))) ∧
    (issue 0x05 → Yields (.vfnma core w re) s (fun t => wrote t (fun j => xfma down (fneg (a j)) (b j) (c j)))) ∧
    (issue 0x06 → Yields (.vmin core w re) s (fun t => wrote t (fun j => ofF (fmin (a j) (b j))))) ∧
    (issue 0x07 → Yields (.vmax core w re) s (fun t => wrote t (fun j => ofF (fmax (a j) (b j))))) ∧
    (issue 0x08 → ty ≠ 3 → Yields (.vabs core w re) s (fun t => wrote t (fun j => ofF (fabs (a j))))) ∧
    (issue 0x09 → ty ≠ 3 → Yields (.vneg core w re) s (fun t => wrote t (fun j => ofF (fneg (a j))))) ∧
    (issue 0x0A → Yields (.vdiv core w re) s (fun t => wrote t (fun j => xdiv (a j) (b j)))) ∧
    (issue 0x0B → Yields (.vsqrt core w re) s (fun t => wrote t (fun j => xsqrt (a j)))) ∧
    (issue 0x0C → Yields (.vrcp core w re) s (fun t => wrote t (fun j => xdiv (ofInt 1) (a j)))) ∧
    (issue 0x0D → Yields (.vrsqrt core w re) s (fun t => wrote t (fun j => xrsqrt (a j)))) ∧
    (issue 0x0E → Yields (.vexp2 core w re) s (fun t => wrote t (fun j => xexp2 (a j)))) ∧
    (issue 0x0F → Yields (.vlog2 core w re) s (fun t => wrote t (fun j => xlog2 (a j))))

/-- VCVT by its forms (R173, R177): F32 to I32, I32 to F32, two F32 registers to BF16x2, a half of BF16x2 to F32, a half of F32 to F64; each
element is converted with one rounding. VABS and VNEG of I32 elements work modulo 2^32 (R175). -/
def Obligations.VectorConversion : Prop :=
  (∀ (s : State) (core : Nat) (w : W64) (re : Nat) (e : WakeEntry), s.residueOk core re → s.issues core w 0x10 → s.vecReady core w 0x10 = some e →
    let v := (s.core core).vec
    let form := vImm w % 8
    let a (ty j : Nat) : FVal := vVal ty (v.vreg (vVa w)) (v.vpz (vVa w)) j
    let b (j : Nat) : FVal := vVal 0 (v.opB w 0) (v.opBpz w) j
    let dest (f j : Nat) (sat : Bool) (x : FVal) : Nat :=
      encodeElem f (roundX (fmtOf f) (vRm w) (if vRm w = 4 then srWord e.seed 0 j e.step else 0) sat (ofF x)).v
    let wrote (t : State) (ty : Nat) (g : Nat → Nat) : Prop := WroteVd s t core w ty (vMaskBit ty) g
    Yields (.vcvt core w re) s (fun t =>
      (form = 0 → wrote t 3 (fun j => dest 0x0B j true (a 0 j))) ∧
      (form = 1 → wrote t 0 (fun j => dest 0x02 j false (a 3 j))) ∧
      (form = 2 → wrote t 1 (fun j => dest 0x00 j false (if j % 2 = 0 then a 0 (j / 2) else b (j / 2)))) ∧
      (form = 3 ∨ form = 4 → wrote t 0 (fun j => dest 0x02 j false (a 1 (2 * j + form - 3)))) ∧
      (form = 5 ∨ form = 6 → wrote t 2 (fun j => dest 0x03 j false (a 0 (j + 32 * (form - 5))))) ∧
      (form = 7 → VecOnly s t core ∧ ∀ l, l < 64 → t.elem core 0 (vVd w) l =
        if (if bitOf (vImm w) 3 = true then 32 ≤ l else l < 32) then
          (if v.active w l = true then dest 0x02 l false (a 2 (l % 32)) % 2 ^ 32 else if vZm w = true then 0 else s.elem core 0 (vVd w) l)
        else s.elem core 0 (vVd w) l))) ∧
  (∀ (s : State) (core : Nat) (w : W64) (re : Nat), s.residueOk core re → vType w = 3 →
    let a (j : Nat) : W32 := BitVec.ofNat 32 (s.elem core 3 (vVa w) j)
    (s.issues core w 0x08 → Yields (.vabs core w re) s (fun t => WroteVd s t core w 3 (vMaskBit 3) (fun j => (if (a j).msb = true then - a j else a j).toNat))) ∧
    (s.issues core w 0x09 → Yields (.vneg core w re) s (fun t => WroteVd s t core w 3 (vMaskBit 3) (fun j => (- a j).toNat))))

/-- VCMP, MLOGIC and MFIRST write a mask register (R174, R177). -/
def Obligations.MaskResults : Prop :=
  ∀ (s : State) (core : Nat) (w : W64) (re : Nat), s.residueOk core re →
    let v := (s.core core).vec
    let ty := vType w
    let a := v.mask (vVa w % 8)
    let b := v.mask (vVb w % 8)
    let k := vImm w % 4
    (s.issues core w 0x11 → Yields (.vcmp core w re) s (fun t => WroteMask s t core w (vCount ty) (fun j =>
      vPred (vImm w % 8) (fcmp (vVal ty (v.vreg (vVa w)) (v.vpz (vVa w)) j) (vVal ty (v.opB w ty) (v.opBpz w) j))) ∧
      (ty = 2 → ∀ j, 32 ≤ j → ((t.core core).vec.mask (vVd w % 8)).getLsbD j = false))) ∧
    (s.issues core w 0x2C → Yields (.mlogic core w re) s (fun t => WroteMask s t core w 64 (fun j =>
      if k = 0 then a.getLsbD j && b.getLsbD j else if k = 1 then a.getLsbD j || b.getLsbD j
      else if k = 2 then a.getLsbD j != b.getLsbD j else a.getLsbD j && !b.getLsbD j))) ∧
    (s.issues core w 0x2D → Yields (.mfirst core w re) s (fun t => WroteMask s t core w 64 (fun j => decide (j < (v.sreg (vSa w)).toNat))))

/-- VHSUM and VHMAX: every active element of a segment gets the segment's sum in the tree order of R190, or its maximum; a masked-off element
counts as −0 or −∞. -/
def Obligations.HorizontalOperations : Prop :=
  ∀ (s : State) (core : Nat) (w : W64) (re : Nat) (e : WakeEntry), s.residueOk core re →
    let v := (s.core core).vec
    let ty := vType w
    let n := min (vCount ty) (8 * 2 ^ (vImm w % 4))
    let elems (g : Nat) (off : FVal) : List FVal := (rangeFrom (g * n) n).map (fun j =>
      if v.active w j = true then vVal ty (v.vreg (vVa w)) (v.vpz (vVa w)) j else off)
    (s.issues core w 0x28 → s.vecReady core w 0x28 = some e → Yields (.vhsum core w re) s (fun t => WroteVd s t core w ty id
      (fun j => encodeElem (vFmt ty) (treeSum e (vFmt ty) (vRm w) (j / n * n) 7 1 (elems (j / n) fnegZero)).1))) ∧
    (s.issues core w 0x29 → Yields (.vhmax core w re) s (fun t => WroteVd s t core w ty id
      (fun j => encodeElem (vFmt ty) ((elems (j / n) (.inf true)).foldl fmax (.inf true)))))

/-- VNOP, and an operation that is not listed or has no such TYPE, which acts as VNOP in its slot and is counted (R177): only the program goes on. -/
def Obligations.NothingButAnIssue : Prop :=
  ∀ (s : State) (core : Nat) (w : W64) (re : Nat),
    (s.residueOk core re → s.issues core w 0 → Yields (.vnop core w re) s (fun t => VecOnly s t core ∧ (t.core core).slc = (s.core core).slc ∧
      Advanced (s.core core).vec (s.core core).vec (t.core core).vec)) ∧
    (∀ e, (s.core core).vec.running = true → (s.core core).vec.prog[(s.core core).vec.pc]? = some w → vLegal (vOp w) (vType w) = false →
      (s.core core).vec.pc + 1 < (s.core core).vec.prog.length → s.entry (s.core core).vec.queue (s.core core).vec.seq = some e →
      (e.cmd.insnLimit = 0 ∨ (s.core core).vec.retired < e.cmd.insnLimit) →
      Yields (.vecIllegal core w) s (fun t => VecOnly s t core ∧ (t.core core).slc = (s.core core).slc ∧
        Advanced (s.core core).vec (s.core core).vec (t.core core).vec ∧ (t.core core).vec.illegal = (s.core core).vec.illegal + 1))

/-- An instruction that reads a register whose load data are under way waits: one stalled cycle is counted and nothing else changes (R166). A residue
check that fails three times declares the core failed: the instruction does not retire, the core is recorded and its partition's reset asked for
(R397, R401). -/
def Obligations.WaitsAndResidueFailures : Prop :=
  ∀ (s : State) (core : Nat) (w : W64) (re : Nat) (e : WakeEntry),
    (s.vecReady core w 0x01 = some e → s.vecWaits core w = true →
      Yields (.vadd core w re) s (fun t => VecOnly s t core ∧ (t.core core).slc = (s.core core).slc ∧
        (t.core core).vec = { (s.core core).vec with stallMem := (s.core core).vec.stallMem + 1 })) ∧
    (s.vecReady core w 0x5B = some e → s.vecWaits core w = true →
      Yields (.smovv core w) s (fun t => VecOnly s t core ∧ (t.core core).slc = (s.core core).slc ∧
        (t.core core).vec = { (s.core core).vec with stallMem := (s.core core).vec.stallMem + 1 })) ∧
    (s.vecReady core w 0x01 = some e → s.vecWaits core w = false → (s.core core).vec.residueEn = true → 3 ≤ re →
      Yields (.vadd core w re) s (fun t => (t.core core).vec = { (s.core core).vec with reissue := (s.core core).vec.reissue + 2 } ∧
        s.physical core ∈ t.boot.failedCores ∧ (∃ n, (core / 512, n, true) ∈ t.oxb.pendingReset) ∧ t.mem = s.mem ∧ t.weirs = s.weirs))

/-! ### The vector engine: loads, stores, the sluice, reductions (R178 to R189) -/

/-- VLD and VGATHER: the data of the elements wait to arrive under VD; an index beyond the tensor, or below 0, loads zero; an element of the
register's own format keeps its bits, any other is rounded to it. VLOAD_RETURN puts what waits for a register into it (R178 to R181). -/
def Obligations.VectorLoads : Prop :=
  ∀ (s : State) (core : Nat) (w : W64) (e : WakeEntry),
    let v := (s.core core).vec
    let ty := vType w
    let d := e.vslot (vImm w)
    let elem (i : Option Nat) : Nat := match i with
      | none => 0
      | some k =>
        if d.count ≤ k then 0
        else if d.fmt = vFmt ty then d.bits s (k % d.d0) (k / d.d0)
        else encodeElem (vFmt ty) (roundX (fmtOf (vFmt ty)) (vRm w) (if vRm w = 4 then srWord e.seed d.handle k e.step else 0) (decide (ty = 3))
          (ofF (d.val s (k % d.d0) (k / d.d0)))).v
    let loaded (t : State) (index : Nat → Option Nat) : Prop :=
      VecOnly s t core ∧ (t.core core).slc = (s.core core).slc ∧
      Advanced v { v with flags := (t.core core).vec.flags, loads := (t.core core).vec.loads } (t.core core).vec ∧
      ∃ x p, (t.core core).vec.loads = v.loads.filter (fun y => y.1 ≠ vVd w) ++ [(vVd w, x, p)] ∧ ∀ j, j < vCount ty →
        vGet ty x j = if v.active w (vMaskBit ty j) = true then elem (index j) % 2 ^ vWidth ty else if vZm w = true then 0 else s.elem core ty (vVd w) j
    (s.issues core w 0x30 → s.vecReady core w 0x30 = some e → Yields (.vld core w) s (fun t => loaded t (fun j => some (vIndex v w false j)))) ∧
    (s.issues core w 0x32 → s.vecReady core w 0x32 = some e → Yields (.vgather core w) s (fun t => loaded t (fun j => vOffset v w j))) ∧
    (∀ vd x p rest, v.loads = (vd, x, p) :: rest → Yields (.vloadReturn core vd) s (fun t => VecOnly s t core ∧ (t.core core).slc = (s.core core).slc ∧
      (t.core core).vec.vreg vd = x ∧ (t.core core).vec.vpz vd = p ∧ (∀ y ∈ (t.core core).vec.loads, y.1 ≠ vd) ∧
      (∀ r, r ≠ vd → (t.core core).vec.vreg r = v.vreg r ∧ (t.core core).vec.vpz r = v.vpz r) ∧
      (t.core core).vec = { v with v := (t.core core).vec.v, vPoison := (t.core core).vec.vPoison, loads := (t.core core).vec.loads }))

/-- VST and VSCATTER: lane by lane, active elements go to the tensor, each rounded once to its format; of two lanes with one index the higher wins, and
of two elements that share a byte the one with the higher index; an index below 0 or beyond the tensor stores nothing. Blocks of an MX tensor are
narrowed as one unit, elements no lane names being +0. The program goes on with every register of the engine as it was but flags, which are only
added; the wake log, weirs and everything else that `Work` lists stand; the command has begun to write (R44, R178, R180). -/
def Obligations.VectorStores : Prop :=
  ∀ (s : State) (core : Nat) (w : W64) (e : WakeEntry),
    let v := (s.core core).vec
    let ty := vType w
    let d := e.vslot (vImm w)
    let mode := if d.grad = true then 4 else vRm w
    let val (j : Nat) : FVal := decodeElem (vFmt ty) (s.elem core ty (vVa w) j)
    let enc (j k : Nat) : Nat := if d.fmt = vFmt ty then s.elem core ty (vVa w) j
      else encodeElem d.fmt (roundX (fmtOf d.fmt) mode (if mode = 4 then srWord e.seed d.handle k e.step else 0) (decide (0x0A ≤ d.fmt)) (ofF (val j))).v
    let stored (index : Nat → Option Nat) (t : State) : Prop := Work s t ∧ (∀ k, k ≠ core → t.core k = s.core k) ∧
      Advanced v { v with flags := (t.core core).vec.flags } (t.core core).vec ∧ v.flags ||| (t.core core).vec.flags = (t.core core).vec.flags ∧
      (∃ x, t.entry v.queue v.seq = some x ∧ x.cmd = e.cmd ∧ x.phase = 1) ∧
      let lane (k : Nat) : Option Nat :=
        ((List.range (vCount ty)).filter (fun j => v.active w (vMaskBit ty j) && decide (index j = some k))).getLast?
      let byteOf (k a : Nat) : Prop := d.addr (k % d.d0) (k / d.d0) ≤ a ∧ a < d.addr (k % d.d0) (k / d.d0) + d.ebytes
      (s.cacheOk → fmtMx d.fmt = false → (d.tight = true ∨ e.stored = []) →
        (∀ k, k < d.count → lane k ≠ none → d.inside (k % d.d0) (k / d.d0) = true ∧
          ∀ a, byteOf k a → s.window a = some d.winEnd ∧ deviceOnly a = false) →
        (∀ k j a, k < d.count → lane k = some j → byteOf k a → (∀ m, k < m → m < d.count → lane m ≠ none → ¬ byteOf m a) →
          t.peek a = lget 0 (leBytes d.ebytes (enc j k)) (a - d.addr (k % d.d0) (k / d.d0))) ∧
        ∀ a, (∀ k, k < d.count → lane k ≠ none → ¬ byteOf k a) → t.peek a = s.peek a) ∧
      (fmtMx d.fmt = true → d.tight = true →
        let blocks := (List.range (cdiv d.count 32)).filter (fun b => (rangeFrom (32 * b) 32).any (fun k => decide (k < d.count) && (lane k).isSome))
        let units : List Stretch := blocks.map (fun b =>
          { row := 32 * b / d.d0, i0 := 32 * b % d.d0, vals := (rangeFrom (32 * b) 32).map (fun k => ((lane k).map val).getD fzero),
            poisoned := (rangeFrom (32 * b) 32).map (fun k => ((lane k).map (vElPoison ty (v.vpz (vVa w)))).getD false) })
        ∀ a, t.peek a = (s.writeUnit d (narrowUnit d (e.narrowCtx s d) mode units) false []).peek a)
    (s.issues core w 0x31 → s.vecReady core w 0x31 = some e → Yields (.vst core w) s (stored (fun j => some (vIndex v w (fmtMx d.fmt) j)))) ∧
    (s.issues core w 0x33 → s.vecReady core w 0x33 = some e → Yields (.vscatter core w) s (stored (vOffset v w)))

/-- The sluice: SLPOP takes two rows of the head slot into the lanes and counts them, SLINFO reads its header; at end of stream the lanes are +0
and the header all ones; with no filled slot and tiles still to come the instruction waits (R185 to R187). -/
def Obligations.SluiceInstructions : Prop :=
  ∀ (s : State) (core : Nat) (w : W64),
    let v := (s.core core).vec
    let q := (s.core core).slc
    (∀ h rest, s.issues core w 0x38 → q.slots = h :: rest → h.filledNs < s.nowNs → (s.core core).bsn.drain = [] →
      Yields (.slpop core w) s (fun t => WroteVd { s with cores := (s.modSlc core (fun _ => (t.core core).slc)).cores } t core w 0 (vLaneBit (vType w))
          (fun l => (lget 0 (lget [] h.rows (2 * h.pops + l / 32)) (l % 32)).toNat) ∧
        (t.core core).slc = { q with rowsPopped := q.rowsPopped + min 2 (h.rows.length - 2 * h.pops),
                                     slots := if h.rows.length ≤ 2 * (h.pops + 1) then rest else { h with pops := h.pops + 1 } :: rest })) ∧
    (s.issues core w 0x38 → q.slots = [] → q.tilesLeft = 0 →
      Yields (.slpop core w) s (fun t => (t.core core).slc = { q with popEmpty := q.popEmpty + 1 } ∧ ∀ l, l < 64 → t.elem core 0 (vVd w) l =
        if v.active w (vLaneBit (vType w) l) = true then 0 else if vZm w = true then 0 else s.elem core 0 (vVd w) l)) ∧
    (∀ h rest, s.issues core w 0x39 → q.slots = h :: rest → h.filledNs < s.nowNs → Yields (.slinfo core w) s (fun t => WroteScalar s t core w
      (BitVec.ofNat 64 (h.tile % 2 ^ 32 + 2 ^ 32 * h.index + 2 ^ 40 * h.rows.length + 2 ^ 46 * h.cols + 2 ^ 52 * h.pops)))) ∧
    (s.issues core w 0x39 → q.slots = [] → q.tilesLeft = 0 → Yields (.slinfo core w) s (fun t => WroteScalar s t core w (BitVec.allOnes 64))) ∧
    (s.issues core w 0x38 → (∀ h ∈ q.slots, s.nowNs ≤ h.filledNs) → (q.tilesLeft ≠ 0 ∨ q.slots ≠ []) → Yields (.slpop core w) s (fun t =>
      (t.core core).vec = { v with stallSluice := v.stallSluice + 1 } ∧ VecOnly s t core))

/-- The reduction unit: RCLR clears an accumulator, RACC adds the active values in order and the flags of its sums, RGET reads a field into a scalar register (NaN from a
poisoned accumulator), RNORM gives Q with N to the row of its tensor at the command's completion (R182, R188, R189, R270). -/
def Obligations.ReductionUnit : Prop :=
  ∀ (s : State) (core : Nat) (w : W64) (e : WakeEntry),
    let v := (s.core core).vec
    let ty := vType w
    let k := vImm w % 8
    let a := v.racc k
    let js := (List.range (vCount ty)).filter (fun j => v.active w (vMaskBit ty j))
    let wrote (t : State) (x : RedAcc) (fl : BitVec 7) : Prop := VecOnly s t core ∧ (t.core core).slc = (s.core core).slc ∧
      Advanced v { v with r := (t.core core).vec.r, flags := v.flags ||| fl } (t.core core).vec ∧ (t.core core).vec.racc k = x ∧ ∀ i, i ≠ k → (t.core core).vec.racc i = v.racc i
    (s.issues core w 0x42 → Yields (.rclr core w) s (fun t => wrote t
      { s := 0, q := 0, mx := 0xFFF0000000000000, n := 0, mean := 0, m2 := 0, poison := false } 0)) ∧
    (let x := a.accumulate (js.map (fun j => vVal ty (v.vreg (vVa w)) (v.vpz (vVa w)) j)) (js.any (fun j => vElPoison ty (v.vpz (vVa w)) j))
     s.issues core w 0x40 → Yields (.racc core w) s (fun t => wrote t x.1 x.2)) ∧
    (s.issues core w 0x41 → s.vecReady core w 0x41 = some e → Yields (.rget core w) s (fun t => Work s t ∧ (∀ c, c ≠ core → t.core c = s.core c) ∧
      t.mem = s.mem ∧ Advanced v { v with s := (t.core core).vec.s, flags := v.flags ||| (if a.poison = true then 0x20 else 0) } (t.core core).vec ∧
      (t.core core).vec.sreg (vVd w % 16) = if vVd w % 16 = 0 then 0 else if a.poison = true then 0x7FF8000000000000 else a.field (vImm w / 8 % 8))) ∧
    (s.issues core w 0x43 → s.vecReady core w 0x43 = some e → Yields (.rnorm core w) s (fun t => Work s t ∧ (∀ c, c ≠ core → t.core c = s.core c) ∧
      t.mem = s.mem ∧ Advanced v v (t.core core).vec ∧ ∀ x, s.entry v.queue v.seq = some x → ∃ y, t.entry v.queue v.seq = some y ∧
        y.effects = x.effects ++ (if (e.vslot (vImm w / 8)).isNull = true then [] else
          [RowEffect.sumSq (e.vslot (vImm w / 8)).layer 0 (if a.poison = true then none else exactUnits (of64 a.q)) a.n.toNat])))

/-! ### The vector engine: scalars, branches, the end of a program (R167 to R171, R177) -/

/-- The scalar instructions: what each writes into sd from sa, sb, IMM and the old sd. -/
def Obligations.ScalarOperations : Prop :=
  ∀ (s : State) (core : Nat) (w : W64),
    let v := (s.core core).vec
    let a := v.sreg (vSa w)
    let b := v.sreg (vVb w % 16)
    let d := v.sreg (vVd w % 16)
    let imm := BitVec.ofInt 64 (vImmS w)
    (s.issues core w 0x50 → Yields (.sli core w) s (fun t => WroteScalar s t core w imm)) ∧
    (s.issues core w 0x51 → Yields (.slih core w) s (fun t => WroteScalar s t core w ((d <<< 16) ||| BitVec.ofNat 64 (vImm w)))) ∧
    (s.issues core w 0x52 → Yields (.sadd core w) s (fun t => WroteScalar s t core w (a + b))) ∧
    (s.issues core w 0x53 → Yields (.saddi core w) s (fun t => WroteScalar s t core w (a + imm))) ∧
    (s.issues core w 0x54 → Yields (.ssub core w) s (fun t => WroteScalar s t core w (a - b))) ∧
    (s.issues core w 0x55 → Yields (.smul core w) s (fun t => WroteScalar s t core w (a * b))) ∧
    (s.issues core w 0x56 → Yields (.sshli core w) s (fun t => WroteScalar s t core w (a <<< (vImm w % 64)))) ∧
    (s.issues core w 0x57 → Yields (.sshri core w) s (fun t => WroteScalar s t core w (a >>> (vImm w % 64)))) ∧
    (s.issues core w 0x58 → Yields (.sand core w) s (fun t => WroteScalar s t core w (a &&& b))) ∧
    (s.issues core w 0x59 → Yields (.slt core w) s (fun t => WroteScalar s t core w (if a.toInt < b.toInt then 1 else 0))) ∧
    (s.issues core w 0x5A → Yields (.seqEq core w) s (fun t => WroteScalar s t core w (if a = b then 1 else 0))) ∧
    (s.issues core w 0x5B → Yields (.smovv core w) s (fun t => WroteScalar s t core w (BitVec.ofNat 64
      (if vType w = 2 then s.elem core 2 (vVa w) (vImm w % 32) else s.elem core 0 (vVa w) (vImm w % 64))))) ∧
    (s.issues core w 0x63 → Yields (.sflags core w) s (fun t => WroteScalar s t core w (v.flags.setWidth 64)))

/-- BNZ and BZ go on IMM places from themselves when their condition on sa holds, else one place on; a target outside the program ends it on the
core, as VEND and the instruction limit do (R171, R177). A VPROG starts its share on every command core: the program from its first word, every register as R167 and R169 have it at a start, the share's
number, the number of command cores and the five arguments in s1 to s7. Other cores, and everything `Work` lists, stand. -/
def Obligations.BranchesAndPrograms : Prop :=
  (∀ (s : State) (core : Nat) (w : W64) (e : WakeEntry),
    let v := (s.core core).vec
    let target (c : Bool) : Int := if c = true then (v.pc : Int) + vImmS w else (v.pc : Int) + 1
    let nz : Bool := decide (v.sreg (vSa w) ≠ 0)
    let inside (i : Int) : Prop := 0 ≤ i ∧ i < (v.prog.length : Int)
    let goes (t : State) (i : Int) : Prop := VecOnly s t core ∧ (t.core core).slc = (s.core core).slc ∧
      (t.core core).vec = { v with pc := i.toNat % 8192, retired := v.retired + 1, lastV := false, issueS := v.issueS + 1, paired := (t.core core).vec.paired }
    let ends (t : State) : Prop := (t.core core).vec.running = false ∧ (t.core core).vec.loads = [] ∧ t.weirs = s.weirs ∧ t.queues = s.queues
    (s.vecReady core w 0x60 = some e → inside (target nz) → Yields (.bnz core w) s (fun t => goes t (target nz))) ∧
    (s.vecReady core w 0x61 = some e → inside (target (!nz)) → Yields (.bz core w) s (fun t => goes t (target (!nz)))) ∧
    (v.sharesLeft = [] →
      (s.vecReady core w 0x60 = some e → ¬ inside (target nz) → Yields (.bnz core w) s ends) ∧
      (s.vecReady core w 0x61 = some e → ¬ inside (target (!nz)) → Yields (.bz core w) s ends) ∧
      (s.vecReady core w 0x62 = some e → Yields (.vend core w) s ends) ∧
      (v.running = true → s.entry v.queue v.seq = some e → e.cmd.insnLimit ≠ 0 → e.cmd.insnLimit ≤ v.retired →
        Yields (.insnLimitHit core) s (fun t => ends t ∧ (t.core core).vec.limitHit = v.limitHit + 1)))) ∧
  (∀ (s : State) (q seq : Nat) (e : WakeEntry), s.ready q seq 0x2000 = some e → e.cmd.prog ≠ [] → 0 < e.cmd.coreCount →
    (∀ i, i < e.cmd.coreCount → s.servedCore (e.cmd.firstCore + i) = true) →
    Yields (.vprog q seq) s (fun t => Work s t ∧ t.mem = s.mem ∧
      (∃ x, t.entry q seq = some x ∧ x.cmd = e.cmd ∧ x.started = true ∧ x.ran = e.ran) ∧
      (∀ c, (∀ i, i < e.cmd.coreCount → c ≠ e.cmd.firstCore + i) → t.core c = s.core c) ∧
      ∀ i, i < e.cmd.coreCount →
        let v := (t.core (e.cmd.firstCore + i)).vec
        v.running = true ∧ v.pc = 0 ∧ v.prog = e.cmd.prog ∧ v.queue = q ∧ v.seq = seq ∧ v.retired = 0 ∧ v.flags = 0 ∧ v.loads = [] ∧ v.share = i ∧
        (∀ r, v.vreg r = 0 ∧ v.vpz r = 0) ∧ (∀ k, k < 8 → v.mask k = BitVec.allOnes 64) ∧ (∀ k, v.racc k = .zero) ∧
        v.sreg 1 = BitVec.ofNat 64 i ∧ v.sreg 2 = BitVec.ofNat 64 e.cmd.coreCount ∧ (∀ k, k < 5 → v.sreg (3 + k) = e.cmd.progArg k) ∧
        (∀ k, 8 ≤ k → v.sreg k = 0) ∧ (t.core (e.cmd.firstCore + i)).slc.slots = [] ∧ (t.core (e.cmd.firstCore + i)).slc.tilesLeft = e.cmd.feederTiles i))

/-! ### The sequencers and weirs (R33 to R61) -/

/-- An arrival at a weir (from a completed command, a DMA descriptor or the host's write) counts one: ARRIVED rises by one, or, when that meets TARGET
or TARGET is 0, ARRIVED is 0 and GEN rises by one modulo 65,536. Other weirs stand. Arming sets TARGET, and whole targets already arrived open the
weir (R50; an arm that another operation of its cycle comes before is in CommandsWithoutWork). -/
def Obligations.WeirArrivals : Prop :=
  ∀ (s : State) (q seq : Nat) (e : WakeEntry),
    let first (i : Nat) : Prop := (tget WeirOps.zero s.weirOps i).at' ≠ s.nowNs + 1
    let only (t : State) (i : Nat) : Prop := ∀ k, k ≠ i → t.weir k = s.weir k
    let arrived (t : State) (i : Nat) : Prop :=
      t.weir i = (if (s.weir i).target = 0 then { s.weir i with gen := ((s.weir i).gen + 1) % 65536 }
        else if (s.weir i).arrived + 1 = (s.weir i).target then { target := (s.weir i).target, arrived := 0, gen := ((s.weir i).gen + 1) % 65536 }
        else { s.weir i with arrived := (s.weir i).arrived + 1 }) ∧ only t i
    let armed (t : State) (i n : Nat) : Prop :=
      (first i → t.weir i = (if n = 0 then { target := 0, arrived := 0, gen := ((s.weir i).gen + (s.weir i).arrived) % 65536 }
        else { target := n, arrived := (s.weir i).arrived % n, gen := ((s.weir i).gen + (s.weir i).arrived / n) % 65536 })) ∧ only t i
    let done (t : State) : Prop := Finished s t q seq e 0 [] ∧ t = { s with weirs := t.weirs, weirOps := t.weirOps, seqs := t.seqs }
    let wrote (t : State) : Prop := t = { s with weirs := t.weirs, weirOps := t.weirOps }
    (s.ready q seq 3 = some e → Yields (.weirArrive q seq) s (fun t => arrived t (fieldAt e.cmd.params 0 2) ∧ done t)) ∧
    (s.ready q seq 2 = some e → Yields (.weirArm q seq) s (fun t => armed t (fieldAt e.cmd.params 0 2) (fieldAt e.cmd.params 2 2) ∧ done t)) ∧
    (∀ core (value : W64), s.servedCore core = true → Yields (.weirArriveWrite core value) s (fun t => arrived t (value.toNat % 65536) ∧ wrote t)) ∧
    (∀ core (value : W64), s.servedCore core = true → Yields (.weirArmWrite core value) s (fun t =>
      armed t (value.toNat % 65536) (value.toNat / 65536 % 65536) ∧ wrote t))

/-- NOP, FENCE, CAPS and TELEMETRY complete at once: nothing but the command's entry changes. When CAPS and TELEMETRY complete, the slot that waits gets
the capability record with the mark of this writing at 0x48, and the telemetry snapshot of this moment (R38, R39, R58, R311). A weir armed after another
operation of the same cycle is as if the cycle's arms had come first, a command's by its queue before a register's by its core, then its arrivals (R52;
what a cycle is, is the model's choice, notes/assumptions/69). -/
def Obligations.CommandsWithoutWork : Prop :=
  (∀ (s : State) (q seq : Nat) (e : WakeEntry),
    let done (t : State) : Prop := Finished s t q seq e 0 [] ∧ t = { s with seqs := t.seqs }
    (s.ready q seq 0 = some e → Yields (.nop q seq) s done) ∧ (s.ready q seq 1 = some e → Yields (.fence q seq) s done) ∧
    (s.ready q seq 4 = some e → Yields (.caps q seq) s done) ∧ (s.ready q seq 5 = some e → Yields (.telemetry q seq) s done)) ∧
  (∀ (s : State) (q seq : Nat) (e : WakeEntry), s.tablesOk → s.entry q seq = some e → e.ran = true → e.ended = false → e.cmd.resultEn = true →
    (tget Slot.empty s.slots e.cmd.slot).phase ≠ 0 → (tget Slot.empty s.slots e.cmd.slot).tag = slotTag q seq →
    Yields (.commandComplete q seq) s (fun t =>
      let r := (tget Slot.empty t.slots e.cmd.slot).data
      (e.cmd.opcode = 4 → r.length = 256 ∧ fieldAt r 0x48 8 = s.tide.count % 2 ^ 64 ∧
        ∀ i, i < 256 → ¬ (0x48 ≤ i ∧ i < 0x50) → lget 0 r i = lget 0 s.cap.record i) ∧
      (e.cmd.opcode = 5 → fieldAt r 0 2 = 1 ∧ fieldAt r 2 1 = s.tide.st % 256 ∧ fieldAt r 3 1 = s.spw.reason % 256 ∧
        fieldAt r 4 1 = s.train.headroom % 256 ∧ fieldAt r 5 1 = s.train.kmax % 256 ∧ fieldAt r 8 8 = s.tide.count % 2 ^ 64 ∧
        fieldAt r 0x18 8 = s.est.ctr.oobAccess % 2 ^ 64))) ∧
  (∀ (s : State) (q seq : Nat) (e : WakeEntry),
    let late (t : State) (i n key : Nat) : Prop := let o := tget WeirOps.zero s.weirOps i
      o.at' = s.nowNs + 1 → t.weir i = (List.range o.arrivals).foldl (fun x _ => x.arrive)
        (((o.arms.takeWhile (fun x => decide (x.1 ≤ key))) ++ (key, n) :: o.arms.dropWhile (fun x => decide (x.1 ≤ key))).foldl (fun x y => x.arm y.2) o.was)
    (s.ready q seq 2 = some e → Yields (.weirArm q seq) s (fun t => late t (fieldAt e.cmd.params 0 2) (fieldAt e.cmd.params 2 2) q)) ∧
    (∀ core (value : W64), s.servedCore core = true → Yields (.weirArmWrite core value) s (fun t =>
      late t (value.toNat % 65536) (value.toNat / 65536 % 65536) (256 + core))))

/-- A visible frame with the SEQ its queue expects, in a partition that is served and has room, is decoded: the command joins the queue's decoded
ones, the expected number rises by one, clamps are tallied once. Other queues, every reached command, cores, weirs, slots and the tide stand
(R33, R34, R53, R61). -/
def Obligations.FrameDecoding : Prop :=
  ∀ (s : State) (q : Nat),
    let x := s.queue q
    let a := ringEntry q (x.expected % 1024)
    let d := s.decodeCmd q (s.peekBytes a 128)
    q < 256 → s.partCores (q / 64) ≠ 0 → s.partHeld (q / 64) = false → (x.expected % 1024, x.expected) ∈ x.arrived → s.peekWord (a + 0x78) 8 = x.expected →
    x.decoded.length < (s.seqr (q / 64)).depthEff → s.partDecoded (q / 64) < 1024 →
    Yields (.frameDecode q) s (fun t =>
      (∃ c, (t.queue q).decoded = x.decoded ++ [c] ∧ c = { d.1 with predicted := c.predicted } ∧ c.queue = q ∧ c.seq = x.expected) ∧
      (t.queue q).expected = x.expected + 1 ∧ (t.queue q).tally = x.tally + d.2 ∧ (t.queue q).reached = x.reached ∧
      (t.queue q).statusExpected = x.expected + 1 ∧ (t.queue q).statusMark = s.tide.count ∧
      (∀ k, k ≠ q → t.queue k = s.queue k) ∧ (∀ p, (t.seqr p).wake = (s.seqr p).wake) ∧ t.cores = s.cores ∧ t.weirs = s.weirs ∧ t.slots = s.slots ∧
      t.tide = s.tide ∧ t.train = s.train ∧ t.est = s.est)

/-- A decoded command whose conditions hold and whose queue has its turn is reached: it leaves the queue for the wake log, in program order, with the
next WAKE_SEQ and the versions read now; the cores it names are its own, a COMMIT takes the token, and the next queue has the turn. Memory, slots, weirs
and the tide stand (R37, R55, R56, R275, R278, R402). One whose queue has not its turn waits. A command whose work is done completes: its contributions
enter the norm table unless it is late, a vote it took is recorded, its weir gets one arrival, its result goes to a slot that waits for it (else it is
counted), its entry retires, and the cores it held are free. Memory, queues and the tide stand (R46, R56, R270, R282, R309, R330). -/
def Obligations.CommandReachAndCompletion : Prop :=
  (∀ (s : State) (q : Nat) (c : Cmd) (rest : List Cmd), (s.queue q).decoded = c :: rest → c.queue = q → s.canReach c = true →
    (s.hasTurn q = false → Yields (.commandReach q) s (fun t => t = s)) ∧ (s.hasTurn q = true → Yields (.commandReach q) s (fun t =>
      (t.queue q).decoded = rest ∧ (t.queue q).reached = c.seq + 1 ∧ (∀ k, k ≠ q → t.queue k = s.queue k) ∧
      (∃ e, (t.seqr (q / 64)).wake = (s.seqr (q / 64)).wake ++ [e] ∧ e.cmd = c ∧ e.wakeSeq = (s.seqr (q / 64)).nextWake ∧ e.phase = 0 ∧ e.started = false ∧
        e.ran = false ∧ e.ended = false ∧ e.effects = [] ∧ e.reachMark = s.tide.count ∧ e.step = s.train.step ∧ e.seed = s.train.seed ∧
        (∀ r ∈ c.rows, e.epoch r = (s.row r).epoch ∧ e.est r true = (s.row r).estG ∧ e.est r false = (s.row r).estN) ∧
        (∀ r, c.opcode = 0x6000 → (updParams c).1.pair.row = some r → e.guard = (s.row r).guardRow)) ∧
      (t.seqr (q / 64)).turn = (q + 1) % 64 ∧ (t.seqr (q / 64)).nextWake = (s.seqr (q / 64)).nextWake + 1 ∧ (∀ p, p ≠ q / 64 → (t.seqr p).wake = (s.seqr p).wake) ∧
      (∀ core, (t.core core).holder = if namesCores c.opcode = true ∧ ∃ sh ∈ s.shares c, sh.2 = core then some (q, c.seq) else (s.core core).holder) ∧
      (c.opcode = 0x6001 → t.train.token =
        some { queue := q, seq := c.seq, reachMark := s.tide.count, tideMark := c.tideMark, acted := false }) ∧
      (c.opcode ≠ 0x6001 → t.train = s.train) ∧ t.mem = s.mem ∧ t.poison = s.poison ∧ t.weirs = s.weirs ∧ t.slots = s.slots ∧ t.tide = s.tide))) ∧
  (∀ (s : State) (q seq : Nat) (e : WakeEntry), s.tablesOk → s.entry q seq = some e → e.ran = true → e.ended = false →
    Yields (.commandComplete q seq) s (fun t =>
      (t.seqr (q / 64)).wake = (s.seqr (q / 64)).wake.filter (fun y => !y.isFor q seq) ∧
      (∀ p, p ≠ q / 64 → (t.seqr p).wake = (s.seqr p).wake ∧ (e.cmd.opcode ≠ 0x4000 → t.seqr p = s.seqr p)) ∧
      (e.voted = none → t.train.vote = s.train.vote) ∧ (∀ v, e.voted = some v → t.train.vote = some v.1) ∧
      t.train.rows = (if e.late = true then s else s.applyEffects e.effects).train.rows ∧
      t.weirs = (if e.cmd.signalEn = true then s.arriveWeir e.cmd.signalWeir else s).weirs ∧
      (e.cmd.resultEn = false → t.slots = s.slots) ∧
      (e.cmd.resultEn = true →
        let x := tget Slot.empty s.slots e.cmd.slot
        (x.phase ≠ 0 ∧ x.tag = slotTag q seq → (∃ d, tget Slot.empty t.slots e.cmd.slot =
            { x with phase := 2, code := e.code, queue := q, cmdTag := e.cmd.tag, mark := s.tide.count, data := d } ∧
            (e.cmd.opcode ≠ 4 → e.cmd.opcode ≠ 5 → d = e.result.take 4032)) ∧
          ∀ k, k ≠ e.cmd.slot → tget Slot.empty t.slots k = tget Slot.empty s.slots k) ∧
        (¬ (x.phase ≠ 0 ∧ x.tag = slotTag q seq) → t.slots = s.slots ∧ t.est.ctr.slotSuperseded = s.est.ctr.slotSuperseded + 1)) ∧
      (∀ core, t.core core = if namesCores e.cmd.opcode = true ∧ (s.core core).holder = some (q, seq) then { s.core core with holder := none }
        else s.core core) ∧
      (e.cmd.opcode = 0x6001 → t.train.token = none ∧ t.train.commits = s.train.commits + 1) ∧
      t.mem = s.mem ∧ t.poison = s.poison ∧ (e.cmd.opcode ≠ 0x4000 → t.llc = s.llc) ∧ t.queues = s.queues ∧ t.tide = s.tide))

/-! ### Commands on tensors (R81 to R265) -/

/-- A command on tensors, when its row executes it: its work is done at once, with code SUCCESS, SATURATED or POISONED; what `Work` lists stands.
The cores of a GEMM are no longer busy, and every tile not drained before has drained now (R81, R103, R105, R159, R163, R193, R209, R210, R264); at
spillway level 0 it waits (R354). ROUTE: the router takes it when it serves no other and none reached before it waits, and stays its until completion;
what it leaves in the counters and the history waits until then (R202, R208, R211). A ROUTE met while the router is busy waits. -/
def Obligations.TensorCommands : Prop :=
  (∀ (s : State) (q seq : Nat) (e : WakeEntry),
    let tiles (t : State) : Prop := (∀ sh ∈ s.shares e.cmd, (t.core sh.2).mx.busy = false) ∧
      ∀ x, e.planes = [] → t.entry q seq = some x → ∀ k, k < (gemmParams e.cmd.opcode e.cmd.tensors e.cmd.params true).1.tiles → ∃ v, (k, v) ∈ x.tiles
    let did (c : Instr) (P : State → Prop) : Prop := Yields c s (fun t => DidWork s t q seq e [0, 3, 0x10] ∧ P t)
    let counted (t : State) : Prop := t.cores = s.cores ∧ s.dlt.badEntries ≤ t.dlt.badEntries ∧
      t.dlt = { s.dlt with badEntries := t.dlt.badEntries, pfLinesDiscarded := t.dlt.pfLinesDiscarded }
    (s.matrixReady q seq 0x1000 = some e → did (.gemm q seq) tiles) ∧
    (s.matrixReady q seq 0x1001 = some e → did (.gemmFp32x3 q seq) tiles) ∧
    (s.matrixReady q seq 0x1002 = some e → did (.gemmFp64s q seq) tiles) ∧
    (s.matrixReady q seq 0x1003 = some e → did (.gemmHormi q seq) tiles) ∧
    (s.matrixReady q seq 0x1004 = some e → did (.gemmRef q seq) tiles) ∧
    (s.matrixReady q seq 0x1010 = some e → did (.attnBlock q seq) (fun t => t.train = s.train)) ∧
    (s.spw.level = 0 → Yields (.gemm q seq) s (fun t => t = s) ∧ Yields (.gemmFp32x3 q seq) s (fun t => t = s) ∧ Yields (.gemmFp64s q seq) s (fun t => t = s) ∧
      Yields (.gemmHormi q seq) s (fun t => t = s) ∧ Yields (.gemmRef q seq) s (fun t => t = s) ∧ Yields (.attnBlock q seq) s (fun t => t = s)) ∧
    (s.ready q seq 0x3001 = some e → (∀ sh ∈ s.shares e.cmd, ((s.core sh.2).dma.placeShare q seq).shareStarts q seq = true) →
      did (.copy q seq) (fun t => t.train = s.train)) ∧
    (s.ready q seq 0x4001 = some e → did (.dispatch q seq) counted) ∧
    (s.ready q seq 0x4002 = some e → did (.combine q seq) counted)) ∧
  (∀ (s : State) (q seq : Nat) (e : WakeEntry), s.ready q seq 0x4000 = some e →
    let p := (routeParams s e.cmd.tensors (lget TDesc.null e.cmd.extras 0) e.cmd.params).1
    (s.dlt.busyQueue = none → s.unitInReset 2 0 = false → s.routeWaits e = false → Yields (.route q seq) s (fun t => DidWork s t q seq e [0, 0x10] ∧
      t.cores = s.cores ∧ t.train = s.train ∧
      t.dlt = { s.dlt with busyQueue := some q, routes := s.dlt.routes + 1, ending := t.dlt.ending, pfLinesDiscarded := t.dlt.pfLinesDiscarded } ∧
      ∃ r, t.dlt.ending = some r ∧ r.queue = q ∧ r.seq = seq ∧ (p.bad = true → r = routeEmpty e.cmd) ∧
        (p.bad = false → r.choices = p.k * p.ntok ∧ r.experts = p.e ∧ r.topk = p.k ∧ ∃ h, r.hist = some h ∧ h.layer = p.logits.layer))) ∧
    (∀ k, s.dlt.busyQueue = some k → Yields (.route q seq) s (fun t => t = s)) ∧
    (s.routeWaits e = true → Yields (.route q seq) s (fun t => t = s)))

/-- What the commands on tensors compute, in full from the command's reach. GEMM, GEMM_FP32X3, GEMM_FP64S, GEMM_HORMI and GEMM_REF: tile by tile, each
element of a tile has the value that the epilogue makes of its total, from the bytes every reader found but for C's; C's elements hold these values and
nothing outside C and the statistics changes. ATTN_BLOCK: each query row of TENSOR3 holds its output or its probabilities, STATS its m and l. COPY: each
element of the range holds the source's value; a stream is rewritten whole. ROUTE: the lists hold the slots, the choices with their weights and the counts,
and its completion will give the counters. DISPATCH and COMBINE: each row of Y holds its token's values, or the weighted sum over its choices, and bad
entries are counted (R81, R107, R128, R193, R198 to R201, R203 to R207, R209, R210, R264, R265; the values the spec
leaves to reading are the model's: notes/assumptions/24 to 30, 73, 74, 76, 79, 80). -/
def Obligations.TensorResults : Prop :=
  ∀ (s : State) (q seq : Nat) (e : WakeEntry), s.cacheOk →
    let did (c : Instr) (P : State → Prop) : Prop := Yields c s (fun t => DidWork s t q seq e [0, 3, 0x10] ∧ P t)
    let tn (i : Nat) : TDesc := lget TDesc.null e.cmd.tensors i
    let ex0 := lget TDesc.null e.cmd.extras 0
    let p0 := (gemmParams e.cmd.opcode e.cmd.tensors e.cmd.params true).1
    let stats : Bool := p0.rowmax || p0.rowstat
    let product (c : Instr) (op : Nat) : Prop := s.matrixReady q seq op = some e → e.tiles = [] → e.planes = [] →
      (∀ k, (s.core k).bsn.open' q seq = [] ∧ ∀ d ∈ (s.core k).bsn.drain, ¬ (d.queue = q ∧ d.seq = seq)) → did c (fun t =>
        SameBytes s t (fun a => p0.c.spans a ∨ stats = true ∧ p0.e.spans a) ∧
        ∃ x, t.entry q seq = some x ∧ ∀ k, k < p0.tiles → ∃ r, Work s r ∧ SameBytes s r p0.c.spans ∧
          let p := p0.onCore s (s.runsFor (e.cmd.firstCore + shareOf k p0.tiles e.cmd.coreCount))
          let b := (p.place k).1
          let m (i : Nat) : Nat := (p.place k).2.1 * p.mt + i
          let n (j : Nat) : Nat := 32 * (p.place k).2.2 + j
          let total (i j : Nat) : FVal := if p.op = 0x1002 then p.fp64Total r (p.aRow b (m i)) (p.bRow b (n j))
            else p.total (lget 0 (p.landAll r k i p.passes 0 .clear).1.t j)
          let value (i j : Nat) : FVal := p.v3 r false b (m i) (n j) (total i j)
          (k, packV3 ((List.range (p.tileRows k)).map (fun i => (List.range (p.tileCols k)).map (value i)))) ∈ x.tiles ∧
          (s.writable p.c → (stats = true → p.c.disjoint p.e) → ∀ i j row, i < p.tileRows k → j < p.tileCols k → n j < p.c.raw0 → p.cRow b (m i) = some row →
            p.c.holds t e (n j) row (value i j)))
    product (.gemm q seq) 0x1000 ∧ product (.gemmFp32x3 q seq) 0x1001 ∧ product (.gemmFp64s q seq) 0x1002 ∧ product (.gemmHormi q seq) 0x1003 ∧
    product (.gemmRef q seq) 0x1004 ∧
    (let a := (attnParams s e.cmd.tensors ex0 e.cmd.params).1
     let batches := a.q.d 2 * a.q.d 3
     s.matrixReady q seq 0x1010 = some e → a.live = true → did (.attnBlock q seq) (fun t =>
      SameBytes s t (fun y => a.o.spans y ∨ a.probs = false ∧ a.stats.spans y) ∧
      (∃ r, r = { s with cores := r.cores, freeCtr := r.freeCtr } ∧
        ∀ y, t.peek y = ((List.range (batches * a.nqb)).foldl (fun u k => (a.tile s u e k).1) r).peek y) ∧
      ((a.probs = false → a.o.disjoint a.stats) →
        (s.writable a.o → ∀ b i x row, b < batches → i < a.q.d 1 → a.oRow b i = some row → x < a.o.raw0 →
          (a.probs = true → a.o.holds t e x row (lget fzero (a.probRow s b i) x)) ∧
          (a.probs = false → x < a.v.d 1 → a.o.holds t e x row (lget fzero (a.forward s b i).out x))) ∧
        (s.writable a.stats → a.probs = false → ∀ b i x row, b < batches → i < a.q.d 1 →
          (a.statAt b i 0 = some (row, x) → a.stats.bits t x row = encodeElem 0x02 (a.forward s b i).m) ∧
          (a.statAt b i 1 = some (row, x) → a.stats.bits t x row = encodeElem 0x02 (rne f32 (ofF (a.forward s b i).l))))))) ∧
    (let src := tn 0
     let cut := (copyFields e.cmd.params ex0).1
     s.ready q seq 0x3001 = some e → (∀ sh ∈ s.shares e.cmd, ((s.core sh.2).dma.placeShare q seq).shareStarts q seq = true) →
      src.isNull = false → ex0.isNull = false → did (.copy q seq) (fun t =>
        (∃ r : State, r = { s with cores := r.cores } ∧
          ∀ a, t.peek a = (if ex0.stream = true then r.copyToStream e src ex0 else r.copyPlain e src ex0).1.peek a) ∧
        SameBytes s t (fun a => if ex0.stream = true then ex0.base ≤ a ∧ a < ex0.winEnd else ex0.spans a) ∧
        (ex0.stream = false → src.stream = false → s.writable ex0 → ∀ i, cut.1 ≤ i → i < copyEnd cut.1 cut.2 (min src.count ex0.count) →
          ex0.holds t e (i % ex0.d0) (i / ex0.d0) (src.linVal s i).1))) ∧
    (let p := (routeParams s e.cmd.tensors ex0 e.cmd.params).1
     let f := p.fill s
     let bad := ((List.range p.ntok).filter (fun k => (p.weights s f k).any (fun v => !isFin v))).length
     s.ready q seq 0x4000 = some e → s.dlt.busyQueue = none → s.unitInReset 2 0 = false → s.routeWaits e = false → p.bad = false →
      did (.route q seq) (fun t => SameBytes s t (fun a => p.disp.spans a ∨ p.comb.spans a ∨ p.cnt.spans a) ∧
        t.dlt.ending = some (routeEnd e.cmd p f (p.demand s) bad) ∧
        (p.disp.disjoint p.comb → p.disp.disjoint p.cnt → p.comb.disjoint p.cnt →
          (s.writable p.disp → ∀ x k, x < p.e → x < p.disp.d 1 → k < p.c + p.spill → k < p.disp.raw0 → p.disp.bits t k x = f.dispWord x k % 2 ^ 32) ∧
          (s.writable p.comb → ∀ x k, x < p.ntok → x < p.comb.d 1 → k < 2 * p.k → k < p.comb.raw0 →
            p.comb.bits t k x = lget 0 (p.combRow f x (p.weights s f x)) k % 2 ^ 32) ∧
          (s.writable p.cnt → ∀ x k, x < 3 → x < p.cnt.d 1 → k < p.e → k < p.cnt.raw0 →
            p.cnt.bits t k x = lget 0 (lget [] [f.acc, p.demand s, f.sp] x) k % 2 ^ 32)))) ∧
    (let list := (listTensor (tn 1)).1
     let comb := (listTensor (tn 3)).1
     let y := tn 2
     let weighted : Bool := decide (fieldAt e.cmd.params 0 1 ≠ 0)
     let slots := if fieldAt e.cmd.params 2 2 = 0 then list.raw0 else fieldAt e.cmd.params 2 2
     let row (x k : Nat) : List (FVal × Bool) × Bool := dispatchRow s (tn 0) list comb y weighted x k
     s.ready q seq 0x4001 = some e → y.isNull = false → list.isNull = false → (weighted = true → comb.isNull = false) →
      did (.dispatch q seq) (fun t => SameBytes s t y.spans ∧
        t.dlt.badEntries = s.dlt.badEntries + ((List.range (y.d 2 * slots)).filter (fun r => (row (r / slots) (r % slots)).2)).length ∧
        (s.writable y → ∀ x k n, x < y.d 2 → k < slots → k < y.d 1 → n < y.raw0 → y.holds t e n (y.rowNo k x 0) (lget (fzero, false) (row x k).1 n).1))) ∧
    (let list := (listTensor (tn 1)).1
     let y := tn 2
     let choices (k : Nat) : List (FVal × Bool × Nat) × Nat := combineChoices s (tn 0) list (decide (fieldAt e.cmd.params 1 1 ≠ 0)) k
     s.ready q seq 0x4002 = some e → y.isNull = false → list.isNull = false → did (.combine q seq) (fun t => SameBytes s t y.spans ∧
        t.dlt.badEntries = s.dlt.badEntries + ((List.range (y.d 1)).map (fun k => (choices k).2)).sum ∧
        (s.writable y → ∀ k n, k < y.d 1 → n < y.raw0 →
          y.holds t e n k (combineElem s (tn 0) y (decide (fieldAt e.cmd.params 0 1 ≠ 0)) (choices k).1 k n).1)))

/-! ### Training (R268 to R292) -/

/-- The update engine's commands: each takes its partition's engine, is done with one of its codes, and gives the norm table nothing before its
completion. An UPDATE that is held (code 0x02) writes no tensor, and says why; of a mirroring module its writes go to the partner (R275, R276, R288 to
R292, R343). -/
def Obligations.UpdateEngineCommands : Prop :=
  ∀ (s : State) (q seq : Nat) (e : WakeEntry), s.engineFree e = true →
    let took (t : State) : Prop := (t.upd (q / 64)).running = some (q, seq) ∧ (∀ k, k ≠ q / 64 → t.upd k = s.upd k) ∧ t.train.rows = s.train.rows ∧
      t.cores = s.cores ∧ t.dlt = { s.dlt with pfLinesDiscarded := t.dlt.pfLinesDiscarded }
    (s.ready q seq 0x6000 = some e → Yields (.update q seq) s (fun t => DidWork { s with frd := t.frd, out := t.out } t q seq e [0, 2, 0x10] ∧ took t ∧
      (s.mirroring = false → t.frd = s.frd ∧ t.out = s.out) ∧
      ∃ x, t.entry q seq = some x ∧ (x.code = 2 → t.mem = s.mem ∧ t.llc = s.llc) ∧
        ∀ row, (updParams e.cmd).1.pair.row = some row →
          (x.code = 0 → RowEffect.updated row ∈ x.effects) ∧ (x.code ≠ 0 → ∃ r, RowEffect.held row r ∈ x.effects))) ∧
    (∀ misses, s.ready q seq 0x6002 = some e → Yields (.derive q seq misses) s (fun t => DidWork s t q seq e [0, 3, 0x10, 0x11] ∧ took t)) ∧
    (s.ready q seq 0x6003 = some e → Yields (.exportShard q seq) s (fun t => DidWork s t q seq e [0, 0x10] ∧ took t)) ∧
    (s.ready q seq 0x6004 = some e → Yields (.snapshot q seq) s (fun t => DidWork s t q seq e [0, 0x10] ∧ took t))

/-- COMMIT_STEP at its mark: it passes when no row is NONFINITE, no mirroring is under way and, unless it is local, the last vote passed. If it
passes the step rises by one and every row updated and not held flips its epoch; every row's step sums and flags clear either way (R280, R281). -/
def Obligations.CommitStepAtItsMark : Prop :=
  ∀ (s : State) (q seq : Nat) (e : WakeEntry), s.tablesOk → s.commitNow q seq 0 = some e →
    let late (r : Nat) : Prop := ∃ x ∈ s.allEntries, x.updateRow = some r
    let verdict : Prop := (∀ r ∈ s.train.rows, r.2.nonfinite = false) ∧ ¬ (s.frd.partnerPresent = true ∧ s.frd.mirrorBusy = true)
    let pass : Prop := verdict ∧ (e.cmd.commitLocal = true ∨ s.train.vote = some true)
    Yields (.commitStep q seq) s (fun t =>
      (pass → t.train.step = s.train.step + 1) ∧ (¬ pass → t.train.step = s.train.step) ∧ t.train.seed = s.train.seed ∧
      t.train.lastMark = s.tide.count ∧ (t.train.lastOutcome = 0 ↔ pass) ∧ t.train.vote = none ∧
      (∀ r, (t.row r).tapSq = 0 ∧ (t.row r).tapN = 0 ∧ (t.row r).passSq = 0 ∧ (t.row r).passN = 0 ∧ (t.row r).nonfinite = false ∧
        (t.row r).updated = false ∧ (t.row r).held = false ∧ (t.row r).holdReason = 0) ∧
      (∀ r, pass → (s.row r).updated = true → (s.row r).held = false → ¬ late r →
        (t.row r).epoch = !(s.row r).epoch ∧ (t.row r).stepFlipped = s.train.step + 1) ∧
      (∀ r, (¬ pass ∨ (s.row r).updated = false ∨ (s.row r).held = true ∨ late r) →
        (t.row r).epoch = (s.row r).epoch ∧ (t.row r).stepFlipped = (s.row r).stepFlipped) ∧
      (∀ r, pass → (t.row r).wsq = 0 ∧ (t.row r).wn = 0 ∧ (t.row r).peakG = none ∧ (t.row r).peakN = none ∧
        (t.row r).estGC = (t.row r).estG ∧ (t.row r).estNC = (t.row r).estN) ∧
      (∀ r, ¬ pass → (t.row r).wsq = (s.row r).wsq ∧ (t.row r).estG = (s.row r).estG ∧ (t.row r).estN = (s.row r).estN) ∧
      (s.oxb.pendingReset = [] → s.coll.openColls = [] → ∃ x, t.entry q seq = some x ∧ x.ran = true ∧ (x.code = 0 ↔ pass) ∧ (x.code = 0 ∨ x.code = 1) ∧ x.result.length = 2048))

/-- SET_STATE gives the step, the seed and every row's epoch, and clears the rows; RESTORE_EST gives every row its committed estimates and clears
the peaks (R284). Both leave code SUCCESS and a report. -/
def Obligations.SetStateAndRestore : Prop :=
  ∀ (s : State) (q seq : Nat) (e : WakeEntry), s.tablesOk →
    let done (t : State) : Prop := t.train.lastMark = s.tide.count ∧ t.train.lastOutcome = 2 ∧
      (s.oxb.pendingReset = [] → s.coll.openColls = [] → ∃ x, t.entry q seq = some x ∧ x.ran = true ∧ x.code = 0 ∧ x.result.length = 2048)
    (s.commitNow q seq 1 = some e → Yields (.setState q seq) s (fun t => done t ∧ t.train.step = BitVec.ofNat 64 (fieldAt e.cmd.params 0x10 8) ∧
      t.train.seed = BitVec.ofNat 64 (fieldAt e.cmd.params 8 8) ∧
      ∀ r, r < 4096 → t.row r = { NormRow.zero with epoch := decide (fieldAt e.cmd.params 2 1 = 1) })) ∧
    (s.commitNow q seq 2 = some e → Yields (.restoreEst q seq) s (fun t => done t ∧ t.train.step = s.train.step ∧ t.train.seed = s.train.seed ∧
      ∀ r, t.row r = { s.row r with estG := (s.row r).estGC, estN := (s.row r).estNC, peakG := none, peakN := none }))

/-! ### The basin (R93, R112 to R128) -/

/-- Accumulation groups where no row is skipped. GROUP_OPEN opens the next basin tile in its slot on the slot's lower FREE bank, with its rows cleared,
or counts a stall when both banks are in use; ROW_LAND lands the next row of the group whose turn it is and moves on to the next row or pass, hands the
complete tile to the drain, or opens the group afresh after a failed check; at spillway level 0 no row lands; DRAIN_START frees the oldest bank and
gives the tile's values to its command (R93,
R94, R121, R124, R125, R354, R396; the slot that waits and the tiles of GEMM_FP64S are the model's: notes/assumptions/23, 77, 81). -/
def Obligations.BasinSteps : Prop :=
  ∀ (s : State) (core slot q seq tile : Nat) (e : WakeEntry) (p0 : GemmP), s.entry q seq = some e → e.gemmP = some p0 →
    let p := p0.onCore s core
    let x := (s.core core).bsn
    let only (t : State) : Prop := Work s t ∧ t.mem = s.mem ∧ t.llc = s.llc ∧ ∀ c, c ≠ core → t.core c = s.core c
    let fresh (b u n : Nat) : OpenGroup := { bank := b, queue := q, seq := seq, tile := u, pass := 0, row := 0,
                                             rows := List.replicate (p.unitRows u) .clear, replays := n, mismatch := false }
    (p.zb = false → 0 < p.unitPasses tile → e.basinOpen = true → s.tileNext e p core tile = true → slot = p.slotOf tile e.cmd.coreCount →
      (∀ b, slot < x.groups.length → lget none x.groups slot = none →
        (b = 2 * slot ∧ lget 0 x.banks b = 0 ∨ b = 2 * slot + 1 ∧ lget 0 x.banks (2 * slot) ≠ 0 ∧ lget 0 x.banks b = 0) →
        Yields (.groupOpen core slot q seq tile) s (fun t => only t ∧ (t.core core).bsn.banks = lset x.banks b 1 ∧ (t.core core).bsn.drain = x.drain ∧
          (t.core core).mx.busy = true ∧ lget none (t.core core).bsn.groups slot = some (fresh b tile 0))) ∧
      (lget 0 x.banks (2 * slot) ≠ 0 → lget 0 x.banks (2 * slot + 1) ≠ 0 → Yields (.groupOpen core slot q seq tile) s (fun t => only t ∧
        t.core core = { s.core core with bsn := { x with stallBank := x.stallBank + 1 } }))) ∧
    (∀ g : OpenGroup, lget none x.groups slot = some g → g.queue = q → g.seq = seq →
      (s.spw.level = 0 → ∀ b, Yields (.rowLand core slot b) s (fun t => t = s)) ∧
      (e.ended = false → p.zb = false → s.spw.level ≠ 0 → s.mayLand p e core g = true → g.row < p.unitRows g.tile →
        let rows := lset g.rows g.row (p.landUnit s g.tile g.row g.pass (lget RowAcc.clear g.rows g.row)).1
        let last : Prop := g.row + 1 = p.unitRows g.tile
        let others : Prop := ∀ k z, k ≠ slot → lget none x.groups k = some z → z.queue = q → z.seq = seq → g.tile < z.tile ∧ z.pass < p.unitPasses z.tile
        (¬ (last ∧ g.pass + 1 = p.unitPasses g.tile) → Yields (.rowLand core slot false) s (fun t => only t ∧ (t.core core).bsn.banks = x.banks ∧
          (t.core core).bsn.drain = x.drain ∧ lget none (t.core core).bsn.groups slot =
            some { g with rows := rows, row := if last then 0 else g.row + 1, pass := if last then g.pass + 1 else g.pass })) ∧
        (slot < 4 → last → g.pass + 1 = p.unitPasses g.tile → others →
          (g.mismatch = false → Yields (.rowLand core slot false) s (fun t => only t ∧ lget none (t.core core).bsn.groups slot = none ∧
            (t.core core).bsn.banks = lset x.banks g.bank 2 ∧ (t.core core).bsn.drain = x.drain ++
              [{ bank := g.bank, queue := q, seq := seq, tile := g.tile, rows := rows, poisoned := decide (g.replays = 3), started := false, pushed := 0 }])) ∧
          (g.mismatch = true → g.replays < 2 → 0 < p.unitPasses g.tile → ∀ b, Yields (.rowLand core slot b) s (fun t => only t ∧
            (t.core core).bsn.banks = x.banks ∧ (t.core core).bsn.drain = x.drain ∧ (t.core core).mx.checkMismatch = (s.core core).mx.checkMismatch + 1 ∧
            lget none (t.core core).bsn.groups slot = some (fresh g.bank g.tile (g.replays + 1))))))) ∧
    (∀ d rest, x.drain = d :: rest → d.started = false → d.queue = q → d.seq = seq → e.cmd.opcode ≠ 0x2000 →
      Yields (.drainStart core) s (fun t => Work s t ∧ (∀ c, c ≠ core → t.core c = s.core c) ∧ (t.core core).bsn.banks = lset x.banks d.bank 0 ∧
        (t.core core).bsn.drain = rest ∧ (t.core core).bsn.drainRows = x.drainRows + d.rows.length ∧
        ∃ y, t.entry q seq = some y ∧ y.cmd = e.cmd ∧ y.phase = 1 ∧
          (e.cmd.opcode ≠ 0x1002 → y.tiles = e.tiles ++ [(d.tile, packV3 (p.tileV3 s false d.tile d.rows))]) ∧
          (e.cmd.opcode = 0x1002 → y.planes = e.planes ++ [(d.tile, d.poisoned, d.rows.map (·.t))])))

/-! ### The DMA engines (R244 to R256) -/

/-- A chain head joins the FIFO of a busy channel; on an idle channel it becomes active and its descriptor is read; its misalignment and the
descriptor's clamps are tallied (R244, R249, R256). A run takes the engine, and a countdown that elapses fires its channel (R249, R250). The completion of a descriptor that ends its chain on a channel with no other: DONE counts one modulo 65,536, the descriptor is counted done or
BAD, the engine is free, the channel idle, and a descriptor with SIGNAL gives its weir one arrival (R252, R253). -/
def Obligations.DmaChannels : Prop :=
  (∀ (s : State) (core ch : Nat) (addr : BitVec 64),
    let x := s.dmaCh core ch
    let a := dmaNorm addr.toNat / 64 * 64
    let head : ChainHead := { addr := a, owner := none, detached := false, req := s.coreReq core, since := s.nowNs }
    let odd := if dmaNorm addr.toNat % 64 = 0 then 0 else 1
    let d := s.dmaDesc core a false
    let only (t : State) : Prop := t = { s with cores := t.cores } ∧ (∀ c, c ≠ core → t.core c = s.core c) ∧
      t.core core = { s.core core with dma := (t.core core).dma } ∧ ∀ k, k ≠ ch → t.dmaCh core k = s.dmaCh core k
    (ch < 8 → s.servedCore core = true → s.coreInReset core = false →
      (x.active ≠ none → x.fifo.length < 4 → Yields (.dmaChStart core ch addr) s (fun t => only t ∧ t.dmaCh core ch = { x with fifo := x.fifo ++ [head] } ∧
        (t.core core).dma.clamps = (s.core core).dma.clamps + odd)) ∧
      (x.active = none → x.fifo = [] → s.dmaRoom a ≠ 0 → s.dmaAnyPoison core a 64 = false →
        Yields (.dmaChStart core ch addr) s (fun t => only t ∧
          t.dmaCh core ch = { x with active := some head, desc := some d,
                                     fired := if s.triggerNow core d = true then some (s.core core).dma.fires else none } ∧
          (t.core core).dma.clamps = (s.core core).dma.clamps + odd + d.clamps ∧ (t.core core).dma.fires = (s.core core).dma.fires + 1))) ∧
    ((s.core core).dma.run = none → (s.core core).dma.choose = some ch → Yields (.dmaRunStart core) s (fun t => only t ∧
      (t.core core).dma = { (s.core core).dma with run := some ch, moved := none })) ∧
    (∀ y, x.desc = some y → x.fired = none → y.trigger = 2 → Yields (.countdownExpire core ch) s (fun t => only t ∧
      t.dmaCh core ch = { x with fired := some (s.core core).dma.fires } ∧ (t.core core).dma.fires = (s.core core).dma.fires + 1))) ∧
  (∀ (s : State) (core ch bytes cause target : Nat) (d : DmaDesc) (h : ChainHead),
    let x := (s.core core).dma
    x.run = some ch → x.moved = some (bytes, cause, target) → (s.dmaCh core ch).desc = some d → (s.dmaCh core ch).active = some h →
    (s.dmaCh core ch).fifo = [] → d.next = 0 → target ≤ s.llc.rangeDone →
    Yields (.dmaDescComplete core) s (fun t =>
      t.dmaCh core ch = { s.dmaCh core ch with active := none, desc := none, fired := none, doneCount := ((s.dmaCh core ch).doneCount + 1) % 65536 } ∧
      (t.core core).dma.run = none ∧ (t.core core).dma.moved = none ∧ (t.core core).dma.bytes = x.bytes ∧
      (t.core core).dma.descDone = x.descDone + (if cause = 0 then 1 else 0) ∧ (t.core core).dma.descBad = x.descBad + (if cause = 0 then 0 else 1) ∧
      (∀ c, c ≠ core → t.core c = s.core c) ∧ (t.core core).vec = (s.core core).vec ∧ (t.core core).bsn = (s.core core).bsn ∧
      t.weirs = (if d.signalEn = true then s.arriveWeir d.signalWeir else s).weirs ∧
      (∀ q, t.queue q = { s.queue q with arrived := (t.queue q).arrived }) ∧ t.slots = s.slots ∧ t.tide = s.tide ∧
      (dmaLocal d.addr = true → d.addr % 2 ^ 18 + 0x40 ≤ 2 ^ 18 → t.mem = s.mem ∧ t.llc = s.llc ∧ t.queues = s.queues ∧ ∀ i, i < 8 →
        tget 0 (t.core core).scratch (dmaOff d.addr + 0x38 + i) =
          lget 0 (leBytes 8 ((if cause = 0 then 1 else 2) + 2 ^ 8 * cause + 2 ^ 16 * min 255 d.clamps + 2 ^ 24 * (bytes % 2 ^ 40))) i)))

/-- DMA_CHAIN, its channels busy with room for a head: every command core's channel takes its head, at FIRST plus the core's number times STRIDE; a
detached command is done, an attached one waits for its chains (R255). -/
def Obligations.DmaChainCommand : Prop :=
  ∀ (s : State) (q seq : Nat) (e : WakeEntry), s.ready q seq 0x3000 = some e → e.tiles = [] → e.ran = false → 0 < e.cmd.coreCount →
    let ch := (chainParams e.cmd.params).1.2.2.1
    let det := (chainParams e.cmd.params).1.2.2.2
    (∀ i, i < e.cmd.coreCount → s.servedCore (e.cmd.firstCore + i) = true ∧ s.coreInReset (e.cmd.firstCore + i) = false ∧
      (s.dmaCh (e.cmd.firstCore + i) ch).active ≠ none ∧ (s.dmaCh (e.cmd.firstCore + i) ch).fifo.length < 4) →
    Yields (.dmaChain q seq) s (fun t => Work s t ∧ t.mem = s.mem ∧ t.llc = s.llc ∧
      (∀ c, (∀ i, i < e.cmd.coreCount → c ≠ e.cmd.firstCore + i) → t.core c = s.core c) ∧
      (∀ i, i < e.cmd.coreCount → t.dmaCh (e.cmd.firstCore + i) ch =
        { s.dmaCh (e.cmd.firstCore + i) ch with fifo := (s.dmaCh (e.cmd.firstCore + i) ch).fifo ++
            [{ addr := dmaNorm ((fieldAt e.cmd.params 0 8 + i * fieldAt e.cmd.params 8 8) % 2 ^ 64) / 64 * 64, owner := some (q, seq), detached := det,
               req := some (q, reqId e.cmd.tag), since := s.nowNs }] }) ∧
      ∃ x, t.entry q seq = some x ∧ x.cmd = e.cmd ∧ x.started = true ∧ x.ran = det)

/-- The operation of the running descriptor. One that may not move (R256), and NOP, are done at once with nothing written. FILL and COPY into operand
scratch write their bytes and no others, COPY reading ahead of what it overwrites only where the destination does not follow the source closely
(R248). PIN, UNPIN, DEAD and CLEAN queue the lines of their range in operations of at most 1,048,576, what finds no room waiting for it (R247). -/
def Obligations.DmaOperations : Prop :=
  ∀ (s : State) (core ch op : Nat) (d : DmaDesc), s.dmaRunning core op = some (ch, d) →
    let x := (s.core core).dma
    let c : Instr := if op = 0 then .dmaCopy core else if op = 1 then .dmaFill core else if op = 2 then .dmaPin core else if op = 3 then .dmaUnpin core
      else if op = 4 then .dmaDead core else if op = 5 then .dmaClean core else .dmaNop core
    let dst := d.dst.toNat
    let src := d.src.toNat
    let done (t : State) (n target : Nat) : Prop := t = { s with cores := t.cores, llc := t.llc, jui := t.jui } ∧ (∀ k, k ≠ core → t.core k = s.core k) ∧
      t.core core = { s.core core with dma := { x with moved := some (n, 0, target), bytes := x.bytes + n }, scratch := (t.core core).scratch,
                                       scratchPoison := (t.core core).scratchPoison }
    let same (t : State) : Prop := (t.core core).scratch = (s.core core).scratch
    op ≤ 6 →
      (d.moves = false ∨ op = 6 → Yields c s (fun t => done t 0 0 ∧ same t ∧ t.llc = s.llc)) ∧
      (op = 1 → d.moves = true → dst = 2 ^ 63 + dmaOff dst → (d.rows - 1) * d.dstStride + d.rowBytes ≤ s.dmaRoom dst →
        Yields c s (fun t => done t (d.rows * d.rowBytes) 0 ∧ t.llc = s.llc ∧ ∀ a, tget 0 (t.core core).scratch a =
          (open Classical in if ∃ r i, r < d.rows ∧ i < d.rowBytes ∧ a = dmaOff dst + r * d.dstStride + i then lget 0 (leBytes 8 src) (a % 8)
           else tget 0 (s.core core).scratch a))) ∧
      (op = 0 → d.moves = true → d.codecDir = 0 → d.rows = 1 → dst = 2 ^ 63 + dmaOff dst → d.rowBytes ≤ s.dmaRoom dst → d.rowBytes ≤ s.dmaRoom src →
        (∀ i, i < d.rowBytes → s.dmaPoison core (src + i) = false) →
        let near : Prop := dmaLocal src = true ∧ dmaOff src < dmaOff dst ∧ dmaOff dst < dmaOff src + d.rowBytes
        Yields c s (fun t => done t d.rowBytes 0 ∧ t.llc = s.llc ∧
          (∀ i, i < d.rowBytes → (near → tget 0 (t.core core).scratch (dmaOff dst + i) = s.dmaByte core (src + i % (dmaOff dst - dmaOff src))) ∧
            (¬ near → tget 0 (t.core core).scratch (dmaOff dst + i) = s.dmaByte core (src + i))) ∧
          ∀ a, ¬ (dmaOff dst ≤ a ∧ a < dmaOff dst + d.rowBytes) → tget 0 (t.core core).scratch a = tget 0 (s.core core).scratch a)) ∧
      (2 ≤ op → op ≤ 5 → d.moves = true → dmaLocal dst = false →
        let n := d.rowBytes * d.rows
        let first := dmaOff dst / 128
        let lines := (dmaOff dst + n - 1) / 128 - first + 1
        let pieces := cdiv lines 1048576
        let ops : List RangeOp := (List.range pieces).map (fun i =>
          { op := op - 2, line := first + 1048576 * i, count := min (lines - 1048576 * i) 1048576 })
        let now := 64 - s.llc.rangeQueue.length
        0 < n → s.llc.rangeQueue.length ≤ 64 → Yields c s (fun t =>
          done t 0 (s.llc.rangeDone + s.llc.rangeQueue.length + s.llc.rangeStalled.length + pieces) ∧ same t ∧
          t.llc = { s.llc with rangeQueue := s.llc.rangeQueue ++ ops.take now, rangeStalled := s.llc.rangeStalled ++ ops.drop now }))

/-! ### The cache, the slabs and patrol scrubbing (R218 to R236) -/

/-- Every step keeps the cache as its rules leave it: lines in place and once, clean bytes as memory has them, dirty ones not lost. -/
def Obligations.StepKeepsCache : Prop := ∀ s t : State, s.cacheOk → step s = .next t → t.cacheOk

/-- Reads and fills change no byte that anyone reads. A read of bytes all valid in a resident line hits; one that finds no line allocates it, or where no
way is free goes past the cache; it and one that finds not all its bytes are outstanding as misses, with the errors they will meet; a DEAD tag is read as
stale memory, or under STRICT_DEAD recorded, and by run-ahead left; a fill completes the line, unless a DEAD operation overtook it (R54, R219, R225, R233
to R235). -/
def Obligations.CacheReadsAndFills : Prop :=
  ∀ (s : State), s.cacheOk →
    (∀ (src : Requester) (addr len : Nat) (pin : Bool) (errs : ReadErrs),
      let l := lineOf addr
      let n := min (min (s.cutLen addr len) (128 - addr % 128)) len
      let c := s.slice (sliceOf l)
      let ahead := (requesterQueue src).isSome
      let miss (alone : Bool) : List Miss := s.llc.misses ++ [{ line := l, src := src, discard := alone, errs := errs }]
      s.cachedAddr addr = true → 0 < n →
      (s.unitInReset 3 0 = true → Yields (.llcRead src addr len pin errs) s (fun t =>
        t = { s with rst := t.rst } ∧ t.rst.active = s.rst.active ∧ (768, src) ∈ t.rst.parked)) ∧
      (s.unitInReset 3 0 = false → Yields (.llcRead src addr len pin errs) s (fun t => SameBytes s t (fun _ => False) ∧
        (t.slice (sliceOf l)).accesses = c.accesses + 1 ∧
        (c.ways = 0 → t.llc.lines = s.llc.lines ∧ t.llc.misses = s.llc.misses ∧ (t.slice (sliceOf l)).uncached = c.uncached + (if ahead = true then 0 else 1)) ∧
        (c.ways ≠ 0 → s.findLine l = none →
          (s.victim l = none → t.llc.lines = s.llc.lines ∧ t.llc.misses = miss true ∧
            (t.slice (sliceOf l)).uncached = c.uncached + (if ahead = true then 0 else 1)) ∧
          (∀ p, s.victim l = some p → t.findLine l = some p ∧ (t.line p).valid = 0 ∧ (t.line p).alloc = true ∧ (t.line p).prov = requesterQueue src ∧
            (∀ k, k ≠ p → t.line k = s.line k) ∧ t.llc.misses = miss false ∧ (t.slice (sliceOf l)).misses = c.misses + 1)) ∧
        (∀ p, c.ways ≠ 0 → s.findLine l = some p →
          ((s.line p).dead = false → (∀ i, i < n → (s.line p).valid.getLsbD (addr % 128 + i) = true) → t.llc.misses = s.llc.misses ∧
            (t.line p).data = (s.line p).data ∧ (pin = false ∨ ahead = true → (∀ a ∈ errs.bad, lineOf a ≠ l) → t.llc.lines = s.llc.lines) ∧
            (t.slice (sliceOf l)).ce = c.ce + errs.corrected) ∧
          ((s.line p).dead = false → (∃ i, i < n ∧ (s.line p).valid.getLsbD (addr % 128 + i) = false) → t.llc.misses = miss false ∧
            (pin = false ∨ ahead = true → t.llc.lines = s.llc.lines)) ∧
          ((s.line p).dead = true → ahead = true → t.llc.misses = s.llc.misses ∧ t.llc.lines = s.llc.lines) ∧
          ((s.line p).dead = true → ahead = false → (t.slice (sliceOf l)).readAfterDead = c.readAfterDead + 1 ∧
            (s.llc.strictDead = true → t.llc.misses = s.llc.misses ∧ t.llc.lines = s.llc.lines) ∧
            (s.llc.strictDead = false → t.llc.misses = miss false ∧ (t.line p).dead = false ∧ (t.line p).alloc = true)))))) ∧
    (∀ (line : Nat) (m : Miss) (rest : List Miss), takeMiss line s.llc.misses = some (m, rest) → s.cachedAddr (line * 128) = true →
      s.unitInReset (if (s.channelOf (line * 128)).1 = true then 5 else 4) (s.channelOf (line * 128)).2.1 = false →
      Yields (.llcFill line) s (fun t => SameBytes s t (fun _ => False) ∧ t.llc.misses = rest ∧
        (m.discard = true ∨ s.findLine line = none → t.llc.lines = s.llc.lines) ∧
        (∀ p, m.discard = false → s.findLine line = some p →
          ((s.line p).dead = true → t.llc.lines = s.llc.lines) ∧
          ((s.line p).dead = false → (t.line p).valid = BitVec.allOnes 128 ∧ (t.line p).alloc = false ∧ (t.line p).dirty = (s.line p).dirty ∧
            (t.line p).pinned = (s.line p).pinned ∧ (t.line p).prov = (s.line p).prov ∧ ∀ k, k ≠ p → t.line k = s.line k)) ∧
        ∀ a ∈ m.errs.bad, lineOf a = line → t.memPoison a = true))

/-- Writes through the cache and through a slab's port put their bytes where every reader finds them, and change no other byte that anyone reads; of a
slab the last requester's turn is kept (R218, R224, R227). -/
def Obligations.CacheAndSlabWrites : Prop :=
  ∀ (s : State), s.cacheOk →
    (∀ (src : Requester) (addr : Nat) (data : List Byte) (pin : Bool), s.cachedAddr addr = true → s.unitInReset 3 0 = false →
      data.length ≤ 128 - addr % 128 → (∀ i, i < data.length → deviceOnly (addr + i) = false) → Yields (.llcWrite src addr data pin) s (fun t =>
        WroteBytes s t addr data ∧
        t = { s with mem := t.mem, poison := t.poison, llc := t.llc, nt := t.nt, dt := t.dt, seqs := t.seqs, queues := t.queues, dlt := t.dlt } ∧
        t.dlt = { s.dlt with pfLinesDiscarded := t.dlt.pfLinesDiscarded } ∧ (∀ p, (t.seqr p).wake = (s.seqr p).wake) ∧
        ∀ q, t.queue q = { s.queue q with arrived := (t.queue q).arrived })) ∧
    (∀ (owner requester off len : Nat) (data : List Byte),
      let a := shoalBase + owner * slabBytes + off
      off < slabBytes → s.inWindow a = true → data.length ≤ len → data.length ≤ 128 - off % 128 →
      Yields (.slabAccess owner requester off len (some data)) s (fun t => WroteBytes s t a data ∧
        t = { s with mem := t.mem, poison := t.poison, slabTurn := t.slabTurn, seqs := t.seqs } ∧ (∀ p, (t.seqr p).wake = (s.seqr p).wake) ∧
        tget false t.slabTurn owner = decide (requester ≠ owner)) ∧
      Yields (.slabAccess owner requester off len none) s (fun t => t = { s with slabTurn := t.slabTurn } ∧
        tget false t.slabTurn owner = decide (requester ≠ owner)))

/-- A range operation waits in the queue, which holds 64, its writer stalled until there is room; when it is done LLC_RANGE_DONE has risen by one and the
writer stalled longest goes on. UNPIN unpins and CLEAN cleans every line of its range, DEAD drops every resident one and the reads outstanding for it;
only DEAD changes what anyone reads, and only in its range (R231 to R233). A scrub pass over a stack or package with SCRUB_HOURS set counts what it
corrected and what it could not, poisons the latter's bursts, and changes no stored byte; with SCRUB_HOURS 0 there is no pass (R219; when an operation acts is the model's: notes/assumptions/14). -/
def Obligations.RangesAndScrub : Prop :=
  (∀ (s : State) (line count : Nat),
    let o (op : Nat) : RangeOp := { op := op, line := line, count := min count 1048576 }
    let queued (t : State) (op : Nat) : Prop :=
      (s.llc.rangeQueue.length < 64 → t = { s with llc := { s.llc with rangeQueue := s.llc.rangeQueue ++ [o op] } }) ∧
      (64 ≤ s.llc.rangeQueue.length → t = { s with llc := { s.llc with rangeStalled := s.llc.rangeStalled ++ [o op] } })
    Yields (.rangePin line count) s (fun t => queued t 0) ∧ Yields (.rangeUnpin line count) s (fun t => queued t 1) ∧
    Yields (.rangeDead line count) s (fun t => queued t 2) ∧ Yields (.rangeClean line count) s (fun t => queued t 3) ∧
    (∀ o rest, s.cacheOk → s.llc.rangeQueue = o :: rest →
      let inside (p : Nat) : Prop := o.line ≤ lineAt p (s.line p).tag ∧ lineAt p (s.line p).tag < o.line + o.count
      Yields .rangeOpDone s (fun t => t.llc.rangeQueue = rest ++ s.llc.rangeStalled.take 1 ∧ t.llc.rangeStalled = s.llc.rangeStalled.drop 1 ∧
        t.llc.rangeDone = s.llc.rangeDone + 1 ∧
        SameBytes s t (fun a => o.op = 2 ∧ o.line * 128 ≤ a ∧ a < (o.line + o.count) * 128) ∧
        (o.op = 1 → ∀ p, inside p → (t.line p).pinned = false) ∧
        (o.op = 2 → (∀ p, inside p → (s.line p).resident = true → (t.line p).dead = true ∧ (t.line p).valid = 0 ∧
            ∀ m ∈ t.llc.misses, m.line = lineAt p (s.line p).tag → m.discard = true)) ∧
        (o.op ≠ 2 → t.llc.misses = s.llc.misses) ∧
        (o.op = 3 → ∀ p, inside p → (t.line p).dirty = 0 ∧ (t.line p).valid = (s.line p).valid) ∧
        t.cores = s.cores ∧ t.weirs = s.weirs ∧ t.queues = s.queues ∧ t.slots = s.slots))) ∧
  (∀ (s : State) (inst corrected : Nat) (bad : List Nat),
    let counted (c d : MemCtl) : Prop := d = { c with ce := c.ce + corrected, ue := c.ue + bad.length, scrubPasses := c.scrubPasses + 1 }
    let kept (t : State) : Prop := t.mem = s.mem ∧ SameBytes s t (fun _ => False) ∧ t.cores = s.cores ∧ t.seqs = s.seqs ∧ t.weirs = s.weirs
    (∀ deep : Bool,
      let old := if deep = true then s.dt else s.nt
      let lvl := if deep = true then 6 else 5
      ((tget MemCtl.zero old inst).scrubHours = 0 → Yields (.scrubPass lvl inst corrected bad) s (fun t => t = s)) ∧
      ((tget MemCtl.zero old inst).scrubHours ≠ 0 → Yields (.scrubPass lvl inst corrected bad) s (fun t => kept t ∧
        counted (tget MemCtl.zero old inst) (tget MemCtl.zero (if deep = true then t.dt else t.nt) inst) ∧
        (∀ k, k ≠ inst → tget MemCtl.zero (if deep = true then t.dt else t.nt) k = tget MemCtl.zero old k) ∧
        ∀ a ∈ bad, (t.memPoison a = true)))) ∧
    Yields (.scrubPass 3 inst corrected bad) s (fun t => kept t ∧ (t.slice inst).ce = (s.slice inst).ce + corrected ∧
      (t.slice inst).ue = (s.slice inst).ue + bad.length ∧ (t.slice inst).accesses = (s.slice inst).accesses))

/-! ### Collectives (R317 to R333) -/

/-- ALLREDUCE, REDUCE_SCATTER, ALLGATHER and BROADCAST. Before its window the collective waits open, with the COLL_SEQ it took at reach; with a member
reached over the ford link and the partner lost it ends PEER_LOST at once; in a group of this rank alone it is done when its window has come, its output
the input's values, its report 64 bytes and 12 for the rank, its vote kept until the command completes (R321, R322, R324,
R326, R330, R332, R346; what a report's bytes count is the model's reading: notes/assumptions/39). -/
def Obligations.CollectiveStarts : Prop :=
  ∀ (s : State) (op q seq : Nat) (e : WakeEntry), (op = 0x5000 ∨ op = 0x5001 ∨ op = 0x5002 ∨ op = 0x5003) → s.ready q seq op = some e →
    let p := (collParams e.cmd).1
    let gid := if e.cmd.group.isSome = true then p.group.gid else 2 ^ 64 + e.wakeSeq
    let queues (t : State) : Prop := ∀ k, ∃ l, l.Sublist (s.queue k).arrived ∧ t.queue k = { s.queue k with arrived := l }
    s.coll? gid e.collSeq = none → (∀ b ∈ s.coll.buffered, ¬ (b.1 = gid ∧ b.2.1 = e.collSeq)) →
      (s.windowDue p.window = false → (s.frd.partnerLost = false ∨ ∀ r, r < p.n → p.ford r = false) →
        Yields (collCommand op q seq) s (fun t => t = { s with coll := t.coll, seqs := t.seqs } ∧
          (∃ c, t.coll = { s.coll with openColls := s.coll.openColls ++ [c] } ∧ c.gid = gid ∧ c.collSeq = e.collSeq ∧ c.queue = q ∧ c.seq = seq ∧ c.opcode = op ∧
            c.window = p.window ∧ c.isOpen = false ∧ c.infos = [] ∧ c.members = none ∧ c.cmd = e.cmd) ∧
          t.entry q seq = some { e with started := true, phase := 1 })) ∧
      (s.frd.partnerLost = true → (∃ r, r < p.n ∧ p.ford r = true) → Yields (collCommand op q seq) s (fun t =>
        (∃ x, t.entry q seq = some x ∧ x.cmd = e.cmd ∧ x.ran = true ∧ x.code = 0x20 ∧ x.voted = if p.vote = true then some (false, []) else e.voted) ∧
        t.coll.openColls = s.coll.openColls ∧ t.est.ctr.collPeerLost = s.est.ctr.collPeerLost + 1 ∧ t.train = s.train ∧ t.mem = s.mem)) ∧
      (s.frd.partnerLost = false → s.windowDue p.window = true → p.n = 1 → p.group.myRank = 0 → p.root = 0 → Yields (collCommand op q seq) s (fun t =>
        (∃ x, t.entry q seq = some x ∧ x.cmd = e.cmd ∧ x.ran = true ∧ (x.code = 0 ∨ x.code = 0x10) ∧ x.result.length = 76 ∧
          x.voted = if p.vote = true then some (decide (s.ownVote = 0), [0]) else e.voted) ∧
        (p.carry.isNull = true ∨ op ≠ 0x5000 → s.writable p.output → ∀ i, i < p.input.count → i < p.output.count →
          p.output.holds t e (i % p.output.d0) (i / p.output.d0) (if p.int = true then ofInt (p.word s i).toInt else of32 (p.word s i))) ∧
        t.coll.openColls = s.coll.openColls ∧ t.est.ctr.collDone = s.est.ctr.collDone + 1 ∧ t.train.vote = s.train.vote ∧ t.train.rows = s.train.rows ∧
        t.cores = s.cores ∧ t.weirs = s.weirs ∧ queues t ∧ t.tide = s.tide))

/-- A message of a collective does not reach a module whose link is down; one of a collective this rank neither has begun nor awaits is stray and counted;
one it awaits is kept; ARRIVE, START, DATA and RESULT take effect on the open collective they name: an arrival is noted, unless its rank never arrives; a
rank left out under DROP counts it; a word to be reduced goes on with this rank's own added, read as it comes, under the header of R323; a result completes an
excluded rank; what comes after the end is stray (R300, R321 to R324, R327 to R329, R333). At its deadline a coordinator that has arrived fixes the set without the
late ranks, and counts them; at the LOST limit a collective that still misses ranks ends PEER_LOST, with its vote failed (R322, R331; the layout of payloads and
what a rank takes as missing are the model's: notes/assumptions/38, 39). -/
def Obligations.CollectiveMessages : Prop :=
  (∀ (s : State) (gid cs : Nat),
    let stray (m : Instr) : Prop := s.coll? gid cs = none → s.collAwaited gid cs = false → Yields m s (fun t =>
      t = { s with est := { s.est with ctr := { s.est.ctr with collStray := s.est.ctr.collStray + 1 } } })
    let kept (m : Instr) : Prop := s.coll? gid cs = none → s.collAwaited gid cs = true → Yields m s (fun t =>
      t = { s with coll := { s.coll with buffered := s.coll.buffered ++ [(gid, cs, m)] } })
    let past (m : Instr) : Prop := ∀ c, s.coll? gid cs = some c → c.finished = true → c.wants m = false → Yields m s (fun t =>
      t = { s with est := { s.est with ctr := { s.est.ctr with collStray := s.est.ctr.collStray + 1 } } })
    let taken (m : Instr) : Prop := (s.est.linkUp = false → s.frd.linkUp = false → Yields m s (fun t => t = s)) ∧
      (s.collHeard gid m = false → Yields m s (fun t => t = s)) ∧ (s.collHeard gid m = true → stray m ∧ kept m ∧ past m)
    (∀ info, taken (.collArrive gid cs info)) ∧
    (∀ mem vote n tab, taken (.collStart gid cs mem vote n tab)) ∧
    (∀ chunk g off data, taken (.collData gid cs chunk g off data)) ∧
    (∀ off data, taken (.collResult gid cs off data)) ∧
    (∀ c : CollSt, s.coll? gid cs = some c → c.finished = false → (∀ b ∈ s.coll.buffered, ¬ (b.1 = gid ∧ b.2.1 = cs)) →
      let p := (collParams c.cmd).1
      let heard (m : Instr) : Prop := s.collHeard gid m = true
      (∀ info : RankInfo, heard (.collArrive gid cs info) → p.group.myRank = 0 → c.members = none →
        (info.rank < p.n → p.never info.rank = false → (∀ x ∈ c.infos, x.rank ≠ info.rank) → c.infos.length + 1 < p.n →
          Yields (.collArrive gid cs info) s (fun t => t = { s with coll := t.coll } ∧ t.coll? gid cs = some { c with infos := c.infos ++ [info] } ∧
            t.coll.buffered = s.coll.buffered)) ∧
        (p.n ≤ info.rank ∨ p.never info.rank = true → Yields (.collArrive gid cs info) s (fun t => t = s))) ∧
      (∀ mem vote n tab, heard (.collStart gid cs mem vote n tab) → c.members = none → c.isOpen = true → mem.contains p.group.myRank = false → p.policy ≠ 2 →
        c.total = none → Yields (.collStart gid cs mem vote n tab) s (fun t => t = { s with coll := t.coll, est := t.est } ∧
          t.coll? gid cs = some { c with members := some mem, vote := vote, elems := n, table := tab, excluded := true } ∧
          t.est = { s.est with ctr := { s.est.ctr with collDropped := s.est.ctr.collDropped + 1 } })) ∧
      (∀ mem chunk off data, heard (.collData gid cs chunk false off data) → c.members = some mem → c.excluded = false → c.opcode = 0x5000 →
        halving p c = false → c.written < c.elems → 2 ≤ mem.length → myIndex p c ≠ chunk →
        let ws := bytesWords data
        let a := chunkAt chunk c.elems mem.length + off / 4
        let sum := p.addAll ws ((rangeFrom a ws.length).map (p.word s))
        let dest := nextMember mem (myIndex p c)
        let qpn := (lget (noQpn, false) p.group.entries dest).1
        p.carry.isNull = true → sum ≠ [] → 4 * sum.length ≤ maxCollData → (lget (noQpn, false) p.group.entries dest).2 = false → s.peerQp qpn = true →
        Yields (.collData gid cs chunk false off data) s (fun t => t.mem = s.mem ∧ t.seqs = s.seqs ∧ t.train = s.train ∧
          (∃ y, t.coll? gid cs = some { c with got := c.got + ws.length, bytesSent := c.bytesSent + 4 * sum.length, ownPz := y } ∧
            (y = true ↔ c.ownPz = true ∨ ∃ i, a ≤ i ∧ i < a + ws.length ∧ (p.inputAt s i).2 = true)) ∧
          t.out = s.out ++ [.roce s.est.cfg.netHdr (.collMsg dest 2 gid cs
            (collHeader gid cs 2 (off / 4 * 4) (4 * sum.length) (s.collInfo p.group.myRank c.window c.vote) ++ wordBytes sum))])) ∧
      (∀ mem off data e, heard (.collResult gid cs off data) → s.entry c.queue c.seq = some e → c.members = some mem → c.excluded = true → 0 < p.group.myRank →
        data.length < maxCollData →
        Yields (.collResult gid cs off data) s (fun t => t.coll? gid cs = none ∧ t.est.ctr.collDone = s.est.ctr.collDone + 1 ∧
          ∃ x, t.entry c.queue c.seq = some x ∧ x.cmd = e.cmd ∧ x.ran = true ∧ x.code = (if c.ownPz = true then 0x10 else 0) ∧
            x.voted = if p.vote = true then some (decide (c.vote = 0), mem) else e.voted)))) ∧
  (∀ (s : State) (gid cs : Nat) (c : CollSt) (e : WakeEntry), s.coll? gid cs = some c → s.entry c.queue c.seq = some e →
    (∀ b ∈ s.coll.buffered, ¬ (b.1 = gid ∧ b.2.1 = cs)) → c.isOpen = true →
    let p := (collParams c.cmd).1
    let mem := (List.range p.n).filter (fun r => c.infos.any (fun i => decide (i.rank = r)))
    (p.group.myRank = 0 → p.mayDrop c.opcode = true → c.members = none → c.infos.length < p.n → Yields (.stragglerDeadline gid cs) s (fun t =>
      t.est.ctr.collLate = s.est.ctr.collLate + (p.n - mem.length) ∧ ∃ x, t.coll? gid cs = some x ∧ x.members = some mem ∧ x.vote = 2)) ∧
    (c.finished = true → Yields (.peerLostDeadline gid cs) s (fun t => t = { s with coll := t.coll } ∧ t.coll? gid cs = none)) ∧
    (c.finished = false → c.missing p = true → Yields (.peerLostDeadline gid cs) s (fun t =>
      t.coll? gid cs = none ∧ t.est.ctr.collPeerLost = s.est.ctr.collPeerLost + 1 ∧ t.mem = s.mem ∧ t.cores = s.cores ∧ t.train = s.train ∧
      ∃ x, t.entry c.queue c.seq = some x ∧ x.cmd = e.cmd ∧ x.ran = true ∧ x.code = 0x20 ∧
        x.voted = if p.vote = true then some (false, c.members.getD []) else e.voted)) ∧
    (c.finished = false → c.missing p = false → c.members ≠ none → collDone p c = false → Yields (.peerLostDeadline gid cs) s (fun t => t = s)))

/-! ### The ford link (R339 to R347) -/

/-- A flit of the ford link: accepted when the lanes have trained, its CRC-32C is right and, if it is numbered, it has the sequence number expected; then it
acknowledges kept flits, returns credits and its own buffer is returned by an ACK. WRITE lands its bytes, WAKE, FLAGS and VOTE are mirrored, GOODBYE loses the partner;
the first HELLO of the paired other side after training brings the link and the partner up, the second says that the partner's bring-up has ended, any other
keeps the link down. A bad flit is discarded and answered with the ACK of the last good one, on which all that is kept is sent again (R339 to R343, R346, R348; which flits
are numbered, what that ACK is and the second HELLO are the model's: notes/assumptions/37, 88). The link's timers: a replay sends every kept flit again in order; an idle link says
so; silence and a link down lose the partner; a retrained link starts afresh and says HELLO (R341, R342, R346, R347). -/
def Obligations.FordLink : Prop :=
  (∀ (s : State) (hdr : FlitHdr),
    let x := s.frd
    let sent (f : Flit) (ack : Nat) : OutMsg := .flit (f.bytes ack (f.crc ack).toNat)
    let next := (x.expSeq + 1) % 65536
    let left := x.kept.filter (fun k => !seqLe k.seq hdr.ack)
    let acked : FrdSt := { x with rxFlits := x.rxFlits + 1, expSeq := next, kept := left,
                                  credits := lmod x.credits hdr.creditVc (fun c => min 64 (c + hdr.creditN)) }
    let credit : Flit := { seq := x.nextSeq, type := 6, vc := 0, creditVc := hdr.vc, creditN := 1, payload := [] }
    let took : FrdSt := { acked with nextSeq := (x.nextSeq + 1) % 65536, kept := left ++ [credit], txFlits := x.txFlits + 1 }
    let answer := sent credit ((next + 65535) % 65536)
    let again := sent { Flit.of 6 0 [] with seq := x.nextSeq } x.lastSeq
    let up : Prop := x.linkUp = true ∨ x.helloWait = true
    let crcOk (type : Nat) (payload : List Byte) : Prop := (Flit.arrived hdr type payload).crc hdr.ack = hdr.crc
    let good (type : Nat) (payload : List Byte) : Prop := up ∧ crcOk type payload ∧ hdr.seq = x.expSeq ∧ x.txWait = [] ∧ left.length < 512
    let from_ (t : State) (f : FrdSt) : Prop := t = { s with frd := f, out := s.out ++ [answer] }
    let discarded (c : Instr) (type : Nat) (payload : List Byte) (numbered : Prop) : Prop := (¬ up → Yields c s (fun t => t = s)) ∧
      (up → ¬ crcOk type payload → Yields c s (fun t =>
        t = { s with frd := { x with crcErrors := x.crcErrors + 1, txFlits := x.txFlits + 1 }, out := s.out ++ [again] })) ∧
      (up → crcOk type payload → numbered → hdr.seq ≠ x.expSeq → Yields c s (fun t =>
        t = { s with frd := { x with txFlits := x.txFlits + 1 }, out := s.out ++ [again] }))
    let counted (c : Instr) (type : Nat) (payload : List Byte) : Prop := discarded c type payload True ∧
      (good type payload → x.partnerPresent = false → Yields c s (fun t => from_ t took))
    (∀ (key : W64) (side : Bool), let pay := leBytes 8 key.toNat ++ leBytes 1 (b2n side)
      let pair : Prop := s.boot.licPaired = true ∧ key = x.pairKey ∧ side ≠ x.side
      let joined : FrdSt := { took with linkUp := true, helloWait := false, partnerPresent := true, partnerReady := false, partnerLost := false }
      let hello : Flit := { Flit.of 1 0 (leBytes 8 x.pairKey.toNat ++ leBytes 1 (b2n x.side)) with seq := (x.nextSeq + 1) % 65536 }
      discarded (.fordHello hdr key side) 1 pay True ∧ (good 1 pay →
      (pair → x.helloWait = true → Yields (.fordHello hdr key side) s (fun t =>
        (s.boot.ready = false → t = { s with frd := joined, out := s.out ++ [answer], spw := t.spw }) ∧
        (s.boot.ready = true → 0 < lget 0 acked.credits 0 → left.length + 1 < 512 → t = { s with
          frd := { joined with nextSeq := (x.nextSeq + 2) % 65536, kept := joined.kept ++ [hello], credits := lmod acked.credits 0 (· - 1), txFlits := x.txFlits + 2 },
          out := s.out ++ [answer, sent hello ((next + 65535) % 65536)], spw := t.spw }) ∧
        (s.spw.slack = 0 → t.spw = s.spw) ∧ (s.spw.slack = 2 → t.spw = { s.spw with slack := 3 }))) ∧
      (pair → x.helloWait = false → Yields (.fordHello hdr key side) s (fun t => from_ t { took with partnerReady := x.partnerPresent })) ∧
      (¬ pair → Yields (.fordHello hdr key side) s (fun t =>
        from_ t { took with helloReject := x.helloReject + 1, linkUp := false, partnerPresent := false, partnerReady := false })))) ∧
    (∀ addr data, let pay := leBytes 8 addr ++ data
      counted (.fordWrite hdr addr data) 2 pay ∧ (good 2 pay → x.partnerPresent = true → s.cacheOk → data.length ≤ 232 → data.length ≤ s.cutLen addr data.length →
      (∀ i, i < data.length → deviceOnly (addr + i) = false) → Yields (.fordWrite hdr addr data) s (fun t => WroteBytes s t addr data ∧
        t.frd = { took with mirrorBytes := x.mirrorBytes + data.length } ∧ t.out = s.out ++ [answer] ∧ t.cores = s.cores ∧
        ∀ q, ∃ l, l.Sublist (s.queue q).arrived ∧ t.queue q = { s.queue q with arrived := l }))) ∧
    (∀ entry, counted (.fordWake hdr entry) 3 entry ∧ (good 3 entry → x.partnerPresent = true → (∀ e ∈ x.mirrorWake, 256 ≤ e.length) →
      let op := fieldAt entry 0x40 2
      (256 ≤ entry.length → fieldAt entry 0x0A 1 ≠ 2 → Yields (.fordWake hdr entry) s (fun t =>
        from_ t { took with mirrorWake := x.mirrorWake ++ [entry], wakeEntries := x.wakeEntries + 1,
                            mirrorReached := tset 0 x.mirrorReached (fieldAt entry 8 2) (fieldAt entry 0xB8 8 + 1) })) ∧
      (256 ≤ entry.length → fieldAt entry 0x0A 1 = 2 → Yields (.fordWake hdr entry) s (fun t => from_ t { took with
        mirrorWake := if op = 0x6001 then x.mirrorWake else x.mirrorWake.filter (fun b => !sameEntry b entry),
        mirrorUpdates := if op = 0x6000 then x.mirrorUpdates ++ [(entryRow entry, fieldAt entry 0x84 4, fieldAt entry 0x88 4)] else x.mirrorUpdates })) ∧
      (entry.length < 256 → Yields (.fordWake hdr entry) s (fun t => from_ t { took with mirrorWake := x.mirrorWake ++ [entry] })))) ∧
    (∀ row flags, let pay := leBytes 2 row ++ [flags]
      counted (.fordFlags hdr row flags) 4 pay ∧ (good 4 pay → x.partnerPresent = true → Yields (.fordFlags hdr row flags) s (fun t =>
        from_ t { took with mirrorFlags := tset 0 x.mirrorFlags (row % 4096) flags }))) ∧
    (∀ r, let pay := leBytes 8 r
      counted (.fordVote hdr r) 5 pay ∧ (good 5 pay → x.partnerPresent = true → Yields (.fordVote hdr r) s (fun t => from_ t { took with mirrorVote := some r }))) ∧
    (∀ data, counted (.fordColl hdr data) 7 data ∧ (good 7 data → x.partnerPresent = true → Yields (.fordColl hdr data) s (fun t => from_ t took))) ∧
    (counted (.fordGoodbye hdr) 8 [] ∧ (good 8 [] → x.partnerPresent = true → Yields (.fordGoodbye hdr) s (fun t =>
      t.frd.partnerPresent = false ∧ t.frd.partnerLost = true ∧ t.frd.failovers = x.failovers + 1 ∧ t.frd.linkUp = x.linkUp ∧ t.cores = s.cores ∧
      t.weirs = s.weirs))) ∧
    (discarded (.fordAck hdr) 6 [] (0 < hdr.creditN) ∧ (up → crcOk 6 [] → x.txWait = [] →
      (0 < hdr.creditN → hdr.seq = x.expSeq → Yields (.fordAck hdr) s (fun t => t = { s with frd := acked })) ∧
      (hdr.creditN = 0 → Yields (.fordAck hdr) s (fun t => t = { s with
        frd := { acked with expSeq := x.expSeq, replays := x.replays + (if left = [] then 0 else 1), txFlits := x.txFlits + left.length },
        out := s.out ++ left.map (fun k => sent k x.lastSeq) })))) ∧
    (discarded (.fordIdle hdr) 0 [] (0 < hdr.creditN) ∧ (up → crcOk 0 [] → x.txWait = [] →
      (0 < hdr.creditN → hdr.seq = x.expSeq → Yields (.fordIdle hdr) s (fun t => t = { s with frd := acked })) ∧
      (hdr.creditN = 0 → Yields (.fordIdle hdr) s (fun t => t = { s with frd := { acked with expSeq := x.expSeq } }))))) ∧
  (∀ s : State,
    let x := s.frd
    let sent (f : Flit) (ack : Nat) : OutMsg := .flit (f.bytes ack (f.crc ack).toNat)
    let lost (t : State) : Prop := t.frd.partnerPresent = false ∧ t.frd.partnerLost = true ∧ t.frd.failovers = x.failovers + 1 ∧ t.cores = s.cores ∧
      t.weirs = s.weirs
    let same (c : Instr) : Prop := Yields c s (fun t => t = s)
    let hello : Flit := Flit.of 1 0 (leBytes 8 x.pairKey.toNat ++ leBytes 1 (b2n x.side))
    (x.linkUp = true ∨ x.helloWait = true → x.kept ≠ [] → Yields .fordReplayTimeout s (fun t =>
      t = { s with frd := { x with txFlits := x.txFlits + x.kept.length, replays := x.replays + 1 },
                   out := s.out ++ x.kept.map (fun k => sent k x.lastSeq) })) ∧
    (x.kept = [] → same .fordReplayTimeout) ∧
    (x.linkUp = true → x.txWait = [] → Yields .fordIdleTimer s (fun t =>
      t = { s with frd := { x with txFlits := x.txFlits + 1 }, out := s.out ++ [sent { Flit.of 0 0 [] with seq := x.nextSeq } x.lastSeq] })) ∧
    (x.linkUp = false → same .fordIdleTimer ∧ same .fordLinkDown) ∧
    (x.partnerPresent = true → Yields .fordSilenceTimeout s (fun t => lost t ∧ t.frd.linkUp = x.linkUp)) ∧
    (x.partnerPresent = false → same .fordSilenceTimeout) ∧
    (x.linkUp = true → Yields .fordLinkDown s (fun t => t.frd.linkUp = false ∧ t.frd.linkDowns = x.linkDowns + 1 ∧ (x.partnerPresent = true → lost t) ∧
      (x.partnerPresent = false → t = { s with frd := { x with linkUp := false, helloWait := false, linkDowns := x.linkDowns + 1 } }))) ∧
    ((x.linkUp = false ∨ x.partnerLost = true) → x.lanesInUse ≠ 0 →
      Yields (.fordRetrainTimer true) s (fun t =>
        t = { s with frd := { x with linkUp := false, helloWait := true, partnerPresent := false, partnerReady := false, partnerLost := false, nextSeq := 1, expSeq := 0,
                                     kept := [hello], txWait := [], credits := [63, 64, 64], txFlits := x.txFlits + 1 },
                     out := s.out ++ [sent hello 65535] }) ∧
      Yields (.fordRetrainTimer false) s (fun t => t = { s with frd := { x with linkUp := false, helloWait := false } })) ∧
    (x.lanesInUse = 0 ∨ x.linkUp = true ∧ x.partnerLost = false → ∀ b, same (.fordRetrainTimer b)))

/-! ### The estuary (R298 to R316, R334 to R338) -/

/-- The responder. While the link is down, the module is being removed, the QP is not connected, or a packet's P_Key is not 0xFFFF, a request is lost; asleep it is counted and wakes;
ahead of the expected PSN it is answered once. In order: a host's WRITE lands its bytes within the window, and a whole ring entry arrives at its queue
unless it is stale, its slot posted on request; a wrong rkey is refused and ends the QP, and so does a message above 2^31 bytes; a peer's WRITE is dropped; a READ answers the bytes, zeros
outside the windows; a SEND is acknowledged; anything else ends the QP (R300, R302 to R306, R309, R314, R319, R366; that a packet with another P_Key and one above the limit end so is
the model's: notes/assumptions/41). -/
def Obligations.RdmaResponder : Prop :=
  ∀ (s : State) (qpn psn : Nat),
    let x := s.qp qpn
    let key := 0xFFFF
    let most := 2 ^ 31
    let idle : Prop := s.est.linkUp = false ∨ s.pins.removing = true ∨ x.phase ≠ 2
    let served : Prop := s.est.linkUp = true ∧ s.pins.removing = false ∧ x.phase = 2 ∧ s.spw.asleep = false
    let dup : Prop := served ∧ psn ≠ x.epsn ∧ 2 ^ 23 ≤ psnGap psn x.epsn
    let due : Prop := served ∧ psn = x.epsn
    let past (n : Nat) : Qp := { x with epsn := (x.epsn + n) % 2 ^ 24, nakSent := false }
    let dead (n : Nat) : Qp := { past n with phase := 3, sent := [], reads := 0 }
    let wrong := fun g : EstCtr => { g with qpErrors := g.qpErrors + 1 }
    let common (c : Nat → Instr) (pk : Nat) : Prop := (∀ k, k ≠ key → Yields (c k) s (fun t => t = s)) ∧ (idle → ∀ k, Yields (c k) s (fun t => t = s)) ∧
      (¬ idle → s.spw.asleep = true → Yields (c key) s (fun t => t = { s with spw := t.spw } ∧ t.spw.slackDropped = s.spw.slackDropped + 1 ∧
        (s.spw.slack = 1 → t.spw.slackWake = true) ∧ (s.spw.slack = 2 → t.spw.slack = 3))) ∧
      (served → psn ≠ x.epsn → psnGap psn x.epsn < 2 ^ 23 → Yields (c key) s (fun t =>
        Answered s t qpn { x with nakSent := true } pk (if x.nakSent = true then 0 else 1) (if x.nakSent = true then [] else [.nakSequence qpn x.epsn]) id))
    (∀ rkey va data, let n := packets x.mtu data.length; let last := (psn + n - 1) % 2 ^ 24; let k := s.cutLen va data.length
      let cmd (pkey : Nat) := Instr.rdmaWrite pkey qpn rkey psn va data
      let c := cmd key
      common cmd n ∧ (dup → Yields c s (fun t => Answered s t qpn x n 1 [.ack qpn last] id)) ∧
      (due → most < data.length → s.coll.openColls = [] → Yields c s (fun t => Answered s t qpn (dead n) n 1 [.nakInvalid qpn psn] wrong)) ∧
      (due → data.length ≤ most → x.peer = true → Yields c s (fun t =>
        Answered s t qpn (past n) n 1 [.ack qpn last] (fun g => { g with writeDropped := g.writeDropped + 1 }))) ∧
      (due → data.length ≤ most → x.peer = false → rkey ≠ x.rkey → s.coll.openColls = [] → Yields c s (fun t =>
        Answered s t qpn (dead n) n 1 [.nakAccess qpn psn] wrong)) ∧
      (due → data.length ≤ most → x.peer = false → rkey = x.rkey → s.cacheOk → data ≠ [] → (∀ i, i < k → deviceOnly (va + i) = false) → Yields c s (fun t =>
        WroteBytes s t va (data.take k) ∧ t.qp qpn = past n ∧ t.out = s.out ++ [.roce s.est.cfg.netHdr (.ack qpn last)] ∧ t.cores = s.cores ∧ t.weirs = s.weirs ∧
        t.est.ctr.oobAccess = s.est.ctr.oobAccess + (if k < data.length then 1 else 0) ∧
        (va + k ≤ ringBase ∨ bootBase ≤ va → t.queues = s.queues ∧ t.slots = s.slots) ∧
        (∀ q i, q < 256 → i < 1024 → va = ringEntry q i → k = 128 → data.length = 128 →
          let seq := fieldAt data 0x78 8
          let waiting := (s.queue q).arrived.filter (fun a => a.1 ≠ i)
          (seq % 1024 ≠ i ∨ seq < (s.queue q).expected → t.queue q = { s.queue q with arrived := waiting } ∧ t.slots = s.slots ∧
            t.est.ctr.ringStale = s.est.ctr.ringStale + 1) ∧
          (seq % 1024 = i → (s.queue q).expected ≤ seq → s.partCores (q / 64) ≠ 0 →
            t.queue q = { s.queue q with arrived := waiting ++ [(i, seq)] } ∧ t.est.ctr.ringStale = s.est.ctr.ringStale ∧
            (bitOf (fieldAt data 2 2) 2 = false → t.slots = s.slots) ∧
            (bitOf (fieldAt data 2 2) 2 = true → tget .empty t.slots (fieldAt data 6 2 % 16384) =
              { Slot.empty with tag := slotTag q seq, phase := 1, queue := q, cmdTag := BitVec.ofNat 64 (fieldAt data 0x70 8) })))))) ∧
    (∀ rkey va len, let n := packets x.mtu len; let k := s.cutLen va len
      let cmd (pkey : Nat) := Instr.rdmaRead pkey qpn rkey psn va len
      let c := cmd key
      let oob := fun g : EstCtr => { g with oobAccess := g.oobAccess + (if k < len ∨ s.inWindow va = false then 1 else 0) }
      let answers (y : Qp) : Prop := Yields c s (fun t => ∃ bs : List Byte, bs.length = len ∧ Answered s t qpn y 1 n [.readData qpn psn bs] oob ∧
        (∀ i, k ≤ i → i < len → lget 0 bs i = 0) ∧ (∀ i, i < k → s.peekPoison (va + i) = false → lget 0 bs i = s.peek (va + i)))
      let refused (y : Qp) (m : OutMsg) : Prop := Yields c s (fun t => Answered s t qpn { y with phase := 3, sent := [], reads := 0 } 1 1 [m] wrong)
      common cmd 1 ∧ (dup → len ≤ most → rkey = x.rkey → answers x) ∧ (due → len ≤ most → rkey = x.rkey → answers (past n)) ∧
      (due → s.coll.openColls = [] → (most < len → refused (past n) (.nakInvalid qpn psn)) ∧
        (len ≤ most → rkey ≠ x.rkey → refused (past n) (.nakAccess qpn psn))) ∧
      (dup → s.coll.openColls = [] → (most < len → refused x (.nakInvalid qpn psn)) ∧ (len ≤ most → rkey ≠ x.rkey → refused x (.nakAccess qpn psn)))) ∧
    (∀ data, let n := packets x.mtu data.length; let last := (psn + n - 1) % 2 ^ 24
      let cmd (pkey : Nat) := Instr.send pkey qpn psn data
      let c := cmd key
      common cmd n ∧ (dup → Yields c s (fun t => Answered s t qpn x n 1 [.ack qpn last] id)) ∧
      (due → most < data.length → s.coll.openColls = [] → Yields c s (fun t => Answered s t qpn (dead n) n 1 [.nakInvalid qpn psn] wrong)) ∧
      (due → data.length ≤ most → Yields c s (fun t => Answered s t qpn (past n) n 1 [.ack qpn last]
        (fun g => { g with sendDropped := g.sendDropped + (if x.peer = true then 0 else 1) })))) ∧
    (let cmd (pkey : Nat) := Instr.unsupportedRequest pkey qpn psn;
      common cmd 1 ∧ (dup → Yields (cmd key) s (fun t => Answered s t qpn x 1 0 [] id)) ∧
      (due → s.coll.openColls = [] → Yields (cmd key) s (fun t => Answered s t qpn (dead 1) 1 1 [.nakInvalid qpn psn] wrong)))

/-- The requester and congestion. An ACK drops what it covers and shortens a request it covers in part; a NAK acknowledges what comes before its PSN and what was
sent from there on is sent again, a timeout sends again from the oldest unacknowledged PSN, and past RETRY_CNT without progress the QP
ends. A CE mark is notified at most once an interval; a CNP cuts the rate by α/2 to at least 1 Gb/s and raises α; the 55 µs timer decays α if none came
and recovers the rate. Pause frames are counted (R298, R312 to R315). -/
def Obligations.RdmaRequester : Prop :=
  ∀ (s : State) (qpn : Nat),
    let x := s.qp qpn
    let off : Prop := s.est.linkUp = false ∨ x.phase ≠ 2
    let rest (psn : Nat) (r : TxReq) : Option TxReq :=
      let k := psnGap psn r.psn + 1
      if r.isRead = true ∨ 2 ^ 23 < k then some r
      else if r.pkts ≤ k then none
      else some { r with psn := (r.psn + k) % 2 ^ 24, pkts := r.pkts - k, retries := 0 }
    let left (psn : Nat) : List TxReq := x.sent.filterMap (rest psn)
    let again (c : Instr) (l : List TxReq) (r : TxReq) (rx : Nat) : Prop :=
      (r.retries < s.est.cfg.retryCnt → let k := ((l.filter (fun y => decide (psnGap y.psn r.psn < 2 ^ 23))).map (·.pkts)).sum
        Yields c s (fun t => Answered s t qpn { x with sent := l.map (fun y => if y.psn = r.psn then { y with retries := y.retries + 1 } else y) } rx k
          [.retransmit qpn r.psn] (fun g => { g with retransmits := g.retransmits + k }))) ∧
      (s.est.cfg.retryCnt ≤ r.retries → s.coll.openColls = [] → Yields c s (fun t =>
        Answered s t qpn { x with phase := 3, sent := [], reads := 0 } rx 0 [] (fun g => { g with qpErrors := g.qpErrors + 1 })))
    (∀ psn, (off → Yields (.rdmaAckReceived qpn psn) s (fun t => t = s) ∧ Yields (.nakReceived qpn psn) s (fun t => t = s)) ∧
      (¬ off → Yields (.rdmaAckReceived qpn psn) s (fun t => Answered s t qpn { x with sent := left psn } 1 0 [] id) ∧
        let l := left ((psn + 2 ^ 24 - 1) % 2 ^ 24)
        ((∀ r ∈ l, r.psn ≠ psn) → Yields (.nakReceived qpn psn) s (fun t => Answered s t qpn { x with sent := l } 1 0 [] id)) ∧
        (∀ r, findFirst (fun y => decide (y.psn = psn)) l = some r → again (.nakReceived qpn psn) l r 1))) ∧
    (x.sent = [] → Yields (.ackTimeout qpn) s (fun t => t = s)) ∧
    (∀ r others, x.sent = r :: others → again (.ackTimeout qpn) x.sent r 0) ∧
    (off → Yields (.cePacket qpn) s (fun t => t = s) ∧ Yields (.cnpReceived qpn) s (fun t => t = s)) ∧
    (¬ off → (∀ m, x.lastCnp = some m → m + 1000 * s.est.cfg.cnpIntervalUs ≤ s.nowNs) → Yields (.cePacket qpn) s (fun t =>
      Answered s t qpn { x with lastCnp := some s.nowNs } 0 1 [.cnp qpn] (fun g => { g with cnpTx := g.cnpTx + 1 }))) ∧
    (∀ m, x.lastCnp = some m → s.nowNs < m + 1000 * s.est.cfg.cnpIntervalUs → Yields (.cePacket qpn) s (fun t => t = s)) ∧
    (¬ off → x.alpha.m ≤ 2 ^ x.alpha.k → Yields (.cnpReceived qpn) s (fun t => ∃ rate alpha : Dyad,
      Answered s t qpn { x with target := x.rate, rate := rate, alpha := alpha, stage := 0, cnpSeen := true } 1 0 [] (fun g => { g with cnpRx := g.cnpRx + 1 }) ∧
      alpha.is (15 * x.alpha.m + 2 ^ x.alpha.k) (x.alpha.k + 4) ∧
      rate.is (max (x.rate.m * (2 ^ (x.alpha.k + 1) - x.alpha.m)) (2 ^ (x.rate.k + x.alpha.k + 1))) (x.rate.k + x.alpha.k + 1))) ∧
    (x.phase ≠ 2 → Yields (.rateTimer qpn) s (fun t => t = s)) ∧
    (x.phase = 2 → Yields (.rateTimer qpn) s (fun t => ∃ rate target alpha : Dyad,
      Answered s t qpn { x with rate := rate, target := target, alpha := alpha, stage := min (x.stage + 1) (max x.stage 5), cnpSeen := false } 0 0 [] id ∧
      (if x.cnpSeen = true then alpha = x.alpha else alpha.is (15 * x.alpha.m) (x.alpha.k + 4)) ∧
      rate.is (x.rate.m * 2 ^ target.k + target.m * 2 ^ x.rate.k) (x.rate.k + target.k + 1) ∧
      (x.stage < 5 → target = x.target) ∧ (5 ≤ x.stage → target.is (min (x.target.m + 5 * 2 ^ x.target.k) (s.portRate * 2 ^ x.target.k)) x.target.k))) ∧
    (∀ pfc, (s.est.linkUp = false → Yields (.pauseFrame pfc) s (fun t => t = s)) ∧ (s.est.linkUp = true → Yields (.pauseFrame pfc) s (fun t =>
      t = { s with est := { s.est with ctr := { s.est.ctr with pauseRx := s.est.ctr.pauseRx + 1 } } })))

/-- Fingerprints. A rank outside the vote's set hears none, nor one whose link is down; its predecessor's fingerprint of a row it has flipped is compared and the
row is settled when equal; when not, the successor is asked for its fingerprint, or of two members the partner's mirror, and the successor's answer says who is the minority:
the predecessor, this rank, which starts a repair, or nobody. A BISECT of no blocks asks for a fingerprint and one of a range for its sixteen sub-ranges, of the mirror here when the
partner asks; an answer that agrees ends the range. The block
read of a repair is written unless a COMMIT holds the token, in which case it comes again (R300, R334 to R337; the
mirror's messages and the two-member rule are the model's: notes/assumptions/40, 89). -/
def Obligations.FingerprintMessages : Prop :=
  ∀ s : State,
    let msg (v : VoteRef) (dest kind : Nat) (data : List Byte) : OutMsg := .roce s.est.cfg.netHdr (.collMsg dest kind v.group.gid v.collSeq
      (collHeader v.group.gid v.collSeq kind 0 data.length (s.collInfo v.group.myRank v.window 2) ++ data))
    let onQp (v : VoteRef) (r : Nat) : Prop := r ≠ mirrorRank ∧ (lget (noQpn, false) v.group.entries r).2 = false ∧
      s.peerQp (lget (noQpn, false) v.group.entries r).1 = true
    let without (row : Nat) : GroupSt := { s.coll with flipped := s.coll.flipped.filter (fun y => y.row ≠ row) }
    let repair (row src : Nat) : Repair :=
      { row := row, source := src, ranges := [(0, (s.rowBlocks false row).length)], reads := [], blocks := 0, complete := false }
    (∀ src rows, s.voteSet = none → Yields (.fpMsg src rows) s (fun t => t = s)) ∧
    (∀ v src me mem, s.coll.lastVote = some v → s.voteSet = some (me, mem) →
      (s.replicaHeard src = false → ∀ rows, Yields (.fpMsg src rows) s (fun t => t = s)) ∧
      (s.replicaHeard src = true → src ≠ mirrorRank →
        (ringNext mem src ≠ me → ringNext mem me ≠ src → ∀ rows, Yields (.fpMsg src rows) s (fun t => t = s)) ∧
        (ringNext mem src = me → src ≠ me → mem.contains src = true → ∀ row w, let own := (s.row row).fpCommitted
          let mismatched (x : CmpRow) (t : State) : Prop := t.est.ctr.fpMismatch = s.est.ctr.fpMismatch + 1 ∧
            t.est.ctr.fpRowsCompared = s.est.ctr.fpRowsCompared + 1 ∧ t.train = s.train ∧ t.cores = s.cores ∧ t.mem = s.mem ∧
            t.coll = { s.coll with flipped := s.coll.flipped.map (fun y => if y.row = row then x else y) }
          ((∀ x ∈ s.coll.flipped, x.row ≠ row) → Yields (.fpMsg src [(row, w)]) s (fun t => t = s)) ∧
          (∀ x, findFirst (fun (y : CmpRow) => decide (y.row = row)) s.coll.flipped = some x → x.ask = none →
            (w = own → Yields (.fpMsg src [(row, w)]) s (fun t =>
              t = { s with est := { s.est with ctr := { s.est.ctr with fpRowsCompared := s.est.ctr.fpRowsCompared + 1 } }, coll := without row })) ∧
            (w ≠ own → 3 ≤ mem.length → onQp v (ringNext mem me) → Yields (.fpMsg src [(row, w)]) s (fun t =>
              mismatched { x with ask := some (src, w) } t ∧
              t.out = s.out ++ [msg v (ringNext mem me) 5 (leBytes 2 row ++ leBytes 4 0 ++ leBytes 4 0)])) ∧
            (w ≠ own → mem.length = 2 → x.peer = none → (s.frd.partnerPresent = true → Yields (.fpMsg src [(row, w)]) s (mismatched { x with ask := some (src, w) })) ∧
              (s.frd.partnerPresent = false → onQp v src → Yields (.fpMsg src [(row, w)]) s (fun t =>
                mismatched { x with ask := some (src, w), mirror := some own } t ∧ t.out = s.out ++ [msg v src 4 (leBytes 2 row ++ leBytes 8 own.toNat)])))) ∧
          (∀ x, findFirst (fun (y : CmpRow) => decide (y.row = row)) s.coll.flipped = some x → x.ask ≠ none → 3 ≤ mem.length →
            Yields (.fpMsg src [(row, w)]) s (fun t => t = s))) ∧
        (ringNext mem me = src → ringNext mem src ≠ me → mem.contains src = true → ∀ row w, let own := (s.row row).fpCommitted
          let repaired (source : Nat) (g : GroupSt) (t : State) : Prop := t.train = s.train ∧ t.mem = s.mem ∧ t.est.ctr.fpUnresolved = s.est.ctr.fpUnresolved ∧
            t.coll = { g with repairs := s.coll.repairs.filter (fun y => y.row ≠ row) ++ [repair row source] }
          let fresh : Prop := ∀ r ∈ s.coll.repairs, r.row = row → r.complete = true
          (∀ x a fa, findFirst (fun (y : CmpRow) => decide (y.row = row)) s.coll.flipped = some x → x.ask = some (a, fa) →
            (own ≠ w → fa ≠ w → Yields (.fpMsg src [(row, w)]) s (fun t => t.est.ctr.fpUnresolved = s.est.ctr.fpUnresolved + 1 ∧
              t.coll = without row ∧ t.train = s.train ∧ t.mem = s.mem ∧ t.out = s.out)) ∧
            (own = w → onQp v a → Yields (.fpMsg src [(row, w)]) s (fun t => t.coll = without row ∧ t.train = s.train ∧ t.mem = s.mem ∧
              t.est.ctr.fpUnresolved = s.est.ctr.fpUnresolved ∧ t.out = s.out ++ [msg v a 4 (leBytes 2 row ++ leBytes 8 w.toNat)])) ∧
            (own ≠ w → fa = w → fresh → Yields (.fpMsg src [(row, w)]) s (repaired src (without row)))) ∧
          ((∀ x ∈ s.coll.flipped, x.row = row → x.ask = none) → (w = own → Yields (.fpMsg src [(row, w)]) s (fun t => t = s)) ∧
            (w ≠ own → fresh → Yields (.fpMsg src [(row, w)]) s (repaired (ringNext mem src) s.coll)))))) ∧
    (∀ src row first len fps, (s.replicaHeard src = false → Yields (.bisect src row first len fps) s (fun t => t = s)) ∧
      (s.replicaHeard src = true → (∀ r ∈ s.coll.repairs, r.row ≠ row) →
        (∀ v, s.coll.lastVote = some v → onQp v src →
          (len = 0 → Yields (.bisect src row first len fps) s (fun t => t.coll = s.coll ∧ t.train = s.train ∧ t.mem = s.mem ∧
            t.out = s.out ++ [msg v src 4 (leBytes 2 row ++ leBytes 8 (s.row row).fpCommitted.toNat)])) ∧
          (len ≠ 0 → Yields (.bisect src row first len fps) s (fun t => t.coll = s.coll ∧ t.train = s.train ∧ t.mem = s.mem ∧
            t.out = s.out ++ [msg v src 5 (leBytes 2 row ++ leBytes 4 first ++ leBytes 4 len ++ fpBytes (s.subFps false row first len))]))) ∧
        (src = mirrorRank → Yields (.bisect src row first len fps) s (fun t =>
          (len = 0 → t = s.sendFp src [(row, s.mirrorFp row)]) ∧
          (len = 1 → fps = [] → t = s.sendBisect src row first 1 (((s.rowBlocks true row)[first]?.map s.blockBytes).getD [])) ∧
          (len ≠ 0 → fps ≠ [] → t = s.sendBisect src row first len (fpBytes (s.subFps true row first len)))))) ∧
      (∀ r, s.replicaHeard src = true →
        findFirst (fun (y : Repair) => decide (y.row = row) && decide (y.source = src) && y.ranges.contains (first, len)) s.coll.repairs = some r →
        fps = s.subFps false row first len → Yields (.bisect src row first len fps) s (fun t => t = { s with coll := { s.coll with
          repairs := s.coll.repairs.map (fun y => if y.row = row then
            { y with ranges := y.ranges.filter (fun z => z ≠ (first, len)),
                     complete := (y.ranges.filter (fun z => z ≠ (first, len))).isEmpty && y.reads.isEmpty } else y) } }))) ∧
    (∀ qpn psn data, let from_ (r : Repair) : Nat := if r.source = mirrorRank then noQpn else match s.coll.lastVote with
        | some v => (lget (noQpn, false) v.group.entries r.source).1
        | none => noQpn
      let up : Bool := if qpn = noQpn then s.frd.linkUp else s.est.linkUp
      let hit := findFirst (fun r => decide (from_ r = qpn) && r.reads.any (fun y => decide (y.1 = psn))) s.coll.repairs
      (hit = none ∨ s.train.token.isSome = true ∨ up = false → Yields (.rdmaReadResponse qpn psn data) s (fun t => t = s)) ∧
      (∀ r b h m j, hit = some r → s.train.token = none → up = true → findFirst (fun (y : Nat × Nat) => decide (y.1 = psn)) r.reads = some (psn, b) →
        (s.rowBlocks false r.row)[b]? = some (h, m, j) → Yields (.rdmaReadResponse qpn psn data) s (fun t =>
          t.mem = (m.writeBlock s j (padTo 4096 data)).mem ∧ t.llc = (m.writeBlock s j (padTo 4096 data)).llc ∧ t.train = s.train ∧ t.cores = s.cores ∧
          t.out = s.out ∧ t.est.ctr.fpRepairedBlocks = s.est.ctr.fpRepairedBlocks + 1 ∧
          (∀ n, (t.qp n).sent = if n = qpn ∧ qpn ≠ noQpn then (s.qp n).sent.filter (fun y => y.psn ≠ psn) else (s.qp n).sent) ∧
          t.coll.repairs = s.coll.repairs.map (fun (y : Repair) => if y.row = r.row then
            { y with reads := y.reads.filter (fun z => z.1 ≠ psn),
                     complete := y.ranges.isEmpty && (y.reads.filter (fun z => z.1 ≠ psn)).isEmpty } else y))))

/-- Addresses, connections and the link. Stage 8 over, a REQ takes a free QP with a key of its own and the smaller MTU, or binds its QP anew; an RTU
establishes it and a DREQ frees it; ARP and neighbour solicitation answer this module's addresses; a link lost retrains at its width, an attempt that
succeeds fixes the width, and one that fails after 2 s goes on with the groups that have no failed lane; stage 7 is over when neither an attempt nor the
tide's lock is waited for (R299 to R302, R316, R318, R424). -/
def Obligations.ConnectionsAndLink : Prop :=
  ∀ s : State,
    let awake : Prop := s.est.linkUp = true ∧ s.spw.asleep = false
    let told (t : State) (m : OutMsg) : Prop := t = { s with est := { s.est with ctr := t.est.ctr }, freeCtr := t.freeCtr, out := s.out ++ [m] } ∧
      t.est.ctr = { s.est.ctr with rxPkts := s.est.ctr.rxPkts + 1, txPkts := s.est.ctr.txPkts + 1, rxBytes := t.est.ctr.rxBytes, txBytes := t.est.ctr.txBytes }
    (∀ a b mac, let yes : Prop := s.est.linkUp = true ∧ s.est.cfg.ipv4En = true ∧ a = s.est.cfg.ipv4
      (¬ yes → Yields (.arpRequest a b mac) s (fun t => t = s)) ∧ (yes → Yields (.arpRequest a b mac) s (fun t => told t (.arpReply a s.est.cfg.mac)))) ∧
    (∀ a b mac, let yes : Prop := s.est.linkUp = true ∧ s.est.cfg.ipv6En = true ∧ a = s.est.cfg.ipv6
      (¬ yes → Yields (.neighborSolicitation a b mac) s (fun t => t = s)) ∧
      (yes → Yields (.neighborSolicitation a b mac) s (fun t => told t (.neighborAdvert a s.est.cfg.mac)))) ∧
    (∀ pkey id_ peer mtu rqpn rkey raddr, let c := Instr.cmReq pkey id_ peer mtu rqpn rkey raddr
      (s.est.linkUp = false ∨ s.pins.removing = true ∨ pkey ≠ 0xFFFF → Yields c s (fun t => t = s)) ∧
      (pkey = 0xFFFF → awake → s.pins.removing = false → (s.boot.ready = false ∨ s.connQp id_ = none ∧ s.freeQp = none) →
        Yields c s (fun t => ∀ n, Answered s t n (s.qp n) 1 1 [.cmRej id_] id)) ∧
      (pkey = 0xFFFF → awake → s.pins.removing = false → s.boot.ready = true → (∀ n, s.connQp id_ = some n → Yields c s (fun t =>
        Answered s t n { s.qp n with remoteQpn := rqpn, remoteRkey := rkey, remoteAddr := raddr } 1 1 [.cmRep id_ n (s.qp n).rkey (s.qp n).mtu] id)) ∧
        (∀ n, s.connQp id_ = none → s.freeQp = some n → Yields c s (fun t => ∃ key,
          let m := min (if 4096 ≤ mtu then 4096 else if 2048 ≤ mtu then 2048 else 1024) s.est.cfg.mtuBytes
          Answered s t n { Qp.zero with phase := 1, peer := peer, commId := id_, rkey := key, mtu := m, remoteQpn := rqpn, remoteRkey := rkey,
                                        remoteAddr := raddr, rate := ⟨s.portRate, 0⟩, target := ⟨s.portRate, 0⟩ } 1 1 [.cmRep id_ n key m] id)))) ∧
    (∀ id_, (s.connQp id_ = none → Yields (.cmRtu id_) s (fun t => t = s) ∧ Yields (.cmDreq id_) s (fun t => t = s)) ∧
      (∀ n, s.connQp id_ = some n → awake → Yields (.cmRtu id_) s (fun t => Answered s t n { s.qp n with phase := 2 } 1 0 [] id) ∧
        (s.coll.openColls = [] → Yields (.cmDreq id_) s (fun t => Answered s t n Qp.zero 1 1 [.cmDrep id_] id)))) ∧
    (s.est.linkUp = true → Yields .linkDown s (fun t => t = { s with est := { s.est with linkUp := false, retrainDue := true, ctr := t.est.ctr } } ∧
      t.est.ctr = { s.est.ctr with linkDowns := s.est.ctr.linkDowns + 1 })) ∧
    (s.est.linkUp = false → s.est.lanesInUse ≠ [] → Yields .linkRetrainTimer s (fun t => t = { s with est := { s.est with retrainDue := true } })) ∧
    (∀ g rest, s.est.attempts = g :: rest →
      (let u : State := { s with est := { s.est with linkUp := true, lanesTrained := laneMask g, lanesInUse := g, attempts := [], retrainDue := false },
                                 cap := { s.cap with portGbps := 200 * g.length, portLanes := g.length } }
       Yields .linkUp s (fun t => (s.boot.waitLock = false ∨ s.tide.st ≠ 1 → t = u) ∧
         (s.boot.waitLock = true → s.tide.st = 1 → t.est = u.est ∧ t.cap = u.cap ∧ t.boot.waitLock = false ∧ t.boot.stage = 8))) ∧
      (∀ bad, let failed := bad.foldl (fun l k => ninsert k l) s.est.badLanes
        let left := rest.filter (fun g => g.all (fun l => !failed.contains l))
        let u : State := { s with est := { s.est with badLanes := failed, attempts := left, attemptCount := s.est.attemptCount + (if left = [] then 0 else 1) } }
        (left ≠ [] ∨ s.boot.waitLock = false ∨ s.tide.source = 1 ∧ s.tide.st ≠ 1 → Yields (.portAttemptTimeout bad) s (fun t => t = u)) ∧
        (left = [] → s.boot.waitLock = true → (s.tide.source ≠ 1 ∨ s.tide.st = 1) → Yields (.portAttemptTimeout bad) s (fun t =>
          t.est = u.est ∧ t.boot.waitLock = false ∧ t.boot.stage = 8)))) ∧
    (s.est.attempts = [] → s.est.retrainDue = true → s.est.lanesInUse ≠ [] → s.est.linkUp = false → s.unitInReset 8 0 = false →
      Yields .linkUp s (fun t => t = { s with est := { s.est with linkUp := true, retrainDue := false } }))

/-! ### Registers and records (R26 to R31, R379, R394, R413, R441) -/

/-- Blocks of logical cores beyond the active count read as zero and ignore writes, and so do SEQ_ and UPD_ of a partition with no active core (R29). -/
def Obligations.RegistersBeyondActiveCores : Prop :=
  ∀ (s : State) (v : BitVec 64),
    (∀ c off, c < 2048 → s.cap.activeCores ≤ c → off < 0x10000 →
      s.readReg (0x0F0100000000 + 0x10000 * c + off) = 0 ∧ Yields (.registerWrite (0x0F0100000000 + 0x10000 * c + off) v) s (fun t => t = s)) ∧
    (∀ p off b, p < 4 → s.cap.activeCores ≤ 512 * p → off < 0x100000 → (b = 0 ∨ b = 7) →
      s.readReg (csrBase + 0x1000000 * b + 0x100000 * p + off) = 0 ∧
      Yields (.registerWrite (csrBase + 0x1000000 * b + 0x100000 * p + off) v) s (fun t => t = s))

/-- Register writes. After stage 8 only VEC_FLAGS takes one, cleared by ones. Before, a locked field takes its value, an illegal one as the register
says: clocks on their grid, a period that divides a second or 100 µs, limits at their ends; a block without locked fields ignores writes. An access
outside every window is counted and does nothing (R11, R12, R26, R31, R66, R413). -/
def Obligations.RegisterWrites : Prop :=
  ∀ (s : State) (v : BitVec 64),
    let f (hi lo : Nat) : Nat := bitsOf v.toNat hi lo
    let clamp (lo hi n : Nat) : Nat := max lo (min hi n)
    let sets (block off : Nat) (P : State → Prop) : Prop := Yields (.registerWrite (csrBase + 0x1000000 * block + off) v) s P
    (∀ c, c < 2048 → c < s.cap.activeCores → s.coreInReset c = false →
      Yields (.registerWrite (0x0F0100004010 + 0x10000 * c) v) s (fun t => t = { s with cores := t.cores } ∧
        t.core c = { s.core c with vec := { (s.core c).vec with flags := (s.core c).vec.flags &&& ~~~(v.setWidth 7) } } ∧ ∀ k, k ≠ c → t.core k = s.core k)) ∧
    (s.boot.ready = true → ∀ a, (0x0F0108000000 ≤ a ∨ a < 0x0F0100000000 ∨ a % 0x10000 ≠ 0x4010) → Yields (.registerWrite a v) s (fun t => t = s)) ∧
    (s.boot.ready = false →
      (∀ c, c < 2048 → c < s.cap.activeCores → s.coreInReset c = false →
        Yields (.registerWrite (0x0F0100000008 + 0x10000 * c) v) s (fun t => t = { s with cores := t.cores } ∧
          t.core c = { s.core c with mx := { (s.core c).mx with zbSkipEn := v.getLsbD 0, checkEn := v.getLsbD 1 } } ∧ ∀ k, k ≠ c → t.core k = s.core k) ∧
        Yields (.registerWrite (0x0F0100004008 + 0x10000 * c) v) s (fun t => t = { s with cores := t.cores } ∧
          t.core c = { s.core c with vec := { (s.core c).vec with residueEn := v.getLsbD 0 } } ∧ ∀ k, k ≠ c → t.core k = s.core k)) ∧
      (∀ p, p < 4 → 512 * p < s.cap.activeCores → sets 0 (0x100000 * p + 8) (fun t => t = { s with seqs := t.seqs } ∧
        t.seqr p = { s.seqr p with depth := clamp 1 64 (f 6 0), expertPf := v.getLsbD 8 } ∧ ∀ k, k ≠ p → t.seqr k = s.seqr k)) ∧
      (∀ off, off < 0x1000000 → sets 1 off (fun t => t = s) ∧ sets 6 off (fun t => t = s) ∧ sets 15 off (fun t => t = s)) ∧
      sets 2 8 (fun t => t = { s with dlt := { s.dlt with pfEn := v.getLsbD 0, pfBudgetMib := clamp 1 192 (f 15 8) } }) ∧
      sets 3 0 (fun t => t = { s with llc := { s.llc with pinQuota := min 12 (f 3 0), strictDead := v.getLsbD 4, thrashPct := min 100 (f 14 8),
                                                          thrashMarks := max 1 (f 31 16) } }) ∧
      (∀ k, k < 8 → sets 4 (0x100000 * k + 8) (fun t => t = { s with nt := t.nt } ∧ tget MemCtl.zero t.nt k = { tget MemCtl.zero s.nt k with scrubHours := f 7 0 })) ∧
      (∀ k, k < 24 → sets 5 (0x80000 * k + 8) (fun t => t = { s with dt := t.dt } ∧ tget MemCtl.zero t.dt k = { tget MemCtl.zero s.dt k with scrubHours := f 7 0 })) ∧
      (0 < s.cap.activeCores → sets 7 8 (fun t => t = { s with train := { s.train with checkEn := v.getLsbD 0 } })) ∧
      sets 8 8 (fun t => t = { s with est := { s.est with cfg := t.est.cfg } } ∧ t.est.cfg = { s.est.cfg with
        mtuMax := if f 2 0 = 3 ∨ f 2 0 = 4 then f 2 0 else 5, vlanEn := v.getLsbD 3, vlanId := f 15 4, pcp := f 18 16, dscp := f 24 19, ipv4En := v.getLsbD 25,
        ipv6En := v.getLsbD 26, ackTimeout := max 1 (f 31 27), retryCnt := f 34 32, cnpIntervalUs := max 1 (f 63 48) }) ∧
      sets 8 0x10 (fun t => t = { s with est := { s.est with cfg := { s.est.cfg with mac := v.setWidth 48 } } }) ∧
      sets 8 0x18 (fun t => t = { s with est := { s.est with cfg := { s.est.cfg with ipv4 := v.setWidth 32, ipv4Len := min 32 (f 37 32) } } }) ∧
      sets 8 0x20 (fun t => t = { s with est := { s.est with cfg := { s.est.cfg with ipv6 := t.est.cfg.ipv6 } } } ∧
        t.est.cfg.ipv6 = (s.est.cfg.ipv6 &&& ~~~(0xFFFFFFFFFFFFFFFF#128)) ||| v.setWidth 128) ∧
      sets 8 0x28 (fun t => t = { s with est := { s.est with cfg := { s.est.cfg with ipv6 := t.est.cfg.ipv6 } } } ∧
        t.est.cfg.ipv6 = (s.est.cfg.ipv6 &&& 0xFFFFFFFFFFFFFFFF#128) ||| (v.setWidth 128 <<< 64)) ∧
      sets 9 8 (fun t => t = { s with frd := { s.frd with side := v.getLsbD 0 } }) ∧
      sets 9 0x10 (fun t => t = { s with frd := { s.frd with mirrorBase := v.toNat } }) ∧
      sets 9 0x18 (fun t => t = { s with frd := { s.frd with pairKey := v } }) ∧
      sets 10 0 (fun t => let p := f 29 16
        t = { s with tide := { s.tide with source := f 1 0, periodUs := if 10 ≤ p ∧ p ≤ 10000 ∧ p % 10 = 0 ∧ 1000000 % p = 0 then p else 100, domain := f 38 32 } }) ∧
      sets 11 0 (fun t => let o := [f 13 12, f 15 14, f 17 16]
        t = { s with spw := { s.spw with capW := clamp 1200 2400 (f 11 0), boostEn := v.getLsbD 18,
                                         cutOrder := if 0 ∈ o ∧ 1 ∈ o ∧ 2 ∈ o then o else [0, 1, 2] } }) ∧
      sets 11 8 (fun t => t = { s with spw := { s.spw with freqBase := clamp 600 1000 (f 10 0 / 50 * 50), boostMax := clamp 1000 1100 (f 26 16 / 50 * 50),
                                                           droopMv := clamp 20 80 (f 38 32), slackIdleMarks := f 63 40 } }) ∧
      sets 12 8 (fun t => t = { s with jui := { s.jui with closeMarks := max 1 (f 31 0) } }) ∧
      sets 12 0x10 (fun t => t = { s with jui := { s.jui with ringBase := f 47 8 * 256 } }) ∧
      (∀ c, c < 8 → s.jui.weights.length = 8 → sets 12 (0x100 + 8 * c) (fun t => t = { s with jui := { s.jui with weights := t.jui.weights } } ∧
        lget 0 t.jui.weights c = f 15 0 ∧ ∀ k, k ≠ c → lget 0 t.jui.weights k = lget 0 s.jui.weights k)) ∧
      sets 13 8 (fun t => t = { s with gau := { s.gau with sbMode := v.getLsbD 0, sbAddr := f 7 1 } }) ∧
      sets 13 0x10 (fun t => t = { s with gau := { s.gau with errRingBase := f 47 6 * 64 } }) ∧
      sets 13 0x18 (fun t => t = { s with gau := { s.gau with attestBase := f 47 9 * 512 } }) ∧
      sets 13 0x20 (fun t => t = { s with gau := { s.gau with stageBase := f 47 12 * 4096 } }) ∧
      sets 14 8 (fun t => t = { s with boot := { s.boot with reportBase := f 47 12 * 4096 } })) ∧
    (∀ a w, let mapped : Prop := s.inWindow a = true ∨ csrBase ≤ a ∧ a < 0x0F0108000000
      (mapped → Yields (.unmappedAccess a w) s (fun t => t = s)) ∧
      (¬ mapped → Yields (.unmappedAccess a w) s (fun t => t = { s with gau := { s.gau with unmapped := s.gau.unmapped + 1 } })))

/-- Records reach memory and flash in order. The error ring takes the oldest record at its place, skipped outside every window; the log takes the
oldest entry and, when full, loses oldest ones first; a ledger record is chained to the one before, signed, and written to its ring place, or counted
lost; none is written before stage 8 or asleep (R379, R384, R385, R394, R441, R442). -/
def Obligations.RecordWrites : Prop :=
  ∀ s : State,
    (∀ r rest, s.gau.ringQueue = r :: rest → let a := s.gau.errRingBase + 64 * (r.errSeq % 65536)
      (s.gau.up = false ∨ s.spw.asleep = true → Yields .errorRingWrite s (fun t => t = s)) ∧
      (s.gau.up = true → s.spw.asleep = false → s.inWindow a = false → Yields .errorRingWrite s (fun t => t = { s with gau := { s.gau with ringQueue := rest } })) ∧
      (s.gau.up = true → s.spw.asleep = false → s.cacheOk → s.cutLen a 64 = 64 → (∀ i, i < 64 → deviceOnly (a + i) = false) →
        Yields .errorRingWrite s (fun t => WroteBytes s t a r.bytes ∧ t.gau = { s.gau with ringQueue := rest } ∧ t.cores = s.cores ∧
          (a + 64 ≤ ringBase ∨ bootBase ≤ a → t.queues = s.queues)))) ∧
    (∀ e rest, s.gau.logPending = e :: rest → (s.gau.up = false → Yields .logFlashWrite s (fun t => t = s)) ∧
      (s.gau.up = true → Yields .logFlashWrite s (fun t => ∃ kept lost, s.gau.log = lost ++ kept ∧
        t = { s with gau := { s.gau with logPending := rest, log := kept ++ [e], logEntries := s.gau.logEntries + 1 } } ∧
        ((s.gau.log.map entryLen).sum + entryLen e ≤ 12517376 → lost = []) ∧
        (12517376 < (s.gau.log.map entryLen).sum + entryLen e → 65536 ≤ (lost.map entryLen).sum ∨ kept = [])))) ∧
    (s.jui.queued = [] ∨ s.boot.ready = false ∨ s.spw.asleep = true → Yields .ledgerRecordWrite s (fun t => t = s)) ∧
    (∀ r rest, s.jui.queued = r :: rest → s.boot.ready = true → s.spw.asleep = false →
      let m := r ++ padTo 32 s.jui.prevHash
      let full := m ++ s.signWith true m
      let a := s.jui.ringBase + 256 * (fieldAt full 8 8 % 1048576)
      (s.inWindow a = false → Yields .ledgerRecordWrite s (fun t => t = { s with jui := t.jui, gau := t.gau } ∧
        t.jui = { s.jui with queued := rest, prevHash := sha256 full, ringLost := s.jui.ringLost + 1 } ∧ (fieldAt full 2 1 < 2 → t.gau = s.gau) ∧
        (2 ≤ fieldAt full 2 1 → t.gau.savedRecord = full))) ∧
      (s.cacheOk → 0 < s.cutLen a full.length → (∀ i, i < full.length → deviceOnly (a + i) = false) → Yields .ledgerRecordWrite s (fun t =>
        WroteBytes s t a (full.take (s.cutLen a full.length)) ∧ t.jui = { s.jui with queued := rest, prevHash := sha256 full } ∧ t.cores = s.cores ∧
        (2 ≤ fieldAt full 2 1 → t.gau.savedRecord = full))))

/-- No energy is lost: a meter sample is added exactly to the open sum; at a mark the interval's energy is the whole nanojoules of that sum, and the
fraction stays in it (R369). -/
def Obligations.EnergyIsExact : Prop :=
  ∀ s : State, s.jui.running = true →
    (∀ energy ma, Yields (.meterSample energy ma) s (fun t => t.jui = { s.jui with acc := s.jui.acc + energy })) ∧
    (s.tide.rest = false → Yields .tideMark s (fun t => ∃ e, s.jui.acc = 65536 * e + t.jui.acc ∧ t.jui.acc < 65536 ∧
      t.jui.totalIn = (s.jui.totalIn + e) % 2 ^ 64))

/-! ### The tide (R62 to R79) and power (R349 to R367) -/

/-- What a measured offset does to a tide: the offset joins the last eight and their filter is the offset shown; during a slew, a pause or a step it joins
none. A LOCKED tide stays locked while the filter is within 1 µs; at the fourth beyond it the input is lost, and with it the lock unless PTP_PPS has the other. In bring-up
a first full history brings count and phase to the source: the phase alone at an equal count or with SOURCE PPS, a forward step above it, a pause below. Eight good offsets in a row
lock; after bring-up a full history off by more than 100 ns corrects the frequency and slews, beyond 1 ms it steps forward or pauses; else only the history grows. A lock ends
stage 7 once its port attempts are over (R69, R70, R73, R74; how the history enters the filter and the frequency is free: notes/assumptions/44, 45). -/
def Obligations.TideMeasures : Prop :=
  ∀ (s : State) (off : Int) (domain src seqId : Nat),
    let heard : Prop := s.tide.source ≠ 1 ∧ domain = s.tide.domain ∧ s.est.linkUp = true ∧ s.jui.running = true ∧ s.tide.master = some src
    let lat := Config.portLatency s.est.lanesInUse.length
    let measured (c : Instr) (pre : TideSt) (pps : Bool) (o : Int) (fin : TideSt → TideSt) (msgs : List OutMsg) : Prop :=
      let offs := (o :: pre.offsets).take 8
      let good := if o.natAbs ≤ 100 then pre.good + 1 else 0
      let bad := if 1000 < (Config.tideFilter offs).natAbs then pre.bad + 1 else 0
      let y : TideSt := { pre with offsets := offs, offsetNs := Config.tideFilter offs, good := good, bad := bad }
      let period := pre.periodUs * 1000
      let local_ := pre.count * period + pre.phaseNs
      let lost (z : TideSt) : TideSt := { z with st := 2, offsets := [], good := 0, bad := 0 }
      let tuned : TideSt := { y with freqPpb := pre.freqPpb + Config.tideDiscipline offs }
      let moved (z : TideSt) : TideSt := { z with steps := pre.steps + 1, intervalStep := true, offsets := [], good := 0 }
      let target := (local_ + o.natAbs) / period + 1
      let busy : Prop := pre.slewing = true ∨ pre.paused = true ∨ pre.stepTo ≠ none
      let first : Prop := s.boot.ready = false ∧ pre.stepped = false
      let becomes (z : TideSt) : Prop := Yields c s (fun t => t.tide = fin z ∧ t.out = s.out ++ msgs ∧
        (s.boot.waitLock = false ∨ s.est.attempts ≠ [] ∨ z.st ≠ 1 → t = { s with tide := fin z, out := s.out ++ msgs }) ∧
        (s.boot.waitLock = true → s.est.attempts = [] → z.st = 1 → t.boot.waitLock = false ∧ t.boot.stage = 8 ∧ t.est = s.est ∧ t.mem = s.mem))
      (busy → becomes { y with offsets := [], good := 0 }) ∧
      (¬ busy → pre.st = 1 → (bad < 4 → becomes y) ∧ (4 ≤ bad → (pre.source ≠ 2 → becomes (lost y)) ∧
        (pre.source = 2 → pps = true → (pre.ptpOk = true → becomes { y with ppsOk := false, offsets := [], good := 0, bad := 0 }) ∧
          (pre.ptpOk = false → becomes (lost { y with ppsOk := false }))) ∧
        (pre.source = 2 → pps = false → (pre.ppsOk = true → becomes { y with ptpOk := false, offsets := [], good := 0, bad := 0 }) ∧
          (pre.ppsOk = false → becomes (lost { y with ptpOk := false }))))) ∧
      (¬ busy → pre.st ≠ 1 → first → (offs.length < 8 → becomes y) ∧ (offs.length = 8 →
        let z : TideSt := moved { tuned with stepped := true }
        let phase := (((pre.phaseNs : Int) - o) % (period : Int)).toNat
        let count := ((local_ : Int) - o) / (period : Int)
        (pre.source = 1 ∨ count = pre.count → becomes { z with phaseNs := phase }) ∧
        (pre.source ≠ 1 → (pre.count : Int) < count → becomes { z with phaseNs := phase, stepTo := some target }) ∧
        (pre.source ≠ 1 → count < pre.count → becomes { z with paused := true }))) ∧
      (¬ busy → pre.st ≠ 1 → ¬ first →
        (8 ≤ good → becomes { y with st := 1, everLocked := true, bad := 0, intervalUnsync := pre.intervalUnsync || decide (pre.st = 0) || decide (pre.st = 3) }) ∧
        (good < 8 → offs.length = 8 → 100 < o.natAbs →
          (o.natAbs ≤ 1000000 → becomes { tuned with slewing := true, slewNs := o, offsets := [], good := 0 }) ∧
          (o < -1000000 → becomes (moved { tuned with stepTo := some target })) ∧ (1000000 < o → becomes (moved { tuned with paused := true }))) ∧
        (good < 8 → (offs.length < 8 ∨ o.natAbs ≤ 100) → becomes y))
    let synced (d : Int) : TideSt := { s.tide with syncDelta := d, ptpOk := true, syncSeq := none }
    let pulseOnly (o : Int) : Prop := s.tide.source = 2 ∧ s.tide.ppsOk = true ∧ s.tide.everLocked = true ∧ o.natAbs ≤ 1000000
    let asks (z : TideSt) : TideSt := { z with delayReq := some (seqId, z.count * (z.periodUs * 1000) + z.phaseNs - lat) }
    (∀ (li : Int) (two : Bool) (origin rx : Nat), let c := Instr.ptpSync domain src li seqId two origin rx
      (¬ heard ∨ li < -4 ∨ 1 < li → Yields c s (fun t => t = s)) ∧
      (heard → -4 ≤ li → li ≤ 1 → (two = true → Yields c s (fun t =>
          t = { s with tide := asks { s.tide with syncSeq := some (seqId, rx - lat) }, out := s.out ++ [.delayReq seqId] })) ∧
        (two = false → let d : Int := ((rx - lat : Nat) : Int) - (origin : Int)
          (pulseOnly (d - s.tide.pathDelay) → Yields c s (fun t => t = { s with tide := asks (synced d), out := s.out ++ [.delayReq seqId] })) ∧
          (¬ pulseOnly (d - s.tide.pathDelay) → measured c (synced d) false (d - s.tide.pathDelay) asks [.delayReq seqId])))) ∧
    (∀ origin : Nat, let c := Instr.ptpFollowUp domain src seqId origin
      (¬ heard ∨ s.tide.syncSeq.map (·.1) ≠ some seqId → Yields c s (fun t => t = s)) ∧
      (∀ at1 : Nat, heard → s.tide.syncSeq = some (seqId, at1) → let d : Int := (at1 : Int) - (origin : Int)
        (pulseOnly (d - s.tide.pathDelay) → Yields c s (fun t => t = { s with tide := synced d })) ∧
        (¬ pulseOnly (d - s.tide.pathDelay) → measured c (synced d) false (d - s.tide.pathDelay) id []))) ∧
    (let c := Instr.tidePpsPulse off;
      let took : TideSt := { s.tide with ppsSeen := true, ppsOk := true }
      (s.jui.running = false → Yields c s (fun t => t = s)) ∧
      (s.jui.running = true → s.tide.ppsSeen = true → 10000 < off.natAbs → Yields c s (fun t => t = { s with tide := { s.tide with ppsReject := s.tide.ppsReject + 1 } })) ∧
      (s.jui.running = true → (s.tide.ppsSeen = false ∨ off.natAbs ≤ 10000) →
        (¬ (s.tide.source = 1 ∨ s.tide.source = 2 ∧ s.tide.everLocked = true) → Yields c s (fun t => t = { s with tide := took })) ∧
        (s.tide.source = 1 ∨ s.tide.source = 2 ∧ s.tide.everLocked = true → measured c took true off id [])))

/-- Marks and the tide's timeouts. A mark goes to the next count, or to the one a forward step names; a pause ends; part of a slew is removed; the
cores, queues and weirs stand when a COMMIT is to act at it. An Announce is kept by its sender, and the best of the qualified masters and the one selected is selected; the
path delay is half the sum of both ways; a lost source
leaves HOLDOVER, which 60 s make LOST; 10 s without a lock end stage 7 (R63, R64, R67, R69, R70, R73 to R75, R77; the rate of a slew and what qualifies a master are the
model's: notes/assumptions/44). -/
def Obligations.TideMarksAndTimeouts : Prop :=
  ∀ s : State,
    let n := max (s.tide.count + 1) (s.tide.stepTo.getD 0)
    let hears (domain : Nat) : Prop := s.tide.source ≠ 1 ∧ domain = s.tide.domain ∧ s.est.linkUp = true ∧ s.jui.running = true
    let lose (x : TideSt) : TideSt := { x with st := if x.st = 1 then 2 else x.st, offsets := [], good := 0, bad := 0 }
    (s.jui.running = false ∨ s.tide.rest = true → Yields .tideMark s (fun t => t = s)) ∧
    (s.jui.running = true → s.tide.rest = false → Yields .tideMark s (fun t => t.tide.count = n ∧ t.tide.phaseNs = 0 ∧ t.tide.stepTo = none ∧ t.tide.paused = false ∧
      t.tide.unsyncMarks = s.tide.unsyncMarks + (if s.tide.st = 0 ∨ s.tide.st = 3 then 1 else 0) ∧ t.tide.source = s.tide.source ∧ t.tide.periodUs = s.tide.periodUs ∧
      (s.tide.slewing = true → 0 < s.tide.slewNs → t.tide.slewNs = max 0 (s.tide.slewNs - (s.tide.periodUs / 10 : Nat))) ∧
      (∀ h, s.train.token = some h → h.acted = false → h.tideMark ≤ n → h.reachMark < n → t.tide.rest = true ∧ t.weirs = s.weirs ∧ t.mem = s.mem ∧
        t.llc = s.llc ∧ t.train = s.train ∧ t.spw = s.spw ∧ t.coll = s.coll) ∧
      (s.train.token = none → t.tide.rest = false))) ∧
    (∀ (domain : Nat) (ds : Announce), let c := Instr.ptpAnnounce domain ds
      let was := ((findFirst (fun (m : Foreign) => decide (m.sender = ds.sender)) s.tide.masters).map (·.heard)).getD []
      let all := s.tide.masters.filter (fun m => m.sender ≠ ds.sender) ++ [{ sender := ds.sender, data := ds, heard := s.nowNs :: was.take 1 }]
      let may (m : Foreign) : Prop := m.qualified s.nowNs = true ∨ s.tide.master = some m.sender
      (¬ hears domain → Yields c s (fun t => t = s)) ∧
      (hears domain → Yields c s (fun t => t = { s with tide := { s.tide with masters := all, master := t.tide.master, syncSeq := t.tide.syncSeq, delayReq := t.tide.delayReq } } ∧
        (t.tide.master = s.tide.master → t.tide.syncSeq = s.tide.syncSeq ∧ t.tide.delayReq = s.tide.delayReq) ∧
        (t.tide.master ≠ s.tide.master → t.tide.syncSeq = none ∧ t.tide.delayReq = none) ∧
        ((∀ m ∈ all, ¬ may m) → t.tide.master = none) ∧
        ((∃ m ∈ all, may m) → ∃ m ∈ all, may m ∧ t.tide.master = some m.sender ∧
          ((∀ a ∈ all, ∀ b ∈ all, a.data.grandmaster = b.data.grandmaster → a.data.priority1 = b.data.priority1 ∧ a.data.clockClass = b.data.clockClass ∧
              a.data.accuracy = b.data.accuracy ∧ a.data.variance = b.data.variance ∧ a.data.priority2 = b.data.priority2) →
            ∀ b ∈ all, may b → announceBeats b.data m.data = false))))) ∧
    (∀ (domain src seqId rx : Nat), let c := Instr.ptpDelayResp domain src seqId rx
      (¬ hears domain ∨ s.tide.master ≠ some src ∨ s.tide.delayReq.map (·.1) ≠ some seqId → Yields c s (fun t => t = s)) ∧
      (∀ t3, hears domain → s.tide.master = some src → s.tide.delayReq = some (seqId, t3) → Yields c s (fun t =>
        t = { s with tide := { s.tide with delayReq := none, pathDelay := (s.tide.syncDelta + ((rx : Int) - (t3 : Int))) / 2 } }))) ∧
    (s.tide.source = 1 → Yields .syncLossTimeout s (fun t => t = s) ∧ Yields .announceReceiptTimeout s (fun t => t = s)) ∧
    (s.tide.source ≠ 1 → let x : TideSt := { s.tide with ptpOk := false, syncSeq := none }
      let z : TideSt := { x with masters := s.tide.masters.filter (fun m => s.tide.master ≠ some m.sender), master := none }
      let pps : Prop := s.tide.source = 2 ∧ s.tide.ppsOk = true
      let alone : Prop := ∀ m ∈ s.tide.masters, s.tide.master = some m.sender ∨ m.qualified s.nowNs = false
      (pps → Yields .syncLossTimeout s (fun t => t = { s with tide := x }) ∧ (alone → Yields .announceReceiptTimeout s (fun t => t = { s with tide := z }))) ∧
      (¬ pps → Yields .syncLossTimeout s (fun t => t = { s with tide := lose x }) ∧
        (alone → Yields .announceReceiptTimeout s (fun t => t = { s with tide := lose z }))) ∧
      Yields .announceReceiptTimeout s (fun t => t = { s with tide := t.tide } ∧ t.tide.masters = z.masters ∧ t.tide.ptpOk = false ∧
        (∀ w, t.tide.master = some w → ∃ m ∈ z.masters, m.sender = w ∧ m.qualified s.nowNs = true) ∧
        t.tide.st = if s.tide.st = 1 ∧ ¬ (s.tide.source = 2 ∧ s.tide.ppsOk = true) then 2 else s.tide.st)) ∧
    (let x : TideSt := { s.tide with ppsOk := false };
      let uses : Prop := s.tide.source = 1 ∨ s.tide.source = 2 ∧ s.tide.ptpOk = false
      (¬ uses → Yields .ppsAbsentTimeout s (fun t => t = { s with tide := x })) ∧ (uses → Yields .ppsAbsentTimeout s (fun t => t = { s with tide := lose x }))) ∧
    (s.tide.st ≠ 2 → Yields .holdoverTimeout s (fun t => t = s)) ∧
    (s.tide.st = 2 → Yields .holdoverTimeout s (fun t => t = { s with tide := { s.tide with st := 3, intervalUnsync := true } })) ∧
    (s.boot.waitLock = false ∨ s.est.attempts ≠ [] → Yields .tideLockTimeout s (fun t => t = s)) ∧
    (s.boot.waitLock = true → s.est.attempts = [] → Yields .tideLockTimeout s (fun t => t.boot.waitLock = false ∧ t.boot.stage = 8 ∧
      (tget [] t.boot.reports 7).length = 128 ∧ t.tide = s.tide ∧ t.est = s.est ∧ t.frd = s.frd ∧ t.mem = s.mem ∧
      t.gau.logPending.length = s.gau.logPending.length + 1))

/-- Power. A sample moves the bucket by what exceeds the cap, between empty and full, and a 16 µs mean above 2,800 W cuts the clamp at once; a DVFS
step comes into force and its 50 MHz steps count; a droop clamps the pulses to 4 of 16, holds the clock and cancels a rise, and is released by
sixteenths up to the level the other sources set; readings are kept, and too hot a one in the hold ends it (R349, R350, R356, R358, R366,
R439, R440; what counts as a cancelled rise is the model's reading: notes/assumptions/47). -/
def Obligations.PowerEvents : Prop :=
  ∀ s : State,
    let x := s.spw
    (∀ energy ma, Yields (.meterSample energy ma) s (fun t =>
      let full := (2800 - x.capW) * 10000 * wattSample
      let peak : Prop := 8 * 2800 * wattSample < ((energy :: x.samples).take 8).sum
      t = { s with spw := t.spw, jui := t.jui } ∧ t.spw.samples = (energy :: x.samples).take 500 ∧ t.spw.currents = (ma :: x.currents).take 8 ∧
      t.spw.sampleNo = x.sampleNo + 1 ∧ t.spw.bucket = min full (x.bucket + energy - x.capW * wattSample) ∧
      (t.spw.bucket = full → t.spw.bucketFull = true) ∧ (t.spw.bucket = 0 → full ≠ 0 → t.spw.bucketFull = false) ∧
      (peak → t.spw.lvPeak = max 4 (x.lvPeak - 4) ∧ t.spw.peakEvents = x.peakEvents + 1) ∧ (¬ peak → x.lvPeak ≤ t.spw.lvPeak ∨ 16 = t.spw.lvPeak) ∧
      (¬ peak → t.spw.peakEvents = x.peakEvents) ∧ t.spw.freq = x.freq ∧ t.spw.target = x.target ∧ t.spw.memLevel = x.memLevel ∧ t.spw.linkLevel = x.linkLevel)) ∧
    (x.inFlight = none → Yields .dvfsStepInForce s (fun t => t = s)) ∧
    (∀ o n, x.inFlight = some (o, n) → Yields .dvfsStepInForce s (fun t => t = { s with spw := t.spw } ∧
      t.spw = { x with freq := n, inFlight := none, coreMv := max (gridMv n) (gridMv x.target), stepsUp := x.stepsUp + (n - o) / 50, stepsDown := x.stepsDown + (o - n) / 50 })) ∧
    (x.inFlight = none → Yields .droopDetect s (fun t => t = { s with spw := t.spw } ∧
      t.spw = { x with droops := x.droops + 1, lvDroop := 4, target := min x.target x.freq, coreMv := gridMv x.freq, droopCancels := t.spw.droopCancels } ∧
      t.spw.droopCancels = x.droopCancels + (if x.freq < x.target then 1 else 0))) ∧
    (∀ o n, x.inFlight = some (o, n) → Yields .droopDetect s (fun t => t = { s with spw := t.spw } ∧
      t.spw = { x with droops := x.droops + 1, lvDroop := 4, inFlight := some (o, min o n), target := min x.target (min o n), coreMv := t.spw.coreMv, droopCancels := t.spw.droopCancels } ∧
      t.spw.coreMv = max (gridMv x.freq) (gridMv (min o n)) ∧ t.spw.droopCancels = x.droopCancels + (if n < x.target then 1 else 0))) ∧
    (let others := min x.lvPeak (min x.lvCurrent (min x.lvBucket (min x.lvSlow (min x.lvThermal x.lvCoolant))));
      (others ≤ x.lvDroop + 1 → Yields .droopRelease s (fun t => t = { s with spw := { x with lvDroop := 16 } })) ∧
      (x.lvDroop + 1 < others → Yields .droopRelease s (fun t => t = { s with spw := { x with lvDroop := x.lvDroop + 1 } }))) ∧
    (∀ rs, Yields (.railSample rs) s (fun t => t = { s with gau := { s.gau with rails := t.gau.rails } } ∧
      ∀ i, tget (0, 0) t.gau.rails i = if i < 9 ∧ i < rs.length then lget (0, 0) rs i else (0, 0))) ∧
    (∀ js ms, (s.gau.up = false → Yields (.tempSample js ms) s (fun t => t = s)) ∧
      (s.gau.up = true → (x.stop ≠ 1 ∨ x.dead = true ∨ (∀ v ∈ js ++ ms, v ≤ 1360)) → Yields (.tempSample js ms) s (fun t =>
        t = { s with gau := { s.gau with temps := t.gau.temps, memTemps := t.gau.memTemps, tempsValid := true } } ∧
        (∀ i, tget 0 t.gau.temps i = if i < 96 then lget 0 js i else 0) ∧ (∀ i, tget 0 t.gau.memTemps i = if i < 32 then lget 0 ms i else 0))) ∧
      (s.gau.up = true → x.stop = 1 → x.dead = false → (∃ v ∈ ms.take 32, 1360 < v) ∨ (∃ i, 64 ≤ i ∧ i < 80 ∧ 1680 < lget 0 js i) → Yields (.tempSample js ms) s (fun t =>
        t.spw.dead = true ∧ t.boot.ready = false ∧ t.mem = [] ∧ t.jui.running = false)))

/-- Stops. Flow lost after stage 8 stops the cores and begins the hold; 60 s end it, its memory lost; with 100 ms of flow and at most 60 °C the device
resumes at its base clock; a point at 110 °C trips, and so ends the device until a cold reset; slack takes the cache and the clock away and gives the
clock back at the wake (R360, R364 to R367, R467). -/
def Obligations.StopEvents : Prop :=
  ∀ s : State,
    let x := s.spw
    (s.boot.ready = true → x.stop = 0 → Yields .flowOkDeassert s (fun t => t.pins = { s.pins with flowOk := false } ∧ t.spw.stop = 1 ∧
      t.spw.coolantStops = x.coolantStops + 1 ∧ t.spw.freq = 0 ∧ t.spw.lvCoolant = 0 ∧ t.frd.linkUp = false ∧ t.frd.partnerPresent = false ∧ t.weirs = s.weirs ∧
      (∀ c ∈ t.mem, c.1 < shoalBase))) ∧
    ((s.boot.ready = true ∧ x.stop ≠ 0) ∨ (s.boot.ready = false ∧ s.boot.running = false) → Yields .flowOkDeassert s (fun t =>
      t = { s with pins := { s.pins with flowOk := false } })) ∧
    (s.pins.flowOk = true → Yields .flowOkAssert s (fun t => t = s)) ∧
    (s.pins.flowOk = false → Yields .flowOkAssert s (fun t => t = { s with pins := { s.pins with flowOk := true, p3v3 := true }, spw := { x with flowAt := s.nowNs } })) ∧
    (x.stop ≠ 1 ∨ x.dead = true → Yields .coolantHoldTimeout s (fun t => t = s)) ∧
    (x.stop = 1 → x.dead = false → Yields .coolantHoldTimeout s (fun t => t.spw.dead = true ∧ t.spw.stop = 1 ∧ t.boot.ready = false ∧ t.mem = [] ∧ t.cores = [] ∧
      t.queues = [] ∧ t.weirs = [] ∧ t.jui.running = false ∧ t.pins = s.pins ∧ t.pending = s.pending)) ∧
    (∀ k late, (x.stop ≠ 1 ∨ x.dead = true ∨ s.pins.flowOk = false ∨ 960 < s.hottest → Yields (.coolantResume k late) s (fun t => t = s)) ∧
      (x.stop = 1 → x.dead = false → s.pins.flowOk = true → s.hottest ≤ 960 → (∀ e ∈ late, e.2 ≤ 8) → Yields (.coolantResume k late) s (fun t =>
        t.spw.stop = 0 ∧ t.spw.lvCoolant = 16 ∧ t.spw.freq = x.freqBase ∧ t.spw.target = x.freqBase ∧ t.pins = s.pins ∧ t.tide = s.tide ∧ t.weirs = s.weirs ∧
        (∀ p, p < 4 → 512 * p < s.cap.activeCores → t.rst.active.contains (2, p) = false)))) ∧
    (∀ k late, (x.slack ≠ 3 → Yields (.slackWakeEnd k late) s (fun t => t = s)) ∧
      (x.slack = 3 → (∀ e ∈ late, e.2 ≤ 8) → Yields (.slackWakeEnd k late) s (fun t =>
        t.spw = { x with slack := 0, freq := x.slackFreq, target := x.slackFreq, coreMv := gridMv x.slackFreq } ∧ t.queues = s.queues ∧ t.weirs = s.weirs ∧
        t.tide = s.tide ∧ t.mem = s.mem))) ∧
    (x.slack ≠ 1 → Yields .slackEntryDone s (fun t => t = s)) ∧
    (x.slack = 1 → s.tablesOk → s.cacheOk → Yields .slackEntryDone s (fun t => (∀ a, t.peek a = s.peek a) ∧ (∀ p, (t.line p).resident = false) ∧
      t.spw = { x with slack := if x.slackWake = true then 3 else 2, slackWake := false, freq := 0, target := 0, coreMv := 0, inFlight := none } ∧
      (∀ c, (t.core c).scratch = [] ∧ (t.core c).vec.prog = [] ∧ (t.core c).bsn = (s.core c).bsn) ∧ t.queues = s.queues ∧ t.weirs = s.weirs)) ∧
    (∀ point, (x.stop = 2 ∨ s.pins.switchOn = false → Yields (.thermalTrip point) s (fun t => t = s)) ∧
      (x.stop ≠ 2 → s.pins.switchOn = true → s.boot.running = false → Yields (.thermalTrip point) s (fun t =>
        t.spw.dead = true ∧ t.spw.stop = 2 ∧ t.spw.trips = x.trips + 1 ∧ t.boot.ready = false ∧ t.boot.flash = s.boot.flash ∧ t.mem = [] ∧ t.cores = [] ∧ t.queues = [] ∧
        t.jui.running = false ∧ t.pins = s.pins ∧ t.gau.log = s.gau.log)))

/-! ### Faults and resets (R398 to R405, R430 to R437) -/

/-- Resets of cores, clusters, partitions and base-die units. Before stage 8 one is refused and logged; one inside a running reset merges with it; else it
runs: cores in its scope keep their scratch, program and configuration and nothing else, and commands it ends wait for replay or are done FAULT or RESET;
a unit's counters are cleared. A completed reset counts and its scope is served again; an ended command is replayed at most once more each time
(R403 to R405, R430 to R437). -/
def Obligations.ScopedResets : Prop :=
  ∀ (s : State) (inst : Nat),
    let sameQueues (t : State) : Prop := ∀ q, t.queue q = { s.queue q with tally := (t.queue q).tally }
    let begins (c : Instr) (level i : Nat) (fault : Bool) : Prop :=
      (s.boot.ready = false → Yields c s (fun t => t = { s with gau := t.gau } ∧ t.gau.logPending.length = s.gau.logPending.length + 1)) ∧
      (s.boot.ready = true → (∃ r ∈ s.rst.active, resetWithin level i r.1 r.2 = true) → Yields c s (fun t => t = { s with rst := { s.rst with merged := s.rst.merged + 1 } })) ∧
      (s.boot.ready = true → (∀ r ∈ s.rst.active, resetWithin level i r.1 r.2 = false) → s.tablesOk → Yields c s (fun t =>
        t.rst.active = s.rst.active.filter (fun r => !resetWithin r.1 r.2 level i) ++ [(level, i)] ∧ t.weirs = s.weirs ∧ sameQueues t ∧ t.tide = s.tide ∧
        t.boot = s.boot ∧ t.pins = s.pins ∧ t.cap = s.cap ∧ t.oxb = s.oxb ∧
        (∀ k, inScope level i k = true → (t.core k).scratch = (s.core k).scratch ∧ (t.core k).bsn = .zero ∧ (t.core k).slc = .zero ∧
          (t.core k).mx = { MxSt.zero with zbSkipEn := (s.core k).mx.zbSkipEn, checkEn := (s.core k).mx.checkEn } ∧
          (t.core k).vec = { VecSt.zero with prog := (s.core k).vec.prog, progBase := (s.core k).vec.progBase, residueEn := (s.core k).vec.residueEn }) ∧
        ((∀ k, (s.core k).dma = DmaSt.zero) → ∀ q n e, s.entry q n = some e → s.resetEnds level i e = true → e.ended = false → ∃ x, t.entry q n = some x ∧ x.cmd = e.cmd ∧
          (e.mayReplay = true → x.ended = true) ∧ (e.mayReplay = false → x.ran = true ∧ x.result = [] ∧ x.code = e.endCode fault))))
    (s.cap.activeCores ≤ inst → s.boot.ready = true → Yields (.coreReset inst) s (fun t => t = s)) ∧
    (inst < s.cap.activeCores ∨ s.boot.ready = false → begins (.coreReset inst) 0 inst false) ∧
    (s.cap.activeCores ≤ 16 * inst → s.boot.ready = true → Yields (.clusterReset inst) s (fun t => t = s)) ∧
    (16 * inst < s.cap.activeCores ∨ s.boot.ready = false → begins (.clusterReset inst) 1 inst false) ∧
    (s.cap.activeCores ≤ 512 * inst → s.boot.ready = true → Yields (.partitionReset inst) s (fun t => t = s)) ∧
    (512 * inst < s.cap.activeCores ∨ s.boot.ready = false → begins (.partitionReset inst) 2 inst (s.wantsReset inst)) ∧
    (∀ unit, let c := Instr.subsystemReset unit inst
      (ownReset unit = false ∨ 256 ≤ inst → Yields c s (fun t => t = s)) ∧
      (ownReset unit = true → inst < 256 → s.boot.ready = true → (∀ r ∈ s.rst.active, resetWithin 3 (256 * unit + inst) r.1 r.2 = false) → Yields c s (fun t =>
        t.rst.active.contains (3, 256 * unit + inst) = true ∧ t.weirs = s.weirs ∧ sameQueues t ∧ t.boot = s.boot ∧ t.pins = s.pins ∧
        (unit = 2 → t.dlt = { DltSt.zero with pfEn := s.dlt.pfEn, pfBudgetMib := s.dlt.pfBudgetMib }) ∧
        (unit = 3 → t.llc.rangeQueue = s.llc.rangeStalled.take 64 ∧ t.llc.misses = [] ∧ ∀ p, (t.line p).resident = false) ∧
        (unit = 4 → tget MemCtl.zero t.nt inst = { MemCtl.zero with trained := (tget MemCtl.zero s.nt inst).trained, scrubHours := (tget MemCtl.zero s.nt inst).scrubHours }) ∧
        (unit = 5 → tget MemCtl.zero t.dt inst = { MemCtl.zero with trained := (tget MemCtl.zero s.dt inst).trained, scrubHours := (tget MemCtl.zero s.dt inst).scrubHours }) ∧
        (unit = 6 → t.cod = .zero) ∧ (unit = 7 → (t.upd inst).running = none) ∧
        (unit = 8 → t.est.linkUp = false ∧ t.est.retrainDue = true ∧ t.est.ctr = .zero ∧ t.coll.buffered = []) ∧
        (unit = 9 → t.frd.linkUp = false ∧ t.frd.kept = [] ∧ t.frd.expSeq = 0 ∧ t.frd.nextSeq = 0 ∧ t.frd.partnerPresent = false) ∧
        (unit = 10 → t = { s with tide := t.tide, rst := t.rst } ∧ t.tide = { s.tide with ptpOk := false, ppsOk := false, slewing := false, offsets := [], good := 0, bad := 0, ppsSeen := false, syncSeq := none, delayReq := none, pathDelay := 0, masters := [], master := none, slewNs := 0, st := if s.tide.st = 1 then 2 else s.tide.st })))) ∧
    (∀ level, (s.rst.active.contains (level, inst) = false → Yields (.resetComplete level inst) s (fun t => t = s)) ∧
      (s.spw.stop ≠ 0 → level ≤ 2 → Yields (.resetComplete level inst) s (fun t => t = s)) ∧
      (s.rst.active.contains (level, inst) = true → s.spw.stop = 0 ∨ 3 ≤ level → Yields (.resetComplete level inst) s (fun t =>
        t.rst.active = s.rst.active.filter (fun r => r ≠ (level, inst)) ∧ t.boot.resets = s.boot.resets.modify level (· + 1) ∧ t.weirs = s.weirs ∧ t.tide = s.tide ∧
        t.pins = s.pins ∧ t.spw = s.spw ∧ (level = 2 → ∀ r ∈ t.oxb.pendingReset, r.1 ≠ inst) ∧
        (level = 3 → t = { s with rst := t.rst, boot := t.boot } ∧ (∀ r ∈ t.rst.parked, r.1 ≠ inst))))) ∧
    (∀ q n, (s.entry q n = none → Yields (.wakeLogReplay q n) s (fun t => t = s)) ∧
      (∀ e, s.entry q n = some e → (e.ended = false ∨ s.canReplay e = false → Yields (.wakeLogReplay q n) s (fun t => t = s)) ∧
        (e.ended = true → s.canReplay e = true → Yields (.wakeLogReplay q n) s (fun t => t = { s with cores := t.cores, seqs := t.seqs, jui := t.jui } ∧
          t.entry q n = some { e with ended := false, replays := e.replays + 1, reachedAt := s.nowNs } ∧ (s.jui.running = false → t.jui = s.jui)))))

/-- Faults. A control fault outside a reset is recorded, and after stage 8 begins the reset of the smallest scope that holds its unit; a failed lane takes
a spare, or retires its group beyond the fourth, and asks for the partition's reset, which is due at once a second later; a warm reset keeps the map,
the log and the tide's count and starts bring-up at stage 2, a cold one keeps flash alone (R398 to R401, R409, R430, R434, R446). -/
def Obligations.FaultsAndWholeResets : Prop :=
  ∀ s : State,
    let sameQueues (t : State) : Prop := ∀ q, t.queue q = { s.queue q with tally := (t.queue q).tally }
    (∀ unit inst addr,
      let none' (c : Instr) : Prop := s.spw.asleep = true ∨ s.scopeInReset (s.scopeOf unit inst) = true → Yields c s (fun t => t = s)
      let recorded (c : Instr) : Prop := s.spw.asleep = false → s.scopeInReset (s.scopeOf unit inst) = false →
        (s.boot.ready = false → Yields c s (fun t => t = { s with gau := t.gau } ∧ t.gau ≠ s.gau)) ∧
        (∀ level i, s.boot.ready = true → s.scopeOf unit inst = .at level i → Yields c s (fun t => t.rst.active.contains (level, i) = true ∧ t.weirs = s.weirs ∧ sameQueues t ∧ t.boot = s.boot)) ∧
        (s.boot.ready = true → s.scopeOf unit inst = .warm → s.warmAllowed = true → Yields c s (fun t => t.boot.stage = 2 ∧ t.boot.warm = true ∧ t.boot.ready = false))
      none' (.txnWatchdogExpire unit inst addr) ∧ recorded (.txnWatchdogExpire unit inst addr) ∧ none' (.livenessTimeout unit inst) ∧ recorded (.livenessTimeout unit inst)) ∧
    (∀ shoal inst group lane, let c := Instr.vlaneFail shoal inst group lane
      let key := if shoal = true then 512 + inst * 8 + group else inst * 4 + group
      let g := tget LaneGroup.zero s.oxb.lanes key
      let valid : Prop := inst < (if shoal = true then 2304 else 128) ∧ group < (if shoal = true then 8 else 4)
      (¬ valid ∨ g.retired = true ∨ s.boot.ready = false → Yields c s (fun t => t = s)) ∧
      (valid → g.retired = false → s.boot.ready = true → g.spares < 4 → Yields c s (fun t => t = { s with oxb := t.oxb, gau := t.gau } ∧
        t.oxb = { s.oxb with lanes := t.oxb.lanes } ∧ tget LaneGroup.zero t.oxb.lanes key = { g with spares := g.spares + 1 } ∧
        ∀ k, k ≠ key → tget LaneGroup.zero t.oxb.lanes k = tget LaneGroup.zero s.oxb.lanes k)) ∧
      (valid → g.retired = false → s.boot.ready = true → 4 ≤ g.spares → Yields c s (fun t => tget LaneGroup.zero t.oxb.lanes key = { g with retired := true } ∧
        t.weirs = s.weirs ∧ sameQueues t ∧ t.boot = s.boot ∧
        (shoal = false → (tget SiteSt.zero s.oxb.sites inst).cluster ≠ 0xFF → ∃ r ∈ t.oxb.pendingReset, r.1 = (tget SiteSt.zero s.oxb.sites inst).cluster / 32)))) ∧
    (∀ p, Yields (.oxbowResetDeadline p) s (fun t => t = { s with oxb := { s.oxb with pendingReset := t.oxb.pendingReset } } ∧
      t.oxb.pendingReset = s.oxb.pendingReset.map (fun r => if r.1 = p then (r.1, 0, r.2.2) else r))) ∧
    (s.warmAllowed = false → Yields .warmReset s (fun t => t = { s with gau := t.gau } ∧ t.gau.logPending.length = s.gau.logPending.length + 1)) ∧
    (s.warmAllowed = true → Yields .warmReset s (fun t => t.boot.stage = 2 ∧ t.boot.warm = true ∧ t.boot.ready = false ∧ t.boot.running = true ∧ t.mem = [] ∧ t.cores = [] ∧
      t.queues = [] ∧ t.seqs = [] ∧ t.weirs = [] ∧ t.oxb.sites = s.oxb.sites ∧ t.boot.bundleId = s.boot.bundleId ∧ t.boot.licCores = s.boot.licCores ∧
      t.tide.count = s.tide.count ∧ t.jui.running = true ∧ t.jui.bootCount = s.jui.bootCount + 1 ∧ t.gau.log = s.gau.log ∧ t.pins = s.pins ∧ t.pending = s.pending ∧
      t.boot.resets = s.boot.resets.modify 4 (· + 1))) ∧
    (s.coldAllowed = false → Yields .coldReset s (fun t => t = { s with gau := t.gau } ∧ t.gau.logPending.length = s.gau.logPending.length + 1)) ∧
    (s.coldAllowed = true → Yields .coldReset s (fun t => t.boot = { BootSt.zero with flash := s.boot.flash, running := true } ∧ t.mem = [] ∧ t.cores = [] ∧ t.queues = [] ∧
      t.seqs = [] ∧ t.weirs = [] ∧ t.llc = .zero ∧ t.tide = .zero ∧ t.oxb = .zero ∧ t.cap = .zero ∧ t.jui = { JuiSt.zero with bootCount := s.jui.bootCount } ∧
      t.gau.up = true ∧ t.gau.log = s.gau.log ++ s.gau.logPending ∧ t.gau.debugOpen = false ∧ t.pins = { s.pins with removeRdy := false, removing := false } ∧
      t.pending = s.pending))

/-! ### Bring-up (R2 to R6, R408 to R428) -/

/-- Stages 0 to 4, each only when in progress. Headwater boots the bank its rules choose, or fails; the rails start the tide and the books, the clock still off;
the base die maps out its failed ways; the links train; self-test makes the oxbow map of healthy sites in ascending order, and a warm reset keeps it. A
stage that ends well is followed by the next (R2, R18, R19, R223, R384, R408, R409, R411,
R425, R428; what training reports of the lanes is the model's reading: notes/assumptions/67). -/
def Obligations.BringUpToTheMap : Prop :=
  ∀ s : State,
    let x := s.boot
    let at' (n : Nat) : Prop := x.running = true ∧ x.stage = n ∧ x.waitLock = false
    let goes (t : State) (n : Nat) : Prop := t.boot.stage = n + 1 ∧ t.boot.running = true ∧ (tget [] t.boot.reports n).length = 128 ∧ t.weirs = s.weirs ∧ t.queues = s.queues ∧
      t.pins = s.pins ∧ t.pending = s.pending
    let fails (t : State) (n : Nat) : Prop := t.boot.failed = true ∧ t.boot.running = false ∧ t.boot.stage = n ∧ t.spw.freq = 0 ∧ (∀ c ∈ t.mem, c.1 < shoalBase)
    (∀ flash, (¬ at' 0 → Yields (.headwater flash) s (fun t => t = s)) ∧ (at' 0 →
      let f : FlashImage := match x.flash with
        | some k => { flash with golden := k.golden, trial := k.trial, tries := k.tries, oxbow := k.oxbow }
        | none => flash
      let choice := chooseBank f (fun b => !(s.gau.badBank && decide (b ≠ f.golden)))
      (choice = none → x.trialBoot = false → Yields (.headwater flash) s (fun t => fails t 0 ∧ t.jui.bootCount = s.jui.bootCount + 1)) ∧
      (∀ b why f1, choice = some (b, why, f1) → Yields (.headwater flash) s (fun t => goes t 0 ∧ t.boot.bank = b ∧ t.boot.flash = some f1 ∧
        t.boot.manifest = some (bankOf f1 b).manifest ∧ t.boot.bundleId = bundleOf (bankOf f1 b).manifest ∧ t.jui.bootCount = s.jui.bootCount + 1 ∧
        t.cap.hwRevision = f1.hwRevision ∧ t.mem = s.mem ∧ t.cores = s.cores ∧
        (f1.licenceArea = [] → t.boot.licCores = 1024 ∧ t.boot.licPort = 800 ∧ t.boot.licFp64 = false ∧ t.boot.licHormi = false ∧ t.boot.licPaired = false))))) ∧
    (∀ rails mv, (¬ at' 1 ∨ s.pins.flowOk = false → Yields (.railsAndClocks rails mv) s (fun t => t = s)) ∧
      (at' 1 → s.pins.flowOk = true → (rails % 256 ≠ 0 → x.trialBoot = false → Yields (.railsAndClocks rails mv) s (fun t => fails t 1)) ∧
        (rails % 256 = 0 → Yields (.railsAndClocks rails mv) s (fun t => goes t 1 ∧ t.spw.freq = s.spw.freq ∧ t.spw.coreMv = gridMv t.spw.freqBase ∧ t.tide.st = 0 ∧
          t.tide.count = 0 ∧ t.tide.phaseNs = 0 ∧ t.jui.running = true ∧ t.jui.seq = 1 ∧ t.jui.queued.length = s.jui.queued.length + 1)))) ∧
    (∀ dis rep fail, (¬ at' 2 → Yields (.baseDie dis rep fail) s (fun t => t = s)) ∧
      (∀ u, fail = some u → at' 2 → x.trialBoot = false → Yields (.baseDie dis rep fail) s (fun t => fails t 2)) ∧
      (fail = none → at' 2 → Yields (.baseDie dis rep fail) s (fun t => goes t 2 ∧
        (x.warm = true → ∀ k, (t.slice k).waysOff = (s.slice k).waysOff) ∧ (x.warm = false → (∀ k, (∀ d ∈ dis, d.1 ≠ k) → (t.slice k).waysOff = (s.slice k).waysOff) ∧
          (∀ d ∈ dis, d.1 < 128 → ∀ w, w < 16 → bitOf d.2 w = true → bitOf (t.slice d.1).waysOff w = true))))) ∧
    (∀ gs : List LaneTraining, let key (g : LaneTraining) : Nat := if g.shoal = true then 512 + g.inst * 8 + g.group else g.inst * 4 + g.group
      (¬ at' 3 → Yields (.verticalLinks gs) s (fun t => t = s)) ∧ (at' 3 → (∀ g ∈ gs, g.deadSpares ≤ 4) → Yields (.verticalLinks gs) s (fun t => goes t 3 ∧
        t = { s with boot := t.boot, oxb := { s.oxb with lanes := t.oxb.lanes }, gau := t.gau, freeCtr := t.freeCtr } ∧
        (∀ g ∈ gs, (∀ h ∈ gs, key h = key g → h = g) → tget LaneGroup.zero t.oxb.lanes (key g) =
          { LaneGroup.zero with spares := min 4 (g.deadSpares + min g.dead (4 - g.deadSpares)) }) ∧
        (∀ k, (∀ g ∈ gs, key g ≠ k) → tget LaneGroup.zero t.oxb.lanes k = .zero) ∧
        (∀ j, j ∈ t.boot.shortSites ↔ j < 128 ∧ ∃ g ∈ gs, g.shoal = false ∧ g.inst = j ∧ 4 < g.dead + g.deadSpares) ∧
        (∀ j, j ∈ t.boot.shortCores ↔ j < 2304 ∧ ∃ g ∈ gs, g.shoal = true ∧ g.inst = j ∧ 4 < g.dead + g.deadSpares)))) ∧
    (∀ fc, (¬ at' 4 → Yields (.computeAndShoal fc) s (fun t => t = s)) ∧ (at' 4 →
      let pass (k i : Nat) : Bool := !fc.contains (k * 18 + i) && !x.shortCores.contains (k * 18 + i)
      let healthy := (List.range 128).filter (fun k => !x.shortSites.contains k && decide (16 ≤ ((List.range 18).filter (pass k)).length))
      (x.warm = true → 32 ≤ s.healthySites → Yields (.computeAndShoal fc) s (fun t => goes t 4 ∧ t.oxb = s.oxb ∧ (∀ c ∈ t.mem, c.1 < shoalBase))) ∧
      (x.warm = false → healthy.length < 32 → x.trialBoot = false → Yields (.computeAndShoal fc) s (fun t => fails t 4)) ∧
      (x.warm = false → 32 ≤ healthy.length → Yields (.computeAndShoal fc) s (fun t => goes t 4 ∧ (∀ c ∈ t.mem, c.1 < shoalBase) ∧
        (∀ k i, k < 128 → i < 18 → bitOf (tget SiteSt.zero t.oxb.sites k).pass i = pass k i) ∧
        (∀ k, k < 128 → (tget SiteSt.zero t.oxb.sites k).linkOk = !x.shortSites.contains k) ∧
        (∀ n, n < s.activeCount healthy.length / 16 → (tget ClusterSt.zero t.oxb.clusters n).valid = true ∧
          (tget ClusterSt.zero t.oxb.clusters n).site = lget 0 healthy n ∧
          (tget ClusterSt.zero t.oxb.clusters n).pos = ((List.range 18).filter (pass (lget 0 healthy n))).take 16)))))

/-- Stages 5 to 8. Memory is zero under new keys, its windows the trained channels; freshet loads the runtime and fails the cores that stay incomplete,
its chunks checked one by one and the image as a whole; the port's widest group comes up unless a lane is dead, and stage 7 waits for the tide; stage 8
fixes what the module offers and sets READY (R4, R58, R73, R238, R239, R299, R408, R422). -/
def Obligations.BringUpToReady : Prop :=
  ∀ s : State,
    let x := s.boot
    let at' (n : Nat) : Prop := x.running = true ∧ x.stage = n ∧ x.waitLock = false
    let goes (t : State) (n : Nat) : Prop := t.boot.stage = n + 1 ∧ t.boot.running = true ∧ (tget [] t.boot.reports n).length = 128 ∧ t.weirs = s.weirs ∧ t.queues = s.queues ∧
      t.pins = s.pins ∧ t.pending = s.pending
    (∀ nf df, let near := (List.range 256).filter (fun k => !nf.contains k)
      (¬ at' 5 → Yields (.memoryStage nf df) s (fun t => t = s)) ∧
      (at' 5 → near.length < 128 → x.trialBoot = false → Yields (.memoryStage nf df) s (fun t => t.boot.failed = true ∧ t.boot.running = false ∧ t.boot.stage = 5 ∧ t.mem = [])) ∧
      (at' 5 → 128 ≤ near.length → Yields (.memoryStage nf df) s (fun t => goes t 5 ∧ t.mem = [] ∧ t.poison = [] ∧ t.memKeys.length = 16 ∧ t.cap.near = near ∧
        t.cap.deep = (List.range 96).filter (fun k => !df.contains k) ∧ t.cores = s.cores ∧
        (∀ k c, k < 8 → c < 32 → bitOf (tget MemCtl.zero t.nt k).trained c = near.contains (c * 8 + k)) ∧
        (∀ k c, k < 24 → c < 4 → bitOf (tget MemCtl.zero t.dt k).trained c = t.cap.deep.contains (c * 24 + k))))) ∧
    (∀ n late, (¬ at' 6 → Yields (.freshet n late) s (fun t => t = s)) ∧
      (at' 6 → s.healthySites ≠ 0 → (∀ e ∈ late, e.2 ≤ 8) → Yields (.freshet n late) s (fun t => goes t 6 ∧ t.oxb = s.oxb ∧ t.boot.failedCores = x.failedCores ∧
        t.boot.resends = x.resends + n ∧ t.boot.chunksSent = x.chunksSent + s.runtimeChunks ∧
        (∀ p, p < 2304 → s.passes p = true → (tget FshCore.zero t.boot.cores p).result = 1 ∧ (tget FshCore.zero t.boot.cores p).ack = 2 ^ s.runtimeChunks - 1) ∧
        (∀ p, p < 2304 → s.passes p = false → (tget FshCore.zero t.boot.cores p).result = 3)))) ∧
    (∀ core k hash, (s.passes core = false → Yields (.freshetBegin core k hash) s (fun t => t = s)) ∧
      (s.passes core = true → Yields (.freshetBegin core k hash) s (fun t => t = { s with boot := { x with cores := t.boot.cores } } ∧
        tget FshCore.zero t.boot.cores core = { FshCore.zero with chunks := min 2 k, hash := hash } ∧
        ∀ p, p ≠ core → tget FshCore.zero t.boot.cores p = tget FshCore.zero x.cores p))) ∧
    (∀ core i crc data, let y := tget FshCore.zero x.cores core
      let held := y.data.filter (fun d => d.1 ≠ i) ++ [(i, data)]
      let image := (List.range y.chunks).flatMap (fun k => ((findFirst (fun d => decide (d.1 = k)) held).map (·.2)).getD [])
      let c := Instr.freshetChunk core i crc data
      (s.passes core = false ∨ y.chunks ≤ i → Yields c s (fun t => t = s)) ∧
      (s.passes core = true → i < y.chunks → (crc32c data ≠ crc → Yields c s (fun t => t = { s with boot := { x with crcErrors := x.crcErrors + 1 } })) ∧
        (crc32c data = crc → Yields c s (fun t => t = { s with boot := { x with cores := t.boot.cores, hashFails := t.boot.hashFails } } ∧
          (∀ p, p ≠ core → tget FshCore.zero t.boot.cores p = tget FshCore.zero x.cores p) ∧
          (y.ack ||| 2 ^ i ≠ 2 ^ y.chunks - 1 → tget FshCore.zero t.boot.cores core = { y with data := held, ack := y.ack ||| 2 ^ i } ∧ t.boot.hashFails = x.hashFails) ∧
          (y.ack ||| 2 ^ i = 2 ^ y.chunks - 1 → (sha256 image = y.hash → (tget FshCore.zero t.boot.cores core).result = 1 ∧ t.boot.hashFails = x.hashFails) ∧
            (sha256 image ≠ y.hash → tget FshCore.zero t.boot.cores core = { y with data := [], ack := 0, result := 0 } ∧ t.boot.hashFails = x.hashFails + 1)))))) ∧
    (∀ dead fd, (¬ at' 7 → Yields (.ethernetAndTide dead fd) s (fun t => t = s)) ∧ (at' 7 →
      let widest := rangeFrom 0 (if x.licPort = 1600 then 8 else 4)
      let f : Flit := { seq := 0, type := 1, vc := 0, creditVc := 0, creditN := 0, payload := leBytes 8 s.frd.pairKey.toNat ++ leBytes 1 (b2n s.frd.side) }
      Yields (.ethernetAndTide dead fd) s (fun t => t.est.attemptCount = 1 ∧ t.est.badLanes = [] ∧ t.weirs = s.weirs ∧ t.queues = s.queues ∧
        ((s.tide.st ≠ 1 ∨ ∃ l ∈ widest, l ∈ dead) → t.boot = { x with waitLock := true }) ∧
        (s.tide.st = 1 → (∀ l ∈ widest, l ∉ dead) → goes t 7 ∧ t.boot.waitLock = false) ∧ t.tide = s.tide ∧ ((∀ l ∈ widest, l ∉ dead) → t.est.linkUp = true ∧ t.est.lanesInUse = widest ∧ t.est.attempts = [] ∧ t.cap.portGbps = 200 * widest.length) ∧
        ((∃ l ∈ widest, l ∈ dead) → t.est.linkUp = false ∧ t.est.lanesInUse = [] ∧ t.est.attempts.head? = some widest) ∧
        (x.licPaired = false → t.frd.linkUp = false ∧ t.cap.fordLanes = 0 ∧ t.out = s.out) ∧
        (x.licPaired = true → (∀ l, l < 8 → l ∉ fd) → t.frd.linkUp = false ∧ t.frd.helloWait = true ∧ t.frd.lanesInUse = 255 ∧ t.cap.fordLanes = 8 ∧
          t.frd.kept = [f] ∧ t.frd.credits = [63, 64, 64] ∧ t.out = s.out ++ [.flit (f.bytes 65535 (f.crc 65535).toNat)])))) ∧
    (¬ at' 8 → Yields .licences s (fun t => t = s)) ∧
    (at' 8 → Yields .licences s (fun t => t.boot.ready = true ∧ t.boot.running = false ∧ t.boot.stage = 8 ∧ (tget [] t.boot.reports 8).length = 128 ∧
      t.cap.activeCores = min x.licCores (min (coreLimit ((x.manifest.map (·.coreLimit)).getD 2048)) (16 * s.healthySites)) ∧ t.cap.features = s.featureBits ∧
      t.weirs = s.weirs ∧ t.queues = s.queues ∧ t.tide = s.tide ∧ t.pins = s.pins ∧ t.oxb = { s.oxb with changed := false } ∧ t.spw.freq = s.spw.freqBase ∧ t.spw.target = s.spw.freqBase ∧
      (s.frd.partnerPresent = false → t.frd = s.frd ∧ t.out = s.out) ∧ t.boot.trialBoot = (x.trialBoot && x.flash.isNone)))

/-! ### The gauge and the pins (R438 to R470) -/

/-- Sideband requests about the module. Unheard while the gauge or its supply is down, each is answered and changes only what it names: addresses and
the endpoint, the kinds of message, sensors and their records, a changed throttle reason once, the part number, the log from an entry on, a stage's
report; one the gauge does not serve is refused, counted and logged (R420, R441, R444 to R446). The message numbers, sensor order and FRU bytes are the
model's: notes/assumptions/60. -/
def Obligations.SidebandReads : Prop :=
  ∀ (s : State) (a : Nat),
    let heard : Prop := s.gau.up = true ∧ s.pins.p3v3 = true
    let silent (c : Instr) : Prop := ¬ heard → Yields c s (fun t => t = s)
    let tells (c : Instr) (code : Nat) (bs : List Byte) : Prop := silent c ∧ (heard → Yields c s (fun t => t = { s with out := s.out ++ [.sideband code bs] }))
    let refused (c : Instr) (code : Nat) : Prop := silent c ∧ (heard → Yields c s (fun t => t = { s with gau := t.gau, out := s.out ++ [.sidebandError code] } ∧
      t.gau.sbErrors = s.gau.sbErrors + 1 ∧ t.gau.logPending.length = s.gau.logPending.length + 1))
    let versions (c : Instr) (code : Nat) : Prop := silent c ∧ (heard → Yields c s (fun t => ∃ bs : List Byte, bs.length = 4 ∧
      t = { s with freeCtr := s.freeCtr + 1, out := s.out ++ [.sideband code bs] }))
    (silent (.i3cDaa a) ∧ (heard → s.gau.sbMode = true → Yields (.i3cDaa a) s (fun t => t = s)) ∧
      (heard → s.gau.sbMode = false → Yields (.i3cDaa a) s (fun t => t = { s with gau := { s.gau with dynAddr := a % 128 } }))) ∧
    (∀ eid, silent (.setEndpointId eid) ∧ (heard → Yields (.setEndpointId eid) s (fun t =>
      t = { s with gau := { s.gau with eid := eid.toNat }, out := s.out ++ [.sideband (sbCode 64 1) [eid]] }))) ∧
    tells .getEndpointId (sbCode 64 2) [BitVec.ofNat 8 s.gau.eid] ∧
    tells .getEndpointUuid (sbCode 64 3) ((List.range 16).map (fun i => Config.identityArea (4096 + i))) ∧
    (a ≤ 1 → versions (.getMctpVersionSupport a) (sbCode 64 4)) ∧ (1 < a → refused (.getMctpVersionSupport a) (sbCode 64 4)) ∧
    tells .getMessageTypeSupport (sbCode 64 5) [0, 1] ∧ tells .getTid (sbCode 0 2) [Config.identityArea 4112] ∧
    (a ∈ [0, 2, 4, 5, 63] → versions (.getPldmVersion a) (sbCode 0 3) ∧ tells (.getPldmCommands a) (sbCode 0 5) (leBytes 32 (maskOf 256 (pldmCommands a)))) ∧
    (a ∉ [0, 2, 4, 5, 63] → refused (.getPldmVersion a) (sbCode 0 3) ∧ refused (.getPldmCommands a) (sbCode 0 5)) ∧
    tells .getPldmTypes (sbCode 0 4) (leBytes 8 (1 + 2 ^ 2 + 2 ^ 4 + 2 ^ 5 + 2 ^ 63)) ∧
    (139 ≤ a → refused (.getSensorReading a) (sbCode 2 0x11) ∧ refused (.getPdr a) (sbCode 2 0x51)) ∧
    (a < 139 → tells (.getPdr a) (sbCode 2 0x51) (leBytes 2 a)) ∧ tells .getPdrRepositoryInfo (sbCode 2 0x50) (leBytes 4 139) ∧
    (a < 96 → tells (.getSensorReading a) (sbCode 2 0x11) (leBytes 4 (tempReg s.gau.tempsValid (tget 0 s.gau.temps a)))) ∧
    (a < 32 → tells (.getSensorReading (96 + a)) (sbCode 2 0x11) (leBytes 4 (tempReg s.gau.tempsValid (tget 0 s.gau.memTemps a)))) ∧
    (a < 9 → tells (.getSensorReading (128 + a)) (sbCode 2 0x11) (leBytes 2 (tget (0, 0) s.gau.rails a).1 ++ leBytes 2 (tget (0, 0) s.gau.rails a).2)) ∧
    tells (.getSensorReading 137) (sbCode 2 0x11) (leBytes 2 (s.spw.samples.sum / (500 * wattSample))) ∧
    tells (.getSensorReading 138) (sbCode 2 0x11) (leBytes 1 s.spw.reason) ∧
    silent .pollForPlatformEventMessage ∧ (heard → s.gau.events ≠ [s.spw.reason] → Yields .pollForPlatformEventMessage s (fun t =>
      t = { s with gau := { s.gau with events := [s.spw.reason] }, out := s.out ++ [.sideband (sbCode 2 0x0B) (leBytes 1 s.spw.reason)] })) ∧
    (heard → s.gau.events = [s.spw.reason] → Yields .pollForPlatformEventMessage s (fun t => t = { s with out := s.out ++ [.sideband (sbCode 2 0x0B) []] })) ∧
    tells .getFruRecordTableMetadata (sbCode 4 1) (leBytes 4 fruRecord.length) ∧ tells .getFruRecordTable (sbCode 4 2) fruRecord ∧
    tells (.readLog a) (sbCode 63 6) ((s.gau.log.filter (fun e => decide (a ≤ e.1))).flatMap entryBytes) ∧
    (a ≤ 8 → tells (.readStage a) (sbCode 63 7) (tget [] s.boot.reports a)) ∧ (8 < a → refused (.readStage a) (sbCode 63 7))

/-- Firmware update. One session at a time goes through its stages, each request refused at another stage; a step that fails, or a bank that reads back
wrong, ends it failed; an update writes the bank that is not GOLDEN, which is invalid until it is verified; activation names a tested bundle TRIAL and
refuses an untested one (R427, R429, R447, R448). -/
def Obligations.FirmwareUpdate : Prop :=
  ∀ s : State,
    let heard : Prop := s.gau.up = true ∧ s.pins.p3v3 = true
    let silent (c : Instr) : Prop := ¬ heard → Yields c s (fun t => t = s)
    let refused (c : Instr) (code : Nat) : Prop := Yields c s (fun t => t = { s with gau := t.gau, out := s.out ++ [.sidebandError code] } ∧
      t.gau.sbErrors = s.gau.sbErrors + 1 ∧ t.gau.logPending.length = s.gau.logPending.length + 1 ∧ t.gau.session = s.gau.session)
    let fresh : Session := { staging := false, stage := 0, components := [], current := 0, len := 0, sha := [], received := 0, failed := false }
    let bank := otherBank ((s.boot.flash.map (·.golden)).getD .A)
    let open' (f : FlashImage) : FlashImage := if f.trial = some bank then { f with trial := none } else f
    let only (t : State) (code : Nat) (bs : List Byte) : Prop := t = { s with gau := t.gau, boot := { s.boot with flash := t.boot.flash }, out := s.out ++ [.sideband code bs] }
    let busy (c : Instr) (code : Nat) : Prop := s.gau.session.isSome = true → s.gau.updating = true → heard →
      Yields c s (fun t => t = { s with out := s.out ++ [.sideband code [0x81]] })
    let at' (x : Session) (l : List Nat) : Prop := s.gau.session = some x ∧ x.failed = false ∧ x.stage ∈ l
    let offStage (c : Instr) (code : Nat) (l : List Nat) : Prop := silent c ∧ (heard → s.updateStage ∉ l → refused c code)
    let step (c : Instr) (code n m result : Nat) : Prop := offStage c code [n] ∧ (∀ x, heard → at' x [n] → Yields c s (fun t => only t code [] ∧ t.boot = s.boot ∧
      (result = 0 → t.gau = { s.gau with session := some { x with stage := m } }) ∧
      (result ≠ 0 → t.gau = { s.gau with session := some { x with failed := true }, badBank := s.gau.badBank || decide (2 ≤ n) })))
    (silent .requestUpdate ∧ busy .requestUpdate (sbCode 5 0x10) ∧ (heard → s.gau.updating = false → Yields .requestUpdate s (fun t =>
      t = { s with gau := { s.gau with session := some fresh }, out := s.out ++ [.sideband (sbCode 5 0x10) [0]] }))) ∧
    (∀ cs, offStage (.passComponentTable cs) (sbCode 5 0x13) [0] ∧ (∀ x, heard → at' x [0] → Yields (.passComponentTable cs) s (fun t =>
      only t (sbCode 5 0x13) [] ∧ t.boot = s.boot ∧ t.gau = { s.gau with session := some { x with components := cs, stage := 1 } }))) ∧
    (∀ k, silent (.updateComponent k) ∧ (∀ x, heard → s.gau.session = some x → x.components.contains k = false → refused (.updateComponent k) (sbCode 5 0x14)) ∧
      (∀ x, heard → at' x [1, 5] → x.components.contains k = true → Yields (.updateComponent k) s (fun t => only t (sbCode 5 0x14) [] ∧
        t.boot.flash = s.boot.flash.map open' ∧ t.gau = { s.gau with session := some { x with current := k, stage := 2, received := 0 }, badBank := true }))) ∧
    (∀ off data, offStage (.requestFirmwareData off data) (sbCode 5 0x15) [2] ∧ (∀ x, heard → at' x [2] → Yields (.requestFirmwareData off data) s (fun t =>
      only t (sbCode 5 0x15) [] ∧ t.boot = s.boot ∧ t.gau = { s.gau with session := some { x with received := max x.received (off + data.length) } }))) ∧
    (∀ r, step (.transferComplete r) (sbCode 5 0x16) 2 3 r ∧ step (.verifyComplete r) (sbCode 5 0x17) 3 4 r ∧ step (.applyComplete r) (sbCode 5 0x18) 4 5 r) ∧
    (∀ len sha, let c := Instr.updateFromStaging len sha
      silent c ∧ busy c (sbCode 63 8) ∧ (heard → s.gau.updating = false → (134217728 < len ∨ sha.length ≠ 32 ∨ s.boot.ready = false) → refused c (sbCode 63 8)) ∧
      (heard → s.gau.updating = false → len ≤ 134217728 → sha.length = 32 → s.boot.ready = true → Yields c s (fun t => only t (sbCode 63 8) [0] ∧
        t.boot.flash = s.boot.flash.map open' ∧ t.gau = { s.gau with session := some { fresh with staging := true, stage := 2, len := len, sha := sha }, badBank := true }))) ∧
    (∀ image ok, let c := Instr.updateProgramDone image ok
      let good : Prop := ok = true ∧ Config.keyVerify 0 [] image.manifest.raw image.manifest.sig = true ∧ image.imageSha = image.manifest.images.map (·.sha)
      (s.gau.up = false ∨ s.updateStage = 99 ∨ s.updateStage < 2 → Yields c s (fun t => t = s)) ∧
      (∀ x, s.gau.up = true → at' x [2, 3, 4, 5] → Yields c s (fun t => t = { s with gau := t.gau, boot := { s.boot with flash := t.boot.flash } } ∧
        t.boot.flash.map (fun f => bankOf f bank) = s.boot.flash.map (fun _ => image) ∧
        t.boot.flash.map (fun f => bankOf f (otherBank bank)) = s.boot.flash.map (fun f => bankOf f (otherBank bank)) ∧
        (good → t.gau = { s.gau with session := some { x with stage := 5 }, badBank := false }) ∧
        (¬ good → t.gau = { s.gau with session := some { x with failed := true } })))) ∧
    (silent .activateFirmware ∧ (heard → (s.updateStage ≠ 5 ∨ s.gau.badBank = true) → refused .activateFirmware (sbCode 5 0x1A)) ∧
      (∀ x f, heard → at' x [5] → s.gau.badBank = false → s.boot.flash = some f → let tested := bundleTested f (bundleOf (bankOf f bank).manifest)
        (tested = true → Yields .activateFirmware s (fun t => only t (sbCode 5 0x1A) [0] ∧ t.boot.flash = some { f with trial := some bank, tries := 1 } ∧
          t.gau.session = none ∧ t.gau.updates = s.gau.updates + 1)) ∧
        (tested = false → Yields .activateFirmware s (fun t => t = { s with gau := t.gau, out := s.out ++ [.sidebandError (sbCode 5 0x1A)] } ∧
          t.gau.session = some { x with failed := true } ∧ t.gau.activateRefused = s.gau.activateRefused + 1)))) ∧
    (silent .getStatus ∧ (heard → Yields .getStatus s (fun t => t = { s with out := s.out ++ [.sideband (sbCode 5 0x1B) (match s.gau.session with
      | some x => [BitVec.ofNat 8 x.stage, if x.failed = true then 1 else 0] ++ leBytes 4 x.received
      | none => [0xFF, 0, 0, 0, 0, 0])] }))) ∧
    (offStage .cancelUpdate (sbCode 5 0x1D) [0, 1, 2, 3, 4, 5] ∧ (∀ x, heard → at' x [0, 1, 2, 3, 4, 5] → Yields .cancelUpdate s (fun t =>
      only t (sbCode 5 0x1D) [] ∧ t.boot = s.boot ∧ t.gau = { s.gau with session := none }))) ∧
    (offStage .cancelUpdateComponent (sbCode 5 0x1C) [2, 3, 4] ∧ (∀ x, heard → at' x [2, 3, 4] → Yields .cancelUpdateComponent s (fun t =>
      only t (sbCode 5 0x1C) [] ∧ t.boot = s.boot ∧ t.gau = { s.gau with session := some { x with stage := 1, received := 0 } })))

/-- Security and the gauge's own events. Attestation answers a nonce unless debug is open; a challenge voids the one before and serves one token; a good
token zeroises the keys, resets the device warm and opens its scopes; JTAG beyond the open instructions holds the device with its memory keys gone; a
reset is served by its level's rules; the watchdog restarts the gauge, which then takes the records that waited (R364, R438, R446, R451, R453 to R455). -/
def Obligations.SecurityRequests : Prop :=
  ∀ s : State,
    let heard : Prop := s.gau.up = true ∧ s.pins.p3v3 = true
    let silent (c : Instr) : Prop := ¬ heard → Yields c s (fun t => t = s)
    let refused (c : Instr) (code : Nat) : Prop := Yields c s (fun t => t = { s with gau := t.gau, out := s.out ++ [.sidebandError code] } ∧
      t.gau.sbErrors = s.gau.sbErrors + 1)
    (∀ nonce, let c := Instr.getAttestation nonce
      silent c ∧ (heard → (s.gau.debugOpen = true ∨ nonce.length ≠ 32) → refused c (sbCode 63 1)) ∧
      (heard → s.gau.debugOpen = false → nonce.length = 32 → Yields c s (fun t => t = { s with out := s.out ++ [.sideband (sbCode 63 1) (s.attestation nonce)] }))) ∧
    (silent .getChallenge ∧ (heard → Yields .getChallenge s (fun t => ∃ ch : List Byte, ch.length = 32 ∧
      t = { s with gau := { s.gau with challenge := some ch }, freeCtr := t.freeCtr, out := s.out ++ [.sideband (sbCode 63 2) ch] }))) ∧
    Yields .challengeExpire s (fun t => t = { s with gau := { s.gau with challenge := none } }) ∧
    (∀ token, let c := Instr.debugUnlock token
      let good : Prop := token.length = 128 ∧ fieldAt token 0 2 = 1 ∧ (token.drop 8).take 16 = deviceId ∧ s.gau.challenge = some ((token.drop 32).take 32) ∧
        Config.keyVerify 2 [] (token.take 64) (token.drop 64) = true
      silent c ∧ (heard → ¬ good → Yields c s (fun t => t = { s with gau := t.gau, out := s.out ++ [.sidebandError (sbCode 63 3)] } ∧ t.gau.challenge = none ∧
        t.gau.sbErrors = s.gau.sbErrors + 1 ∧ t.gau.debugOpen = s.gau.debugOpen ∧ t.gau.keysZero = s.gau.keysZero)) ∧
      (heard → good → Yields c s (fun t => t.gau.keysZero = true ∧ t.gau.debugOpen = true ∧ t.gau.scopes = fieldAt token 2 1 % 8 ∧ t.gau.challenge = none ∧
        t.gau.debugUnlocks = s.gau.debugUnlocks + 1 ∧ (s.warmAllowed = true → t.boot.stage = 2 ∧ t.boot.ready = false ∧ t.mem = [] ∧ t.cores = [])))) ∧
    (∀ level inst, let c := Instr.sbReset level inst
      silent c ∧ (heard → s.resetAllowed level inst = false → refused c (sbCode 63 4)) ∧
      (heard → s.resetAllowed level inst = true → (level = 5 → Yields c s (fun t => t.boot = { BootSt.zero with flash := s.boot.flash, running := true } ∧ t.weirs = [] ∧ t.mem = [])) ∧
        (level = 4 → Yields c s (fun t => t.boot.stage = 2 ∧ t.boot.warm = true ∧ t.boot.ready = false ∧ t.weirs = [])) ∧
        (level < 4 → (∀ r ∈ s.rst.active, resetWithin level inst r.1 r.2 = false) → Yields c s (fun t => t.rst.active.contains (level, inst) = true ∧ t.weirs = s.weirs ∧
          t.boot = s.boot)))) ∧
    (∀ wake, let c := Instr.sbSlack wake
      silent c ∧ (heard → Yields c s (fun t => t = { s with spw := t.spw, out := s.out ++ [.sideband (sbCode 63 5) [0]] } ∧
        (wake = false → t.spw = { s.spw with slackReq := s.spw.slackReq || (s.boot.ready && !s.spw.asleep) }) ∧
        (wake = true → s.spw.slack = 2 → t.spw = { s.spw with slack := 3 }) ∧ (wake = true → s.spw.slack = 1 → t.spw = { s.spw with slackWake := true })))) ∧
    ((∀ op, op ≠ JtagOp.other → Yields (.jtagInstruction op) s (fun t => t = s)) ∧
      (s.gau.debugOpen = true ∨ s.pins.switchOn = false → Yields (.jtagInstruction .other) s (fun t => t = s)) ∧
      (s.gau.debugOpen = false → s.pins.switchOn = true → Yields (.jtagInstruction .other) s (fun t => t.memKeys = [] ∧ t.gau.warmHeld = true ∧ t.boot.ready = false ∧
        t.boot.running = false ∧ t.mem = [] ∧ t.cores = [] ∧ t.queues = [] ∧ t.weirs = [] ∧ t.pins = s.pins))) ∧
    (s.gau.up = false → Yields .gaugeWdogExpire s (fun t => t = s)) ∧
    (s.gau.up = true → Yields .gaugeWdogExpire s (fun t => t = { s with gau := t.gau } ∧ t.gau.up = false ∧ t.gau.wdogRestarts = s.gau.wdogRestarts + 1 ∧
      t.gau.ringQueue = s.gau.ringQueue ∧ t.gau.session = s.gau.session)) ∧
    (s.gau.up = true ∨ s.pins.switchOn = false → Yields .gaugeRestartDone s (fun t => t = s)) ∧
    (s.gau.up = false → s.pins.switchOn = true → Yields .gaugeRestartDone s (fun t => t = { s with gau := t.gau } ∧ t.gau.up = true ∧ t.gau.bedQueue = [] ∧
      t.gau.ringQueue = s.gau.ringQueue ++ s.gau.bedQueue ∧ t.gau.logPending.length = s.gau.logPending.length + s.gau.bedQueue.length))

/-- Insertion, removal and the input. With ENABLE high, power begins a cold boot; a lost supply leaves what flash holds and opens the switch, and an
over-current latches it open until PWR_SENSE breaks or ENABLE rises again; a removal closes the books, flushes the log and signals REMOVE_RDY
(R456, R462, R465 to R470). -/
def Obligations.PinEvents : Prop :=
  ∀ s : State,
    let p := s.pins
    let cold (t : State) : Prop := t.boot = { BootSt.zero with flash := s.boot.flash, running := true } ∧ t.mem = [] ∧ t.cores = [] ∧ t.queues = [] ∧ t.seqs = [] ∧
      t.weirs = [] ∧ t.jui = { JuiSt.zero with bootCount := s.jui.bootCount } ∧ t.gau.up = true ∧ t.gau.log = s.gau.log ∧ t.pending = s.pending ∧ t.nowNs = s.nowNs
    let lost (t : State) : Prop := t.boot = { BootSt.zero with flash := s.boot.flash } ∧ t.mem = [] ∧ t.cores = [] ∧ t.queues = [] ∧ t.seqs = [] ∧ t.weirs = [] ∧
      t.jui = { JuiSt.zero with bootCount := s.jui.bootCount } ∧ t.gau.up = false ∧ t.gau.log = s.gau.log ∧ t.gau.logPending = [] ∧ t.pending = s.pending ∧ t.nowNs = s.nowNs
    let off : PinSt := { p with switchOn := false, removing := false, removeRdy := false }
    let powers (c : Instr) (q : PinSt) : Prop :=
      (q.enable = false → Yields c s (fun t => t = { s with pins := { q with switchOn := true, latched := false }, gau := { s.gau with up := true } })) ∧
      (q.enable = true → Yields c s (fun t => cold t ∧ t.pins = { q with switchOn := true, latched := false, removing := false, removeRdy := false }))
    (p.pwrSense = true → Yields .pwrSenseMake s (fun t => t = s)) ∧
    (p.pwrSense = false → powers .pwrSenseMake { p with pwrSense := true, present := true, p3v3 := true }) ∧
    (p.switchOn = false → Yields .pwrSenseBreak s (fun t => t = { s with pins := { p with pwrSense := false, present := false, latched := false } })) ∧
    (p.switchOn = true → Yields .pwrSenseBreak s (fun t => lost t ∧ t.pins = { off with pwrSense := false, present := false, latched := false })) ∧
    (p.enable = true → Yields .enableAssert s (fun t => t = s)) ∧
    (p.enable = false → (p.switchOn = true → Yields .enableAssert s (fun t => cold t ∧ t.pins = { p with enable := true, p3v3 := true, removing := false, removeRdy := false })) ∧
      (p.switchOn = false → p.latched = true → p.pwrSense = true → powers .enableAssert { p with enable := true, p3v3 := true }) ∧
      (p.switchOn = false → (p.latched = false ∨ p.pwrSense = false) → Yields .enableAssert s (fun t => t = { s with pins := { p with enable := true, p3v3 := true } }))) ∧
    (p.enable = false → Yields .enableDeassert s (fun t => t = s)) ∧
    (p.enable = true → p.switchOn = false → Yields .enableDeassert s (fun t => t = { s with pins := { p with enable := false } })) ∧
    (p.enable = true → p.switchOn = true → Yields .enableDeassert s (fun t => t.pins = { p with enable := false, removing := true, removeRdy := true } ∧
      t.boot.ready = false ∧ t.boot.running = false ∧ t.boot.flash = s.boot.flash ∧ t.mem = [] ∧ t.cores = [] ∧ t.queues = [] ∧ t.weirs = [] ∧ t.jui.running = false ∧
      t.gau.log = s.gau.log ++ s.gau.logPending ∧ t.gau.logPending = [] ∧ t.spw.freq = 0 ∧ t.pending = s.pending ∧
      (s.boot.ready = true → s.est.linkUp = true → s.frd.linkUp = false → t.out = s.out ++ s.hostQps.map (fun q => OutMsg.roce s.est.cfg.netHdr (.cmDreq q))))) ∧
    (p.p3v3 = false → Yields .p3v3AuxLoss s (fun t => t = s)) ∧
    (p.p3v3 = true → p.enable = true → p.switchOn = true → Yields .p3v3AuxLoss s (fun t =>
      t.pins = { p with p3v3 := false, enable := false, flowOk := false, removing := true, removeRdy := true } ∧ t.boot.ready = false ∧ t.mem = [] ∧ t.cores = [] ∧ t.jui.running = false)) ∧
    (p.p3v3 = true → (p.enable = false ∨ p.switchOn = false) → (s.boot.ready = false ∨ s.spw.stop ≠ 0) → Yields .p3v3AuxLoss s (fun t =>
      t = { s with pins := { p with p3v3 := false, enable := false, flowOk := false } })) ∧
    (p.switchOn = false → Yields .inputUndervoltage s (fun t => t = s) ∧ Yields .inputOvervoltage s (fun t => t = s) ∧ Yields .inputOvercurrent s (fun t => t = s)) ∧
    (p.switchOn = true → Yields .inputUndervoltage s (fun t => lost t ∧ t.pins = off) ∧ Yields .inputOvervoltage s (fun t => lost t ∧ t.pins = off) ∧
      Yields .inputOvercurrent s (fun t => lost t ∧ t.pins = { off with latched := true })) ∧
    (p.switchOn = true ∨ p.pwrSense = false ∨ p.latched = true → Yields .inputRecovered s (fun t => t = s)) ∧
    (p.switchOn = false → p.pwrSense = true → p.latched = false → powers .inputRecovered p)
end

