-- ==== Sys2Proof/Laws/Crypto.lean ====
section
/-! SUPPORT. Lengths of what the published algorithms answer: byte fields, digests, signatures, the device's number. -/

set_option Elab.async false

namespace Sys2Proof.Laws

open Sys2Proof Sys2Proof.Machine

@[simp] theorem leBytes_length (n v : Nat) : (leBytes n v).length = n := by
  induction n generalizing v with
  | zero => rfl
  | succ n ih => simp [leBytes, ih]

@[simp] theorem beBytes_length (n v : Nat) : (beBytes n v).length = n := by simp [beBytes]

@[simp] theorem padTo_length (n : Nat) (l : List Byte) : (padTo n l).length = n := by simp [padTo]; omega

theorem shaBlocks_length (n : Nat) (ws h : List W32) (hh : h.length = 8) : (shaBlocks n ws h).length = 8 := by
  induction n generalizing ws h with
  | zero => exact hh
  | succ n ih => exact ih _ _ (by simp [shaBlock])

@[simp] theorem sha256_length (m : List Byte) : (sha256 m).length = 32 := by
  have h := shaBlocks_length ((m ++ (0x80 : Byte) :: (List.replicate ((119 - m.length % 64) % 64) 0 ++ beBytes 8 (8 * m.length))).length / 64)
    (beWords (m ++ (0x80 : Byte) :: (List.replicate ((119 - m.length % 64) % 64) 0 ++ beBytes 8 (8 * m.length)))) shaInit rfl
  simp only [sha256, List.length_flatMap, beBytes_length]
  rw [List.map_const', h]; rfl

@[simp] theorem ecdsaSign_length (d : Nat) (m : List Byte) : (ecdsaSign d m).length = 64 := by simp [ecdsaSign]

@[simp] theorem deviceId_length : deviceId.length = 16 := by simp [deviceId]

@[simp] theorem signWith_length (s : State) (ledger : Bool) (m : List Byte) : (s.signWith ledger m).length = 64 := by
  simp only [State.signWith]; split <;> simp

end Sys2Proof.Laws
end

