-- ==== Sys2Proof/Laws/Memory.lean ====
section
/-! SUPPORT. Tables and memory in canonical form: reading after a write, what a write leaves alone, and that every memory operation
keeps the form. -/

set_option Elab.async false

namespace Sys2Proof.Laws

open Sys2Proof Sys2Proof.Machine

/-- A lower bound of the canonical form may be lowered. -/
theorem twfFrom_mono {α : Type} [DecidableEq α] (d : α) (t : Tbl α) (lo lo' : Nat) (h : twfFrom d lo t = true) (hl : lo' ≤ lo) :
    twfFrom d lo' t = true := by
  cases t with
  | nil => rfl
  | cons p t =>
    obtain ⟨j, a⟩ := p
    simp only [twfFrom, Bool.and_eq_true, decide_eq_true_eq] at h ⊢
    exact ⟨⟨by omega, h.1.2⟩, h.2⟩

/-- A table with entries dropped keeps the canonical form. -/
theorem twfFrom_filter {α : Type} [DecidableEq α] (d : α) (t : Tbl α) (lo : Nat) (p : Nat × α → Bool) (h : twfFrom d lo t = true) :
    twfFrom d lo (t.filter p) = true := by
  induction t generalizing lo with
  | nil => rfl
  | cons x t ih =>
    obtain ⟨j, a⟩ := x
    simp only [twfFrom, Bool.and_eq_true, decide_eq_true_eq] at h
    simp only [List.filter]
    split
    · simp only [twfFrom, Bool.and_eq_true, decide_eq_true_eq]
      exact ⟨h.1, ih (j + 1) h.2⟩
    · exact twfFrom_mono d _ (j + 1) lo (ih (j + 1) h.2) (by omega)

/-- Listing an entry keeps the canonical form above any bound not above the entry. -/
theorem twfFrom_tput {α : Type} [DecidableEq α] (d : α) (t : Tbl α) (lo k : Nat) (v : α) (h : twfFrom d lo t = true) (hk : lo ≤ k) (hv : v ≠ d) :
    twfFrom d lo (tput t k v) = true := by
  induction t generalizing lo with
  | nil => simp_all [tput, twfFrom]
  | cons p t ih =>
    obtain ⟨j, a⟩ := p
    simp only [twfFrom, Bool.and_eq_true, decide_eq_true_eq] at h
    simp only [tput]
    split
    · rename_i hkj
      simp only [twfFrom, Bool.and_eq_true, decide_eq_true_eq]
      exact ⟨⟨hk, hv⟩, hkj ▸ h.2⟩
    · split
      · simp only [twfFrom, Bool.and_eq_true, decide_eq_true_eq]
        exact ⟨⟨hk, hv⟩, ⟨by omega, h.1.2⟩, h.2⟩
      · simp only [twfFrom, Bool.and_eq_true, decide_eq_true_eq]
        exact ⟨h.1, ih (j + 1) h.2 (by omega)⟩

/-- Setting an entry keeps the canonical form. -/
theorem twf_tset {α : Type} [DecidableEq α] (d : α) (t : Tbl α) (k : Nat) (v : α) (h : twf d t = true) : twf d (tset d t k v) = true := by
  unfold tset
  split
  · exact twfFrom_filter d t 0 _ h
  · exact twfFrom_tput d t 0 k v h (Nat.zero_le k) ‹_›

/-- A listed value is read back. -/
theorem tget_tput_same {α : Type} (d : α) (t : Tbl α) (k : Nat) (v : α) : tget d (tput t k v) k = v := by
  induction t with
  | nil => simp [tput, tget]
  | cons p t ih =>
    simp only [tput]
    split
    · simp [tget]
    · split
      · simp [tget]
      · simp [tget, *]

/-- Listing a value leaves every other number alone. -/
theorem tget_tput_other {α : Type} (d : α) (t : Tbl α) (k i : Nat) (v : α) (hi : i ≠ k) : tget d (tput t k v) i = tget d t i := by
  induction t with
  | nil => simp [tput, tget, hi]
  | cons p t ih =>
    simp only [tput]
    split
    · rename_i h; simp [tget, h ▸ hi, hi]
    · split
      · simp [tget, hi]
      · simp [tget, ih]

/-- A number whose entries are dropped reads as the default. -/
theorem tget_filter_same {α : Type} (d : α) (t : Tbl α) (k : Nat) : tget d (t.filter (fun p => p.1 ≠ k)) k = d := by
  induction t with
  | nil => rfl
  | cons p t ih =>
    by_cases h : p.1 = k
    · simpa [h] using ih
    · rw [List.filter_cons_of_pos (by simpa using h)]
      simp only [tget]; rw [if_neg (fun x => h x.symm)]; exact ih

/-- Dropping a number's entries leaves every other number alone. -/
theorem tget_filter_other {α : Type} (d : α) (t : Tbl α) (k i : Nat) (hi : i ≠ k) : tget d (t.filter (fun p => p.1 ≠ k)) i = tget d t i := by
  induction t with
  | nil => rfl
  | cons p t ih =>
    by_cases h : p.1 = k
    · rw [List.filter_cons_of_neg (by simpa using h)]
      simp only [tget]; rw [if_neg (by rw [h]; exact hi)]; exact ih
    · rw [List.filter_cons_of_pos (by simpa using h)]
      simp only [tget, ih]

/-- Read after write at the same number. -/
@[simp] theorem tget_tset_same {α : Type} [DecidableEq α] (d : α) (t : Tbl α) (k : Nat) (v : α) : tget d (tset d t k v) k = v := by
  unfold tset
  split
  · rename_i h; rw [h]; exact tget_filter_same d t k
  · exact tget_tput_same d t k v

/-- A write leaves every other number alone. -/
theorem tget_tset_other {α : Type} [DecidableEq α] (d : α) (t : Tbl α) (k i : Nat) (v : α) (hi : i ≠ k) :
    tget d (tset d t k v) i = tget d t i := by
  unfold tset
  split
  · exact tget_filter_other d t k i hi
  · exact tget_tput_other d t k i v hi

/-- A table read after a write. -/
theorem tget_tset {α : Type} [DecidableEq α] (d : α) (t : Tbl α) (k i : Nat) (v : α) :
    tget d (tset d t k v) i = if i = k then v else tget d t i := by
  split
  · rename_i h; rw [h]; exact tget_tset_same d t k v
  · exact tget_tset_other d t k i v ‹_›

/-- An entry of a table after every listed entry is changed: changed, or unlisted before and after. -/
theorem tget_tmapAll {α : Type} [DecidableEq α] (d : α) (f : Nat → α → α) (t : Tbl α) (k : Nat) :
    tget d (tmapAll d f t) k = f k (tget d t k) ∨ (tget d (tmapAll d f t) k = d ∧ tget d t k = d) := by
  induction t with
  | nil => exact Or.inr ⟨rfl, rfl⟩
  | cons p t ih =>
    obtain ⟨j, a⟩ := p
    by_cases hk : j = k
    · subst hk
      left
      simp only [tmapAll]
      split
      · rename_i h
        rw [tget_filter_same]
        simp [tget, h]
      · simp [tget]
    · have hk' : ¬k = j := fun h => hk h.symm
      have e : tget d ((j, a) :: t) k = tget d t k := by simp [tget, hk']
      rw [e]
      simp only [tmapAll]
      split
      · rw [tget_filter_other d _ j k hk']; exact ih
      · have e' : tget d ((j, f j a) :: tmapAll d f t) k = tget d (tmapAll d f t) k := by simp [tget, hk']
        rw [e']; exact ih

/-- Inserting a number keeps a list strictly rising above a bound. -/
theorem ninsert_rel (k b : Nat) (l : List Nat) (hb : b < k) (h : ∀ x ∈ l, b < x) : ∀ x ∈ ninsert k l, b < x := by
  induction l with
  | nil => intro x hx; simp [ninsert] at hx; omega
  | cons j t ih =>
    intro x hx
    simp only [ninsert] at hx
    split at hx
    · exact h x hx
    · split at hx
      · rcases List.mem_cons.1 hx with rfl | hx
        · exact hb
        · exact h x hx
      · rcases List.mem_cons.1 hx with rfl | hx
        · exact h x (List.mem_cons_self ..)
        · exact ih (fun y hy => h y (List.mem_cons_of_mem _ hy)) x hx

/-- Inserting a number keeps a list strictly rising. -/
theorem ninsert_pairwise (k : Nat) (l : List Nat) (h : l.Pairwise (· < ·)) : (ninsert k l).Pairwise (· < ·) := by
  induction l with
  | nil => simp [ninsert]
  | cons j t ih =>
    rw [List.pairwise_cons] at h
    simp only [ninsert]
    split
    · rw [List.pairwise_cons]; exact h
    · split
      · rename_i hlt
        rw [List.pairwise_cons, List.pairwise_cons]
        refine ⟨?_, h⟩
        intro x hx
        rcases List.mem_cons.1 hx with rfl | hx
        · exact hlt
        · exact Nat.lt_trans hlt (h.1 x hx)
      · rename_i hne hlt
        rw [List.pairwise_cons]
        exact ⟨ninsert_rel k j t (by omega) h.1, ih h.2⟩

/-- One byte written into memory keeps its canonical form. -/
theorem memSet_wf (s : State) (a : Nat) (b : Byte) (h : Memory.wf s.mem = true) : Memory.wf (s.memSet a b).mem = true := twf_tset 0 s.mem a b h

/-- The byte written is the byte read. -/
theorem memSet_same (s : State) (a : Nat) (b : Byte) : tget 0 (s.memSet a b).mem a = b := tget_tset_same 0 s.mem a b

/-- Every other byte of memory stands. -/
theorem memSet_other (s : State) (a i : Nat) (b : Byte) (hi : i ≠ a) : tget 0 (s.memSet a b).mem i = tget 0 s.mem i :=
  tget_tset_other 0 s.mem a i b hi

/-- Memory after reset lists nothing, so it has the canonical form. -/
theorem reset_canonical : State.reset.canonical := ⟨rfl, List.Pairwise.nil⟩

end Sys2Proof.Laws
end

