-- ==== Sys2Proof/Laws/Keeps.lean ====
section
/-! SUPPORT. What every operation of the model keeps: the queue of waiting commands, local time, canonical memory; free values and
messages are only added. The relation, and the ways it composes. -/

set_option Elab.async false

namespace Sys2Proof.Laws

open Sys2Proof Sys2Proof.Machine

/-- `s` comes from `r` by operations that leave the queue and local time alone, take free values only onwards, only append messages,
keep
the stored data canonical, and keep every weir as R50 has it. -/
structure Keeps (r s : State) : Prop where
  pending : s.pending = r.pending
  nowNs : s.nowNs = r.nowNs
  free : r.freeCtr ≤ s.freeCtr
  out : ∃ l, s.out = r.out ++ l
  canonical : r.canonical → s.canonical
  weirs : r.weirsOk → s.weirsOk

theorem keeps_refl (s : State) : Keeps s s := ⟨rfl, rfl, Nat.le_refl _, ⟨[], by simp⟩, id, id⟩

theorem keeps_trans {r s t : State} (h : Keeps r s) (k : Keeps s t) : Keeps r t :=
  ⟨k.pending.trans h.pending, k.nowNs.trans h.nowNs, Nat.le_trans h.free k.free,
   by obtain ⟨l, hl⟩ := h.out; obtain ⟨m, hm⟩ := k.out; exact ⟨l ++ m, by rw [hm, hl, List.append_assoc]⟩,
   fun c => k.canonical (h.canonical c), fun c => k.weirs (h.weirs c)⟩

/-- A record update of other fields keeps; the form in which an update appears. -/
theorem keeps_mk {r s : State} {x_memKeys : List W64} {x_slabTurn : Tbl Bool} {x_seqs : Tbl SeqSt} {x_queues : Tbl
    QueueSt} {x_slots : Tbl Slot} {x_tide : TideSt} {x_cores : Tbl CoreSt} {x_llc : LlcSt} {x_nt x_dt : Tbl MemCtl} {x_cod : CodSt} {x_dlt :
    DltSt} {x_train : TrainSt} {x_est : EstSt} {x_coll : GroupSt} {x_frd : FrdSt} {x_spw : SpwSt} {x_jui : JuiSt} {x_gau : GauSt} {x_boot :
    BootSt} {x_oxb : OxbSt} {x_cap : CapSt} {x_pins : PinSt} {x_rst : ResetSt}
    (h : Keeps r s) : Keeps r (State.mk s.pending s.freeCtr s.nowNs s.mem s.poison x_memKeys x_slabTurn s.weirs s.weirOps x_seqs x_queues x_slots
    x_tide x_cores x_llc x_nt x_dt x_cod x_dlt x_train x_est x_coll x_frd x_spw x_jui x_gau x_boot x_oxb x_cap x_pins x_rst s.out) :=
  keeps_trans h ⟨rfl, rfl, Nat.le_refl _, ⟨[], by simp⟩, id, id⟩

theorem keeps_fst {α : Type} {r a : State} {b : α} {p : State × α} (e : p = (a, b)) (h : Keeps r p.1) : Keeps r a := by rw [e] at h; exact h

theorem keeps_snd {α : Type} {r a : State} {b : α} {p : α × State} (e : p = (b, a)) (h : Keeps r p.2) : Keeps r a := by rw [e] at h; exact h

theorem keeps_foldl {α : Type} {r s : State} {l : List α} {f : State → α → State} (hf : ∀ q x, Keeps q (f q x)) (h : Keeps r s) :
    Keeps r (l.foldl f s) := by
  induction l generalizing s with
  | nil => exact h
  | cons a t ih => exact ih (keeps_trans h (hf s a))

theorem keeps_foldl_fst {α β : Type} {r : State} {p : State × β} {l : List α} {f : State × β → α → State × β}
    (hf : ∀ q x, Keeps q.1 (f q x).1) (h : Keeps r p.1) : Keeps r (l.foldl f p).1 := by
  induction l generalizing p with
  | nil => exact h
  | cons a t ih => exact ih (keeps_trans h (hf p a))

theorem keeps_foldl_snd {α β : Type} {r : State} {p : β × State} {l : List α} {f : β × State → α → β × State}
    (hf : ∀ q x, Keeps q.2 (f q x).2) (h : Keeps r p.2) : Keeps r (l.foldl f p).2 := by
  induction l generalizing p with
  | nil => exact h
  | cons a t ih => exact ih (keeps_trans h (hf p a))

/-! ### Weirs -/

/-- The weir of reset. -/
theorem weir_zero_ok : Weir.zero.ok := ⟨Or.inr ⟨rfl, rfl⟩, by decide⟩

/-- An arrival keeps a weir as R50 has it. -/
theorem weir_arrive_ok (w : Weir) (h : w.ok) : w.arrive.ok := by
  obtain ⟨h1, h2⟩ := h
  unfold Weir.arrive
  split
  · exact ⟨by simp only; omega, Nat.mod_lt _ (by decide)⟩
  · split
    · exact ⟨by simp only; omega, Nat.mod_lt _ (by decide)⟩
    · exact ⟨by simp only; omega, h2⟩

/-- Arming keeps a weir as R50 has it. -/
theorem weir_arm_ok (w : Weir) (t : Nat) : (w.arm t).ok := by
  unfold Weir.arm
  split
  · exact ⟨Or.inr ⟨rfl, rfl⟩, Nat.mod_lt _ (by decide)⟩
  · exact ⟨Or.inl (Nat.mod_lt _ (by omega)), Nat.mod_lt _ (by decide)⟩

/-- Arms one after another keep it. -/
theorem weir_arms_ok (l : List (Nat × Nat)) (w : Weir) (h : w.ok) : (l.foldl (fun w a => w.arm a.2) w).ok := by
  induction l generalizing w with
  | nil => exact h
  | cons a l ih => exact ih _ (weir_arm_ok w a.2)

/-- So do arrivals one after another. -/
theorem weir_arrivals_ok (n : Nat) (w : Weir) (h : w.ok) : (Weir.arrivals n w).ok := by
  induction n generalizing w with
  | zero => exact h
  | succ n ih => exact ih _ (weir_arrive_ok w h)

/-- What a cycle of operations leaves is as R50 has it. -/
theorem weirOps_result_ok (o : WeirOps) (h : o.was.ok) : o.result.ok := weir_arrivals_ok _ _ (weir_arms_ok _ _ h)

/-- The weir that a cycle's operations start from. -/
theorem weirCycle_was_ok {s : State} (i : Nat) (h : s.weirsOk) : (s.weirCycle i).was.ok := by
  unfold State.weirCycle
  simp only
  split
  · exact (h i).2
  · exact (h i).1

/-- One weir and its cycle are replaced by good ones; the others stand. -/
theorem weirsOk_tset {s t : State} (i : Nat) (w : Weir) (o : WeirOps) (hw : w.ok) (ho : o.was.ok) (e : t.weirs = tset .zero s.weirs i w)
    (e' : t.weirOps = tset .zero s.weirOps i o) (h : s.weirsOk) : t.weirsOk := by
  intro k
  rw [State.weir, e, e', tget_tset, tget_tset]
  by_cases hk : k = i
  · rw [if_pos hk, if_pos hk]; exact ⟨hw, ho⟩
  · rw [if_neg hk, if_neg hk]; exact h k

/-! ### The operations that touch what is kept -/

theorem keeps_arriveWeir {r s : State} (i : Nat) (h : Keeps r s) : Keeps r (s.arriveWeir i) :=
  keeps_trans h ⟨rfl, rfl, Nat.le_refl _, ⟨[], by simp [State.arriveWeir]⟩, id, fun c =>
    weirsOk_tset i _ { s.weirCycle i with arrivals := (s.weirCycle i).arrivals + 1 } (weir_arrive_ok _ (c i).1) (weirCycle_was_ok i c) rfl rfl c⟩

theorem keeps_armWeir {r s : State} (i t key : Nat) (h : Keeps r s) : Keeps r (s.armWeir i t key) := by
  refine keeps_trans h ⟨rfl, rfl, Nat.le_refl _, ⟨[], by simp [State.armWeir]⟩, id, fun c => ?_⟩
  have ho : { s.weirCycle i with arms := armInsert key t (s.weirCycle i).arms }.was.ok := weirCycle_was_ok i c
  exact weirsOk_tset i _ _ (weirOps_result_ok _ ho) ho rfl rfl c

theorem keeps_closeWeirs {r s : State} (h : Keeps r s) : Keeps r s.closeWeirs :=
  keeps_trans h ⟨rfl, rfl, Nat.le_refl _, ⟨[], by simp [State.closeWeirs]⟩, id, fun c i => ⟨(c i).1, weir_zero_ok⟩⟩

theorem keeps_memSet {r s : State} (a : Nat) (b : Byte) (h : Keeps r s) : Keeps r (s.memSet a b) :=
  keeps_trans h ⟨rfl, rfl, Nat.le_refl _, ⟨[], by simp [State.memSet]⟩, fun c => ⟨memSet_wf s a b c.1, c.2⟩, id⟩

theorem keeps_setPoison {r s : State} (k : Nat) (on : Bool) (h : Keeps r s) : Keeps r (s.setPoison k on) := by
  refine keeps_trans h ⟨rfl, rfl, Nat.le_refl _, ⟨[], by simp [State.setPoison]⟩, fun c => ⟨c.1, ?_⟩, id⟩
  simp only [State.setPoison]
  split
  · exact ninsert_pairwise k _ c.2
  · exact List.Pairwise.filter _ c.2

theorem keeps_fresh {r s : State} (h : Keeps r s) : Keeps r s.fresh.2 :=
  keeps_trans h ⟨rfl, rfl, Nat.le_succ _, ⟨[], by simp [State.fresh]⟩, id, id⟩

theorem keeps_freshWord {r s : State} (h : Keeps r s) : Keeps r s.freshWord.2 :=
  keeps_trans h ⟨rfl, rfl, Nat.le_succ _, ⟨[], by simp [State.freshWord]⟩, id, id⟩

theorem keeps_send {r s : State} (m : OutMsg) (h : Keeps r s) : Keeps r (s.send m) :=
  keeps_trans h ⟨rfl, rfl, Nat.le_refl _, ⟨[m], rfl⟩, id, id⟩

/-- A state whose memory and poisoned sectors are filtered from another's. -/
theorem keeps_filtered {r s t : State} (h : Keeps r s) (h1 : t.pending = s.pending) (h2 : t.nowNs = s.nowNs) (h3 : t.freeCtr = s.freeCtr)
    (h4 : t.out = s.out) (h5 : ∃ p, t.mem = s.mem.filter p) (h6 : ∃ p, t.poison = s.poison.filter p)
    (h7 : t.weirs = s.weirs) (h8 : t.weirOps = s.weirOps) : Keeps r t := by
  refine keeps_trans h ⟨h1, h2, Nat.le_of_eq h3.symm, ⟨[], by rw [h4]; simp⟩, fun c => ?_, fun c i => ?_⟩
  · obtain ⟨p, hp⟩ := h5
    obtain ⟨q, hq⟩ := h6
    exact ⟨by rw [hp]; exact twfFrom_filter 0 s.mem 0 p c.1, by rw [hq]; exact List.Pairwise.filter _ c.2⟩
  · have hi := c i
    rw [State.weir] at hi ⊢
    rw [h7, h8]; exact hi

/-- A state whose memory is empty and clean. -/
theorem keeps_cleared {r s t : State} (h : Keeps r s) (h1 : t.pending = s.pending) (h2 : t.nowNs = s.nowNs) (h3 : t.freeCtr = s.freeCtr)
    (h4 : t.out = s.out) (h5 : t.mem = []) (h6 : t.poison = [])
    (h7 : t.weirs = []) (h8 : t.weirOps = []) : Keeps r t :=
  keeps_trans h ⟨h1, h2, Nat.le_of_eq h3.symm, ⟨[], by rw [h4]; simp⟩, fun _ => ⟨by rw [h5]; rfl, by rw [h6]; exact List.Pairwise.nil⟩,
   fun _ i => by rw [State.weir, h7, h8]; exact ⟨weir_zero_ok, weir_zero_ok⟩⟩

end Sys2Proof.Laws
end

