-- ==== Sys2Proof/Laws/KeepsStore.lean ====
section
/-! SUPPORT. What the operations keep (`Keeps`), one lemma per operation: memory, cache, tensors and the named operations. -/

namespace Sys2Proof.Laws

open Sys2Proof Sys2Proof.Machine

/-! ### Mem -/

theorem keeps_modSlice {org s : State} (i : Nat) (f : SliceSt → SliceSt) (hk : Keeps org s) : Keeps org (State.modSlice s i f) := by
  unfold State.modSlice
  repeat' (with_reducible first
      | assumption | exact keeps_refl _ | dsimp only | (apply keeps_mk))

theorem keeps_setLine {org s : State} (p : Nat) (x : LLine) (hk : Keeps org s) : Keeps org (State.setLine s p x) := by
  unfold State.setLine
  repeat' (with_reducible first
      | assumption | exact keeps_refl _ | dsimp only | (apply keeps_mk))

theorem keeps_modLine {org s : State} (p : Nat) (f : LLine → LLine) (hk : Keeps org s) : Keeps org (State.modLine s p f) := by
  unfold State.modLine
  repeat' (with_reducible first
      | assumption | exact keeps_refl _ | dsimp only | apply keeps_setLine)

theorem keeps_modCtl {org s : State} (a : Nat) (f : MemCtl → MemCtl) (hk : Keeps org s) : Keeps org (State.modCtl s a f) := by
  unfold State.modCtl
  repeat' (with_reducible first
      | assumption | exact keeps_refl _ | dsimp only | split | (refine keeps_fst (by assumption) ?_)
      | (refine keeps_snd (by assumption) ?_) | (apply keeps_mk))

theorem keeps_memStore {org s : State} (x0 : Nat) (x1 : List Byte) (hk : Keeps org s) : Keeps org (State.memStore s x0 x1) := by
  induction x1 generalizing x0 s with
  | nil => exact hk
  | cons b t ih =>
    unfold State.memStore
    repeat' (with_reducible first
      | assumption | (apply ih) | exact keeps_refl _ | dsimp only | apply keeps_memSet)

theorem keeps_burstWrite {org s : State} (a : Nat) (mask : Nat → Bool) (vals : Nat → Byte) (poisoned : Bool) (hk : Keeps org s) : Keeps
    org (State.burstWrite s a mask vals poisoned) := by
  unfold State.burstWrite
  repeat' (with_reducible first
      | assumption | exact keeps_refl _ | (intro _ _) | (intro _) | dsimp only | apply keeps_memSet | apply keeps_modCtl
      | apply keeps_setPoison | (refine keeps_foldl ?_ ?_) | (refine keeps_foldl_fst ?_ ?_) | split
      | (refine keeps_fst (by assumption) ?_) | (refine keeps_snd (by assumption) ?_) | (apply keeps_mk))

theorem keeps_writeBack {org s : State} (p : Nat) (hk : Keeps org s) : Keeps org (State.writeBack s p) := by
  unfold State.writeBack
  repeat' (with_reducible first
      | assumption | exact keeps_refl _ | (intro _ _) | (intro _) | dsimp only | apply keeps_burstWrite | apply keeps_modSlice | split
      | (apply keeps_mk))

theorem keeps_touch {org s : State} (p : Nat) (hk : Keeps org s) : Keeps org (State.touch s p) := by
  unfold State.touch
  repeat' (with_reducible first
      | assumption | exact keeps_refl _ | dsimp only | (apply keeps_mk))

theorem keeps_pinPlace {org s : State} (p : Nat) (hk : Keeps org s) : Keeps org (State.pinPlace s p) := by
  unfold State.pinPlace
  repeat' (with_reducible first
      | assumption | exact keeps_refl _ | (intro _ _) | (intro _) | dsimp only | apply keeps_setLine | apply keeps_modSlice | split
      | (apply keeps_mk))

theorem keeps_countRa {org s : State} (q : Nat) (used : Bool) (hk : Keeps org s) : Keeps org (State.countRa s q used) := by
  unfold State.countRa
  repeat' (with_reducible first
      | assumption | exact keeps_refl _ | (intro _ _) | (intro _) | dsimp only | split | (apply keeps_mk))

theorem keeps_dropProv {org s : State} (p : Nat) (hk : Keeps org s) : Keeps org (State.dropProv s p) := by
  unfold State.dropProv
  repeat' (with_reducible first
      | assumption | exact keeps_refl _ | dsimp only | apply keeps_setLine | apply keeps_countRa | split
      | (refine keeps_fst (by assumption) ?_) | (refine keeps_snd (by assumption) ?_) | (apply keeps_mk))

theorem keeps_allocate {org s : State} (l : Nat) (hk : Keeps org s) : Keeps org (State.allocate s l).1 := by
  unfold State.allocate
  repeat' (with_reducible first
      | assumption | exact keeps_refl _ | dsimp only | apply keeps_writeBack | apply keeps_setLine | split
      | (refine keeps_fst (by assumption) ?_) | (refine keeps_snd (by assumption) ?_) | (apply keeps_mk))

theorem keeps_lineWrite {org s : State} (a : Nat) (bs : List Byte) (on : Bool) (pin : Bool) (hk : Keeps org s) : Keeps org
    (State.lineWrite s a bs on pin) := by
  unfold State.lineWrite
  repeat' (with_reducible first
      | assumption | exact keeps_refl _ | (intro _ _) | (intro _) | dsimp only | apply keeps_modSlice | apply keeps_burstWrite
      | apply keeps_modLine | apply keeps_touch | apply keeps_pinPlace | apply keeps_dropProv | apply keeps_allocate | split
      | (refine keeps_fst (by assumption) ?_) | (refine keeps_snd (by assumption) ?_) | (apply keeps_mk))

theorem keeps_slabWrite {org s : State} (a : Nat) (bs : List Byte) (on : Bool) (hk : Keeps org s) : Keeps org (State.slabWrite s a bs on)
    := by
  unfold State.slabWrite
  repeat' (with_reducible first
      | assumption | exact keeps_refl _ | (intro _ _) | dsimp only | apply keeps_memStore | apply keeps_setPoison
      | (refine keeps_foldl ?_ ?_) | (refine keeps_foldl_fst ?_ ?_) | split)

theorem keeps_pokeP {org s : State} (a : Nat) (bs : List Byte) (on : Bool) (pin : Bool) (hk : Keeps org s) : Keeps org (State.pokeP s a bs
    on pin) := by
  unfold State.pokeP
  repeat' (with_reducible first
      | assumption | exact keeps_refl _ | (intro _ _) | dsimp only | apply keeps_lineWrite | apply keeps_slabWrite
      | (refine keeps_foldl ?_ ?_) | (refine keeps_foldl_fst ?_ ?_) | split)

theorem keeps_noticeDescs {org s : State} (s0 : State) (a : Nat) (n : Nat) (hk : Keeps org s) : Keeps org (State.noticeDescs s0 s a n) := by
  unfold State.noticeDescs
  repeat' (with_reducible first
      | assumption | exact keeps_refl _ | (intro _ _) | (intro _) | dsimp only | (refine keeps_foldl ?_ ?_)
      | (refine keeps_foldl_fst ?_ ?_) | split | (apply keeps_mk))

theorem keeps_noticeRings {org s : State} (s0 : State) (a : Nat) (n : Nat) (hk : Keeps org s) : Keeps org (State.noticeRings s0 s a n) := by
  unfold State.noticeRings
  repeat' (with_reducible first
      | assumption | exact keeps_refl _ | (intro _ _) | (intro _) | dsimp only | split | (apply keeps_mk))

theorem keeps_noticed {org s : State} (s0 : State) (a : Nat) (n : Nat) (hk : Keeps org s) : Keeps org (State.noticed s0 s a n) := by
  unfold State.noticed
  repeat' (with_reducible first
      | assumption | exact keeps_refl _ | dsimp only | apply keeps_noticeRings | apply keeps_noticeDescs)

theorem keeps_store {org s : State} (a : Nat) (bs : List Byte) (on : Bool) (pin : Bool) (hk : Keeps org s) : Keeps org (State.store s a bs
    on pin) := by
  unfold State.store
  repeat' (with_reducible first
      | assumption | exact keeps_refl _ | (intro _ _) | (intro _) | dsimp only | apply keeps_writePart | apply keeps_pokeP
      | apply keeps_noticed | (refine keeps_foldl ?_ ?_) | (refine keeps_foldl_fst ?_ ?_) | split | (apply keeps_mk))

theorem keeps_poke {org s : State} (a : Nat) (bs : List Byte) (hk : Keeps org s) : Keeps org (State.poke s a bs) := by
  unfold State.poke
  repeat' (with_reducible first
      | assumption | exact keeps_refl _ | dsimp only | apply keeps_store)

theorem keeps_pinRange {org s : State} (lo : Nat) (hi : Nat) (hk : Keeps org s) : Keeps org (State.pinRange s lo hi) := by
  unfold State.pinRange
  repeat' (with_reducible first
      | assumption | exact keeps_refl _ | (intro _ _) | dsimp only | apply keeps_pinPlace | (refine keeps_foldl ?_ ?_)
      | (refine keeps_foldl_fst ?_ ?_) | split)

theorem keeps_clearCache {org s : State}  (hk : Keeps org s) : Keeps org (State.clearCache s) := by
  unfold State.clearCache
  repeat' (with_reducible first
      | assumption | exact keeps_refl _ | (intro _ _) | dsimp only | apply keeps_writeBack | (refine keeps_foldl ?_ ?_)
      | (refine keeps_foldl_fst ?_ ?_) | (apply keeps_mk))

/-! ### Tensor -/

theorem keeps_TDesc_zbSet {org s : State} (t : TDesc) (r : Nat) (j : Nat) (z : Bool) (hk : Keeps org s) : Keeps org (TDesc.zbSet t s r j
    z) := by
  unfold TDesc.zbSet
  repeat' (with_reducible first
      | assumption | exact keeps_refl _ | dsimp only | apply keeps_store | split)

theorem keeps_TDesc_zbRefresh {org s : State} (t : TDesc) (r : Nat) (j : Nat) (hk : Keeps org s) : Keeps org (TDesc.zbRefresh t s r j) := by
  unfold TDesc.zbRefresh
  repeat' (with_reducible first
      | assumption | exact keeps_refl _ | (intro _ _) | (intro _) | dsimp only | apply keeps_TDesc_zbSet | split)

theorem keeps_TDesc_storeBelow {org s : State} (t : TDesc) (r : Nat) (ws : List (Nat × Nat × Nat)) (a : Nat) (bs : List Byte) (on : Bool)
    (hk : Keeps org s) : Keeps org (TDesc.storeBelow t s r ws a bs on) := by
  unfold TDesc.storeBelow
  repeat' (with_reducible first
      | assumption | exact keeps_refl _ | (intro _ _) | (intro _) | dsimp only | apply keeps_store | (refine keeps_foldl ?_ ?_)
      | (refine keeps_foldl_fst ?_ ?_) | split)

theorem keeps_TDesc_writeRow {org s : State} (t : TDesc) (r : Nat) (i0 : Nat) (bits : List Nat) (on : Bool) (ws : List (Nat × Nat × Nat))
    (hk : Keeps org s) : Keeps org (TDesc.writeRow t s r i0 bits on ws) := by
  unfold TDesc.writeRow
  repeat' (with_reducible first
      | assumption | exact keeps_refl _ | (intro _ _) | (intro _) | dsimp only | apply keeps_TDesc_storeBelow | split)

theorem keeps_TDesc_writeScale {org s : State} (t : TDesc) (r : Nat) (i0 : Nat) (b : Nat) (on : Bool) (hk : Keeps org s) : Keeps org
    (TDesc.writeScale t s r i0 b on) := by
  unfold TDesc.writeScale
  repeat' (with_reducible first
      | assumption | exact keeps_refl _ | dsimp only | apply keeps_store | split)

/-! ### Ops -/

theorem keeps_freshWords {org x1 : State} (x0 : Nat) (hk : Keeps org x1) : Keeps org (State.freshWords x0 x1).2 := by
  induction x0 generalizing x1 with
  | zero => exact hk
  | succ n ih =>
    unfold State.freshWords
    repeat' (with_reducible first
      | assumption | (apply ih) | exact keeps_refl _ | dsimp only | apply keeps_freshWord | split
      | (refine keeps_fst (by assumption) ?_) | (refine keeps_snd (by assumption) ?_))

theorem keeps_sendRoce {org s : State} (m : OutMsg) (hk : Keeps org s) : Keeps org (State.sendRoce s m) := by
  unfold State.sendRoce
  repeat' (with_reducible first
      | assumption | exact keeps_refl _ | dsimp only | apply keeps_send)

theorem keeps_modCore {org s : State} (c : Nat) (f : CoreSt → CoreSt) (hk : Keeps org s) : Keeps org (State.modCore s c f) := by
  unfold State.modCore
  repeat' (with_reducible first
      | assumption | exact keeps_refl _ | dsimp only | (apply keeps_mk))

theorem keeps_modVec {org s : State} (c : Nat) (f : VecSt → VecSt) (hk : Keeps org s) : Keeps org (State.modVec s c f) := by
  unfold State.modVec
  repeat' (with_reducible first
      | assumption | exact keeps_refl _ | (intro _ _) | (intro _) | dsimp only | apply keeps_modCore | (apply keeps_mk))

theorem keeps_modMx {org s : State} (c : Nat) (f : MxSt → MxSt) (hk : Keeps org s) : Keeps org (State.modMx s c f) := by
  unfold State.modMx
  repeat' (with_reducible first
      | assumption | exact keeps_refl _ | (intro _ _) | (intro _) | dsimp only | apply keeps_modCore | (apply keeps_mk))

theorem keeps_modBsn {org s : State} (c : Nat) (f : BsnSt → BsnSt) (hk : Keeps org s) : Keeps org (State.modBsn s c f) := by
  unfold State.modBsn
  repeat' (with_reducible first
      | assumption | exact keeps_refl _ | (intro _ _) | (intro _) | dsimp only | apply keeps_modCore | (apply keeps_mk))

theorem keeps_modSlc {org s : State} (c : Nat) (f : SlcSt → SlcSt) (hk : Keeps org s) : Keeps org (State.modSlc s c f) := by
  unfold State.modSlc
  repeat' (with_reducible first
      | assumption | exact keeps_refl _ | (intro _ _) | (intro _) | dsimp only | apply keeps_modCore | (apply keeps_mk))

theorem keeps_modDma {org s : State} (c : Nat) (f : DmaSt → DmaSt) (hk : Keeps org s) : Keeps org (State.modDma s c f) := by
  unfold State.modDma
  repeat' (with_reducible first
      | assumption | exact keeps_refl _ | (intro _ _) | (intro _) | dsimp only | apply keeps_modCore | (apply keeps_mk))

theorem keeps_park {org s : State} (unit : Nat) (inst : Nat) (r : Requester) (hk : Keeps org s) : Keeps org (State.park s unit inst r) := by
  unfold State.park
  repeat' (with_reducible first
      | assumption | exact keeps_refl _ | dsimp only | split | (apply keeps_mk))

theorem keeps_modSeq {org s : State} (p : Nat) (f : SeqSt → SeqSt) (hk : Keeps org s) : Keeps org (State.modSeq s p f) := by
  unfold State.modSeq
  repeat' (with_reducible first
      | assumption | exact keeps_refl _ | dsimp only | (apply keeps_mk))

theorem keeps_modQueue {org s : State} (q : Nat) (f : QueueSt → QueueSt) (hk : Keeps org s) : Keeps org (State.modQueue s q f) := by
  unfold State.modQueue
  repeat' (with_reducible first
      | assumption | exact keeps_refl _ | dsimp only | (apply keeps_mk))

theorem keeps_modEntry {org s : State} (q : Nat) (seq : Nat) (f : WakeEntry → WakeEntry) (hk : Keeps org s) : Keeps org (State.modEntry s
    q seq f) := by
  unfold State.modEntry
  repeat' (with_reducible first
      | assumption | exact keeps_refl _ | (intro _ _) | (intro _) | dsimp only | apply keeps_modSeq | split | (apply keeps_mk))

theorem keeps_ran {org s : State} (q : Nat) (seq : Nat) (code : Nat) (result : List Byte) (effects : List RowEffect) (hk : Keeps org s) :
    Keeps org (State.ran s q seq code result effects) := by
  unfold State.ran
  repeat' (with_reducible first
      | assumption | exact keeps_refl _ | (intro _ _) | (intro _) | dsimp only | apply keeps_modEntry | (apply keeps_mk))

theorem keeps_book {org s : State} (q : Nat) (id : Nat) (cls : Nat) (n : Nat) (hk : Keeps org s) : Keeps org (State.book s q id cls n) := by
  unfold State.book
  repeat' (with_reducible first
      | assumption | exact keeps_refl _ | (intro _ _) | (intro _) | dsimp only | (apply keeps_mk))

theorem keeps_bookCmd {org s : State} (c : Cmd) (cls : Nat) (n : Nat) (hk : Keeps org s) : Keeps org (State.bookCmd s c cls n) := by
  unfold State.bookCmd
  repeat' (with_reducible first
      | assumption | exact keeps_refl _ | dsimp only | apply keeps_book)

theorem keeps_bookOcc {org s : State} (q : Nat) (id : Nat) (n : Nat) (hk : Keeps org s) : Keeps org (State.bookOcc s q id n) := by
  unfold State.bookOcc
  repeat' (with_reducible first
      | assumption | exact keeps_refl _ | (intro _ _) | (intro _) | dsimp only | (apply keeps_mk))

theorem keeps_wakeTrigger {org s : State}  (hk : Keeps org s) : Keeps org (State.wakeTrigger s) := by
  unfold State.wakeTrigger
  repeat' (with_reducible first
      | assumption | exact keeps_refl _ | dsimp only | split | (apply keeps_mk))

theorem keeps_addLog {org s : State} (type : Nat) (rec : List Byte) (hk : Keeps org s) : Keeps org (State.addLog s type rec) := by
  unfold State.addLog
  repeat' (with_reducible first
      | assumption | exact keeps_refl _ | dsimp only | (apply keeps_mk))

theorem keeps_gaugeEvent {org s : State} (code : Nat) (detail : List Byte) (hk : Keeps org s) : Keeps org (State.gaugeEvent s code detail)
    := by
  unfold State.gaugeEvent
  repeat' (with_reducible first
      | assumption | exact keeps_refl _ | dsimp only | apply keeps_addLog)

theorem keeps_keepRecord {org s : State} (r : ErrRec) (hk : Keeps org s) : Keeps org (State.keepRecord s r) := by
  unfold State.keepRecord
  repeat' (with_reducible first
      | assumption | exact keeps_refl _ | dsimp only | apply keeps_addLog | split | (apply keeps_mk))

theorem keeps_raise {org s : State} (cls : Nat) (action : Nat) (unit : Nat) (inst : Nat) (cmd : Option (Nat × Nat)) (addr : Nat) (detail :
    Nat) (fl : Nat) (hk : Keeps org s) : Keeps org (State.raise s cls action unit inst cmd addr detail fl) := by
  unfold State.raise
  repeat' (with_reducible first
      | assumption | exact keeps_refl _ | (intro _ _) | (intro _) | dsimp only | apply keeps_fresh | apply keeps_keepRecord | split
      | (refine keeps_fst (by assumption) ?_) | (refine keeps_snd (by assumption) ?_) | (apply keeps_mk))

theorem keeps_wantPartitionReset {org s : State} (p : Nat) (now : Bool) (hk : Keeps org s) : Keeps org (State.wantPartitionReset s p now)
    := by
  unfold State.wantPartitionReset
  repeat' (with_reducible first
      | assumption | exact keeps_refl _ | (intro _ _) | (intro _) | dsimp only | (refine keeps_fst (by assumption) ?_)
      | (refine keeps_snd (by assumption) ?_) | (apply keeps_mk))

theorem keeps_coreFailed {org s : State} (c : Nat) (cmd : Option (Nat × Nat)) (hk : Keeps org s) : Keeps org (State.coreFailed s c cmd) :=
    by
  unfold State.coreFailed
  repeat' (with_reducible first
      | assumption | exact keeps_refl _ | dsimp only | apply keeps_raise | apply keeps_wantPartitionReset | (apply keeps_mk))

theorem keeps_modRow {org s : State} (r : Nat) (f : NormRow → NormRow) (hk : Keeps org s) : Keeps org (State.modRow s r f) := by
  unfold State.modRow
  repeat' (with_reducible first
      | assumption | exact keeps_refl _ | dsimp only | (apply keeps_mk))

theorem keeps_applyEffects {org s : State} (es : List RowEffect) (hk : Keeps org s) : Keeps org (State.applyEffects s es) := by
  unfold State.applyEffects
  repeat' (with_reducible first
      | assumption | exact keeps_refl _ | (intro _ _) | (intro _) | dsimp only | apply keeps_modRow | (refine keeps_foldl ?_ ?_)
      | (refine keeps_foldl_fst ?_ ?_))

theorem keeps_postResult {org s : State} (c : Cmd) (code : Nat) (data : List Byte) (hk : Keeps org s) : Keeps org (State.postResult s c
    code data) := by
  unfold State.postResult
  repeat' (with_reducible first
      | assumption | exact keeps_refl _ | dsimp only | split | (apply keeps_mk))

/-! ### LlcFam -/

theorem keeps_countFillReads {org s : State} (l : Nat) (hk : Keeps org s) : Keeps org (State.countFillReads s l) := by
  unfold State.countFillReads
  repeat' (with_reducible first
      | assumption | exact keeps_refl _ | (intro _ _) | (intro _) | dsimp only | apply keeps_modCtl | (apply keeps_mk))

theorem keeps_countUnpinned {org s : State} (si : Nat) (miss : Bool) (hk : Keeps org s) : Keeps org (State.countUnpinned s si miss) := by
  unfold State.countUnpinned
  repeat' (with_reducible first
      | assumption | exact keeps_refl _ | (intro _ _) | (intro _) | dsimp only | apply keeps_modSlice | (apply keeps_mk))

theorem keeps_keepWriteCounts {org s : State} (s0 : State) (hk : Keeps org s) : Keeps org (State.keepWriteCounts s0 s) := by
  unfold State.keepWriteCounts
  repeat' (with_reducible first
      | assumption | exact keeps_refl _ | (intro _ _) | (intro _) | dsimp only | (apply keeps_mk))

theorem keeps_poisonAt {org s : State} (level : Nat) (a : Nat) (hk : Keeps org s) : Keeps org (State.poisonAt s level a) := by
  unfold State.poisonAt
  repeat' (with_reducible first
      | assumption | exact keeps_refl _ | (intro _ _) | (intro _) | dsimp only | apply keeps_setPoison | apply keeps_modLine | split
      | (refine keeps_fst (by assumption) ?_) | (refine keeps_snd (by assumption) ?_) | (apply keeps_mk))

theorem keeps_storageUe {org s : State} (level : Nat) (inst : Nat) (a : Nat) (hk : Keeps org s) : Keeps org (State.storageUe s level inst
    a) := by
  unfold State.storageUe
  repeat' (with_reducible first
      | assumption | exact keeps_refl _ | dsimp only | apply keeps_fresh | apply keeps_poisonAt | apply keeps_raise | split
      | (refine keeps_fst (by assumption) ?_) | (refine keeps_snd (by assumption) ?_))

theorem keeps_cacheErrs {org s : State} (l : Nat) (x : ReadErrs) (hk : Keeps org s) : Keeps org (State.cacheErrs s l x) := by
  unfold State.cacheErrs
  repeat' (with_reducible first
      | assumption | exact keeps_refl _ | (intro _ _) | (intro _) | dsimp only | apply keeps_modSlice | apply keeps_storageUe
      | (refine keeps_foldl ?_ ?_) | (refine keeps_foldl_fst ?_ ?_) | (apply keeps_mk))

theorem keeps_memErrs {org s : State} (l : Nat) (x : ReadErrs) (hk : Keeps org s) : Keeps org (State.memErrs s l x) := by
  unfold State.memErrs
  repeat' (with_reducible first
      | assumption | exact keeps_refl _ | (intro _ _) | (intro _) | dsimp only | apply keeps_modCtl | apply keeps_storageUe
      | apply keeps_raise | (refine keeps_foldl ?_ ?_) | (refine keeps_foldl_fst ?_ ?_) | split | (refine keeps_fst (by assumption) ?_)
      | (refine keeps_snd (by assumption) ?_) | (apply keeps_mk))

theorem keeps_readMiss {org s : State} (src : Requester) (l : Nat) (alone : Bool) (errs : ReadErrs) (hk : Keeps org s) : Keeps org
    (State.readMiss s src l alone errs) := by
  unfold State.readMiss
  repeat' (with_reducible first
      | assumption | exact keeps_refl _ | (intro _ _) | (intro _) | dsimp only | apply keeps_modSlice | (apply keeps_mk))

theorem keeps_readLine {org s : State} (src : Requester) (l : Nat) (off : Nat) (n : Nat) (pin : Bool) (errs : ReadErrs) (hk : Keeps org s)
    : Keeps org (State.readLine s src l off n pin errs) := by
  unfold State.readLine
  repeat' (with_reducible first
      | assumption | exact keeps_refl _ | (intro _ _) | (intro _) | dsimp only | apply keeps_modSlice | apply keeps_pinPlace
      | apply keeps_countFillReads | apply keeps_memErrs | apply keeps_allocate | apply keeps_keepWriteCounts | apply keeps_setLine
      | apply keeps_touch | apply keeps_readMiss | apply keeps_countUnpinned | apply keeps_raise | apply keeps_cacheErrs | split
      | (refine keeps_fst (by assumption) ?_) | (refine keeps_snd (by assumption) ?_) | (apply keeps_mk))

theorem keeps_fillLine {org s : State} (l : Nat) (hk : Keeps org s) : Keeps org (State.fillLine s l) := by
  unfold State.fillLine
  repeat' (with_reducible first
      | assumption | exact keeps_refl _ | dsimp only | apply keeps_setLine | split | (refine keeps_fst (by assumption) ?_)
      | (refine keeps_snd (by assumption) ?_) | (apply keeps_mk))

theorem keeps_answerMiss {org s : State} (m : Miss) (hk : Keeps org s) : Keeps org (State.answerMiss s m) := by
  unfold State.answerMiss
  repeat' (with_reducible first
      | assumption | exact keeps_refl _ | dsimp only | apply keeps_countFillReads | apply keeps_memErrs | apply keeps_fillLine | split)

theorem keeps_useProv {org s : State} (ranges : List (Nat × Nat)) (pins : List (Nat × Nat)) (handles : List Nat) (hk : Keeps org s) :
    Keeps org (State.useProv s ranges pins handles) := by
  unfold State.useProv
  repeat' (with_reducible first
      | assumption | exact keeps_refl _ | (intro _ _) | (intro _) | dsimp only | apply keeps_modLine | apply keeps_countRa
      | apply keeps_pinPlace | (refine keeps_foldl ?_ ?_) | (refine keeps_foldl_fst ?_ ?_) | split
      | (refine keeps_fst (by assumption) ?_) | (refine keeps_snd (by assumption) ?_) | (apply keeps_mk))

theorem keeps_discardProv {org s : State} (cond : Nat → State → Nat → Bool) (hk : Keeps org s) : Keeps org (State.discardProv s cond).1 :=
    by
  unfold State.discardProv
  repeat' (with_reducible first
      | assumption | exact keeps_refl _ | (intro _ _) | dsimp only | apply keeps_dropProv | (refine keeps_foldl ?_ ?_)
      | (refine keeps_foldl_fst ?_ ?_) | split | (refine keeps_fst (by assumption) ?_) | (refine keeps_snd (by assumption) ?_)
      | (apply keeps_mk))

theorem keeps_prefetchLine {org s : State} (q : Nat) (l : Nat) (hk : Keeps org s) : Keeps org (State.prefetchLine s q l) := by
  unfold State.prefetchLine
  repeat' (with_reducible first
      | assumption | exact keeps_refl _ | dsimp only | apply keeps_readLine | apply keeps_answerMiss | split
      | (refine keeps_fst (by assumption) ?_) | (refine keeps_snd (by assumption) ?_) | (apply keeps_mk))

theorem keeps_prefetch {org s : State} (q : Nat) (ranges : List (Nat × Nat)) (h : Keeps org s) : Keeps org (State.prefetch s q ranges).1
    := by
  unfold State.prefetch
  refine keeps_foldl_fst ?_ h
  intro a r
  split
  · exact keeps_refl _
  · refine keeps_foldl_fst ?_ (keeps_refl _)
    intro b l
    with_reducible exact keeps_prefetchLine _ _ (keeps_refl _)

theorem keeps_queueRange {org s : State} (op : Nat) (line : Nat) (count : Nat) (hk : Keeps org s) : Keeps org (State.queueRange s op line
    count) := by
  unfold State.queueRange
  repeat' (with_reducible first
      | assumption | exact keeps_refl _ | dsimp only | split | (apply keeps_mk))

theorem keeps_rangeAt {org s : State} (o : RangeOp) (p : Nat) (hk : Keeps org s) : Keeps org (State.rangeAt s o p) := by
  unfold State.rangeAt
  repeat' (with_reducible first
      | assumption | exact keeps_refl _ | (intro _ _) | (intro _) | dsimp only | apply keeps_pinPlace | apply keeps_setLine
      | apply keeps_modSlice | apply keeps_writeBack | apply keeps_modLine | split | (apply keeps_mk))

theorem keeps_applyRange {org s : State} (o : RangeOp) (hk : Keeps org s) : Keeps org (State.applyRange s o) := by
  unfold State.applyRange
  repeat' (with_reducible first
      | assumption | exact keeps_refl _ | (intro _ _) | (intro _) | dsimp only | apply keeps_rangeAt | (refine keeps_foldl ?_ ?_)
      | (refine keeps_foldl_fst ?_ ?_) | split | (apply keeps_mk))

theorem keeps_coreUe {org s : State} (level : Nat) (c : Nat) (a : Nat) (hk : Keeps org s) : Keeps org (State.coreUe s level c a) := by
  unfold State.coreUe
  repeat' (with_reducible first
      | assumption | exact keeps_refl _ | (intro _ _) | (intro _) | dsimp only | apply keeps_storageUe | apply keeps_fresh
      | apply keeps_modCore | apply keeps_raise | split | (refine keeps_fst (by assumption) ?_) | (refine keeps_snd (by assumption) ?_))

/-! ### Descs -/

theorem keeps_TDesc_pinLines {org s : State} (t : TDesc) (hk : Keeps org s) : Keeps org (TDesc.pinLines t s) := by
  unfold TDesc.pinLines
  repeat' (with_reducible first
      | assumption | exact keeps_refl _ | (intro _ _) | dsimp only | apply keeps_pinRange | (refine keeps_foldl ?_ ?_)
      | (refine keeps_foldl_fst ?_ ?_) | split)

/-! ### Narrow -/

theorem keeps_TDesc_writeMarked {org s : State} (t : TDesc) (r : Nat) (i0 : Nat) (bits : List Nat) (marks : List Bool) (ws : List (Nat ×
    Nat × Nat)) (hk : Keeps org s) : Keeps org (TDesc.writeMarked t s r i0 bits marks ws) := by
  unfold TDesc.writeMarked
  repeat' (with_reducible first
      | assumption | exact keeps_refl _ | (intro _ _) | (intro _) | dsimp only | apply keeps_TDesc_writeRow | (refine keeps_foldl ?_ ?_)
      | (refine keeps_foldl_fst ?_ ?_) | split)

theorem keeps_writePart {org s : State} (t : TDesc) (p : Narrowed) (zb : Bool) (ws : List (Nat × Nat × Nat)) (hk : Keeps org s) : Keeps
    org (State.writePart s t p zb ws) := by
  unfold State.writePart
  repeat' (with_reducible first
      | assumption | exact keeps_refl _ | dsimp only | apply keeps_TDesc_writeMarked | apply keeps_TDesc_writeScale
      | apply keeps_TDesc_zbRefresh | split | (refine keeps_fst (by assumption) ?_) | (refine keeps_snd (by assumption) ?_)
      | (apply keeps_mk))

theorem keeps_writeUnit {org s : State} (t : TDesc) (o : NarrowOut) (zb : Bool) (ws : List (Nat × Nat × Nat)) (hk : Keeps org s) : Keeps
    org (State.writeUnit s t o zb ws) := by
  unfold State.writeUnit
  repeat' (with_reducible first
      | assumption | exact keeps_refl _ | (intro _ _) | dsimp only | apply keeps_writePart | (refine keeps_foldl ?_ ?_)
      | (refine keeps_foldl_fst ?_ ?_))

end Sys2Proof.Laws
end

