-- ==== Sys2Proof/Laws/KeepsCompute.lean ====
section
/-! SUPPORT. What the operations keep (`Keeps`), one lemma per operation: the matrix array, the vector engine, DMA, copies, routing, attention and training. -/

namespace Sys2Proof.Laws

open Sys2Proof Sys2Proof.Machine

/-! ### Gemm -/

theorem keeps_GemmP_putStat {org s : State} (p : GemmP) (i1 : Nat) (m : Nat) (b : Nat) (v : FVal) (hk : Keeps org s) : Keeps org
    (GemmP.putStat p s i1 m b v).1 := by
  unfold GemmP.putStat
  repeat' (with_reducible first
      | assumption | exact keeps_refl _ | dsimp only | apply keeps_TDesc_writeRow | split)

theorem keeps_GemmP_writeStats {org s : State} (p : GemmP) (tiles : List (Nat × List (List W64))) (hk : Keeps org s) : Keeps org
    (GemmP.writeStats p s tiles).1 := by
  unfold GemmP.writeStats
  repeat' (with_reducible first
      | assumption | exact keeps_refl _ | (intro _ _) | (intro _) | dsimp only | apply keeps_GemmP_putStat | (refine keeps_foldl ?_ ?_)
      | (refine keeps_foldl_fst ?_ ?_) | split | (refine keeps_fst (by assumption) ?_) | (refine keeps_snd (by assumption) ?_)
      | (apply keeps_mk))

theorem keeps_addBsn {org s : State} (core : Nat) (c : BsnCounts) (hk : Keeps org s) : Keeps org (State.addBsn s core c) := by
  unfold State.addBsn
  repeat' (with_reducible first
      | assumption | exact keeps_refl _ | (intro _ _) | (intro _) | dsimp only | apply keeps_modBsn | (apply keeps_mk))

theorem keeps_countPass {org s : State} (p : GemmP) (cmd : Cmd) (core : Nat) (t : Nat) (pass : Nat) (times : Nat) (hk : Keeps org s) :
    Keeps org (State.countPass s p cmd core t pass times) := by
  unfold State.countPass
  repeat' (with_reducible first
      | assumption | exact keeps_refl _ | (intro _ _) | (intro _) | dsimp only | apply keeps_modMx | apply keeps_bookCmd | split
      | (refine keeps_fst (by assumption) ?_) | (refine keeps_snd (by assumption) ?_) | (apply keeps_mk))

theorem keeps_drainToC {org s : State} (p : GemmP) (e : WakeEntry) (core : Nat) (t : Nat) (v3 : List (List FVal)) (marks : List (List
    Bool)) (hk : Keeps org s) : Keeps org (State.drainToC s p e core t v3 marks).1 := by
  unfold State.drainToC
  repeat' (with_reducible first
      | assumption | exact keeps_refl _ | (intro _ _) | (intro _) | dsimp only | apply keeps_writePart | apply keeps_modBsn
      | apply keeps_writeUnit | (refine keeps_foldl ?_ ?_) | (refine keeps_foldl_fst ?_ ?_) | split | (apply keeps_mk))

theorem keeps_vecWork {org s : State} (c : Cmd) (core : Nat) (v : Nat) (hk : Keeps org s) : Keeps org (State.vecWork s c core v) := by
  unfold State.vecWork
  repeat' (with_reducible first
      | assumption | exact keeps_refl _ | (intro _ _) | (intro _) | dsimp only | apply keeps_fresh | apply keeps_modVec
      | apply keeps_bookCmd | split | (refine keeps_fst (by assumption) ?_) | (refine keeps_snd (by assumption) ?_) | (apply keeps_mk))

theorem keeps_finishTile {org s : State} (p : GemmP) (e : WakeEntry) (core : Nat) (t : Nat) (v3 : List (List FVal)) (marks : List (List
    Bool)) (hk : Keeps org s) : Keeps org (State.finishTile s p e core t v3 marks) := by
  unfold State.finishTile
  repeat' (with_reducible first
      | assumption | exact keeps_refl _ | (intro _ _) | (intro _) | dsimp only | apply keeps_drainToC | apply keeps_modEntry | split
      | (refine keeps_fst (by assumption) ?_) | (refine keeps_snd (by assumption) ?_) | (apply keeps_mk))

theorem keeps_finishFp64 {org s : State} (p : GemmP) (e : WakeEntry) (core : Nat) (t : Nat) (hk : Keeps org s) : Keeps org
    (State.finishFp64 s p e core t) := by
  unfold State.finishFp64
  repeat' (with_reducible first
      | assumption | exact keeps_refl _ | (intro _ _) | (intro _) | dsimp only | apply keeps_vecWork | apply keeps_finishTile | split
      | (refine keeps_fst (by assumption) ?_) | (refine keeps_snd (by assumption) ?_) | (apply keeps_mk))

theorem keeps_drainUnit {org s : State} (p : GemmP) (e : WakeEntry) (core : Nat) (u : Nat) (rows : List RowAcc) (poisoned : Bool) (hk :
    Keeps org s) : Keeps org (State.drainUnit s p e core u rows poisoned) := by
  unfold State.drainUnit
  repeat' (with_reducible first
      | assumption | exact keeps_refl _ | (intro _ _) | (intro _) | dsimp only | apply keeps_modBsn | apply keeps_modEntry
      | apply keeps_finishFp64 | apply keeps_finishTile | split | (refine keeps_fst (by assumption) ?_)
      | (refine keeps_snd (by assumption) ?_) | (apply keeps_mk))

theorem keeps_stallCounts {org s : State} (core : Nat) (hk : Keeps org s) : Keeps org (State.stallCounts s core) := by
  unfold State.stallCounts
  repeat' (with_reducible first
      | assumption | exact keeps_refl _ | (intro _ _) | (intro _) | dsimp only | apply keeps_fresh | apply keeps_modMx
      | apply keeps_modBsn | split | (refine keeps_fst (by assumption) ?_) | (refine keeps_snd (by assumption) ?_) | (apply keeps_mk))

theorem keeps_shareStalls {org s : State} (p : GemmP) (cc : Nat) (core : Nat) (i : Nat) (hk : Keeps org s) : Keeps org (State.shareStalls
    s p cc core i) := by
  unfold State.shareStalls
  repeat' (with_reducible first
      | assumption | exact keeps_refl _ | dsimp only | apply keeps_stallCounts | split)

theorem keeps_bookTraffic {org s : State} (c : Cmd) (hk : Keeps org s) : Keeps org (State.bookTraffic s c) := by
  unfold State.bookTraffic
  repeat' (with_reducible first
      | assumption | exact keeps_refl _ | (intro _ _) | dsimp only | apply keeps_fresh | apply keeps_bookCmd
      | (refine keeps_foldl ?_ ?_) | (refine keeps_foldl_fst ?_ ?_) | split | (refine keeps_fst (by assumption) ?_)
      | (refine keeps_snd (by assumption) ?_))

theorem keeps_mxBusy {org s : State} (core : Nat) (p : GemmP) (on : Bool) (hk : Keeps org s) : Keeps org (State.mxBusy s core p on) := by
  unfold State.mxBusy
  repeat' (with_reducible first
      | assumption | exact keeps_refl _ | (intro _ _) | (intro _) | dsimp only | apply keeps_modMx | apply keeps_busy | split
      | (apply keeps_mk))

theorem keeps_dropGroups {org s : State} (c : Cmd) (core : Nat) (hk : Keeps org s) : Keeps org (State.dropGroups s c core) := by
  unfold State.dropGroups
  repeat' (with_reducible first
      | assumption | exact keeps_refl _ | (intro _ _) | (intro _) | dsimp only | apply keeps_modBsn | split | (apply keeps_mk))

theorem keeps_replayed {org s : State} (p : GemmP) (e : WakeEntry) (core : Nat) (g : OpenGroup) (hk : Keeps org s) : Keeps org
    (State.replayed s p e core g).1 := by
  unfold State.replayed
  repeat' (with_reducible first
      | assumption | exact keeps_refl _ | (intro _ _) | (intro _) | dsimp only | apply keeps_modMx | apply keeps_raise
      | apply keeps_AttnP_tile | split | (refine keeps_fst (by assumption) ?_) | (refine keeps_snd (by assumption) ?_)
      | (apply keeps_mk))

theorem keeps_mismatched {org s : State} (p : GemmP) (e : WakeEntry) (core : Nat) (g : OpenGroup) (hk : Keeps org s) : Keeps org
    (State.mismatched s p e core g).1 := by
  unfold State.mismatched
  repeat' (with_reducible first
      | assumption | exact keeps_refl _ | (intro _ _) | (intro _) | dsimp only | apply keeps_replayed | apply keeps_modMx
      | apply keeps_coreFailed | apply keeps_mismatch | split | (refine keeps_fst (by assumption) ?_)
      | (refine keeps_snd (by assumption) ?_) | (apply keeps_mk))

theorem keeps_failGroups {org s : State} (c : Cmd) (core : Nat) (hk : Keeps org s) : Keeps org (State.failGroups s c core) := by
  unfold State.failGroups
  repeat' (with_reducible first
      | assumption | exact keeps_refl _ | (intro _ _) | (intro _) | dsimp only | apply keeps_modMx | apply keeps_coreFailed
      | apply keeps_modBsn | apply keeps_mismatch | split | (refine keeps_fst (by assumption) ?_)
      | (refine keeps_snd (by assumption) ?_) | (apply keeps_mk))

theorem keeps_landGroup {org s : State} (p : GemmP) (e : WakeEntry) (core : Nat) (g : OpenGroup) (hk : Keeps org s) : Keeps org
    (State.landGroup s p e core g).1 := by
  unfold State.landGroup
  repeat' (with_reducible first
      | assumption | exact keeps_refl _ | (intro _ _) | (intro _) | dsimp only | apply keeps_AttnP_tile | apply keeps_countPass
      | apply keeps_addBsn | (refine keeps_foldl ?_ ?_) | (refine keeps_foldl_fst ?_ ?_) | split)

theorem keeps_freeUnit {org s : State} (core : Nat) (q : Nat) (seq : Nat) (u : Nat) (hk : Keeps org s) : Keeps org (State.freeUnit s core
    q seq u) := by
  unfold State.freeUnit
  repeat' (with_reducible first
      | assumption | exact keeps_refl _ | (intro _ _) | (intro _) | dsimp only | apply keeps_modBsn | apply keeps_AttnP_tile | split
      | (apply keeps_mk))

theorem keeps_runUnit {org s : State} (p : GemmP) (e : WakeEntry) (core : Nat) (u : Nat) (hk : Keeps org s) : Keeps org (State.runUnit s p
    e core u) := by
  unfold State.runUnit
  repeat' (with_reducible first
      | assumption | exact keeps_refl _ | (intro _ _) | (intro _) | dsimp only | apply keeps_AttnP_tile | apply keeps_freeUnit
      | apply keeps_drainUnit | apply keeps_mismatch | apply keeps_replayed | apply keeps_landGroup | split
      | (refine keeps_fst (by assumption) ?_) | (refine keeps_snd (by assumption) ?_) | (apply keeps_mk))

theorem keeps_runTile {org s : State} (p : GemmP) (e : WakeEntry) (core : Nat) (t : Nat) (hk : Keeps org s) : Keeps org (State.runTile s p
    e core t) := by
  unfold State.runTile
  repeat' (with_reducible first
      | assumption | exact keeps_refl _ | (intro _ _) | dsimp only | apply keeps_runUnit | apply keeps_finishTile
      | (refine keeps_foldl ?_ ?_) | (refine keeps_foldl_fst ?_ ?_) | split)

theorem keeps_idleArrays {org s : State} (c : Cmd) (hk : Keeps org s) : Keeps org (State.idleArrays s c) := by
  unfold State.idleArrays
  repeat' (with_reducible first
      | assumption | exact keeps_refl _ | (intro _ _) | (intro _) | dsimp only | apply keeps_modMx | apply keeps_busy
      | (refine keeps_foldl ?_ ?_) | (refine keeps_foldl_fst ?_ ?_) | (apply keeps_mk))

theorem keeps_runTiles {org s : State} (e : WakeEntry) (hk : Keeps org s) : Keeps org (State.runTiles s e) := by
  unfold State.runTiles
  repeat' (with_reducible first
      | assumption | exact keeps_refl _ | (intro _ _) | dsimp only | apply keeps_mxBusy | apply keeps_shareStalls | apply keeps_runTile
      | apply keeps_GemmP_writeStats | apply keeps_TDesc_pinLines | apply keeps_idleArrays | apply keeps_bookTraffic | apply keeps_ran
      | (refine keeps_foldl ?_ ?_) | (refine keeps_foldl_fst ?_ ?_) | split | (refine keeps_fst (by assumption) ?_)
      | (refine keeps_snd (by assumption) ?_))

theorem keeps_runGemm {org s : State} (e : WakeEntry) (hk : Keeps org s) : Keeps org (State.runGemm s e) := by
  unfold State.runGemm
  repeat' (with_reducible first
      | assumption | exact keeps_refl _ | (intro _ _) | dsimp only | apply keeps_failGroups | apply keeps_runTiles
      | (refine keeps_foldl ?_ ?_) | (refine keeps_foldl_fst ?_ ?_))

/-! ### BasinFam -/

theorem keeps_setGroup {org s : State} (core : Nat) (slot : Nat) (g : Option OpenGroup) (hk : Keeps org s) : Keeps org (State.setGroup s
    core slot g) := by
  unfold State.setGroup
  repeat' (with_reducible first
      | assumption | exact keeps_refl _ | (intro _ _) | (intro _) | dsimp only | apply keeps_modBsn | (apply keeps_mk))

theorem keeps_landNext {org s : State} (p : GemmP) (e : WakeEntry) (core : Nat) (g : OpenGroup) (hk : Keeps org s) : Keeps org
    (State.landNext s p e core g).1 := by
  unfold State.landNext
  repeat' (with_reducible first
      | assumption | exact keeps_refl _ | dsimp only | apply keeps_countPass | apply keeps_AttnP_tile | apply keeps_addBsn | split
      | (refine keeps_fst (by assumption) ?_) | (refine keeps_snd (by assumption) ?_) | (apply keeps_mk))

theorem keeps_settle {org x1 : State} (p : GemmP) (e : WakeEntry) (core : Nat) (x0 : Nat) (x2 : OpenGroup) (hk : Keeps org x1) : Keeps org
    (State.settle p e core x0 x1 x2).1 := by
  induction x0 generalizing x1 x2 with
  | zero => exact hk
  | succ n ih =>
    unfold State.settle
    repeat' (with_reducible first
      | assumption | (apply ih) | exact keeps_refl _ | dsimp only | apply keeps_AttnP_tile | apply keeps_landNext | split)

theorem keeps_settled {org s : State} (p : GemmP) (e : WakeEntry) (core : Nat) (g : OpenGroup) (hk : Keeps org s) : Keeps org
    (State.settled s p e core g).1 := by
  unfold State.settled
  repeat' (with_reducible first
      | assumption | exact keeps_refl _ | dsimp only | apply keeps_settle | apply keeps_AttnP_tile)

theorem keeps_closeGroup {org s : State} (core : Nat) (slot : Nat) (g : OpenGroup) (hk : Keeps org s) : Keeps org (State.closeGroup s core
    slot g) := by
  unfold State.closeGroup
  repeat' (with_reducible first
      | assumption | exact keeps_refl _ | (intro _ _) | (intro _) | dsimp only | apply keeps_setGroup | apply keeps_modBsn
      | apply keeps_AttnP_tile | (apply keeps_mk))

theorem keeps_closeReady {org x1 : State} (p : GemmP) (q : Nat) (seq : Nat) (core : Nat) (x0 : Nat) (hk : Keeps org x1) : Keeps org
    (State.closeReady p q seq core x0 x1) := by
  induction x0 generalizing x1 with
  | zero => exact hk
  | succ n ih =>
    unfold State.closeReady
    repeat' (with_reducible first
      | assumption | (apply ih) | exact keeps_refl _ | (intro _ _) | (intro _) | dsimp only | apply keeps_AttnP_tile
      | apply keeps_closeGroup | split | (refine keeps_fst (by assumption) ?_) | (refine keeps_snd (by assumption) ?_)
      | (apply keeps_mk))

theorem keeps_afterRow {org s : State} (p : GemmP) (e : WakeEntry) (core : Nat) (slot : Nat) (g : OpenGroup) (hk : Keeps org s) : Keeps
    org (State.afterRow s p e core slot g) := by
  unfold State.afterRow
  repeat' (with_reducible first
      | assumption | exact keeps_refl _ | dsimp only | apply keeps_AttnP_tile | apply keeps_setGroup | apply keeps_mismatch
      | apply keeps_mismatched | apply keeps_settled | apply keeps_closeReady | split | (refine keeps_fst (by assumption) ?_)
      | (refine keeps_snd (by assumption) ?_))

theorem keeps_drained {org s : State} (core : Nat) (d : DrainItem) (feeder : Bool) (hk : Keeps org s) : Keeps org (State.drained s core d
    feeder) := by
  unfold State.drained
  repeat' (with_reducible first
      | assumption | exact keeps_refl _ | (intro _ _) | (intro _) | dsimp only | apply keeps_modBsn | apply keeps_modCore | split
      | (apply keeps_mk))

theorem keeps_pushRows {org x1 : State} (core : Nat) (d0 : DrainItem) (cols : Nat) (v3 : List (List W64)) (marks : List (List Bool)) (x0 :
    Nat) (hk : Keeps org x1) : Keeps org (State.pushRows core d0 cols v3 marks x0 x1) := by
  induction x0 generalizing x1 with
  | zero => exact hk
  | succ n ih =>
    unfold State.pushRows
    repeat' (with_reducible first
      | assumption | (apply ih) | exact keeps_refl _ | (intro _ _) | (intro _) | dsimp only | apply keeps_drained | apply keeps_modSlc
      | apply keeps_modBsn | apply keeps_fresh | apply keeps_AttnP_tile | split | (refine keeps_fst (by assumption) ?_)
      | (refine keeps_snd (by assumption) ?_) | (apply keeps_mk))

theorem keeps_drainMore {org s : State} (core : Nat) (hk : Keeps org s) : Keeps org (State.drainMore s core) := by
  unfold State.drainMore
  repeat' (with_reducible first
      | assumption | exact keeps_refl _ | (intro _ _) | (intro _) | dsimp only | apply keeps_AttnP_tile | apply keeps_pushRows | split
      | (refine keeps_fst (by assumption) ?_) | (refine keeps_snd (by assumption) ?_) | (apply keeps_mk))

theorem keeps_startShare {org s : State} (c : Cmd) (core : Nat) (i : Nat) (hk : Keeps org s) : Keeps org (State.startShare s c core i) := by
  unfold State.startShare
  repeat' (with_reducible first
      | assumption | exact keeps_refl _ | (intro _ _) | (intro _) | dsimp only | apply keeps_modCore | (apply keeps_mk))

theorem keeps_vprogFinish {org s : State} (e : WakeEntry) (hk : Keeps org s) : Keeps org (State.vprogFinish s e) := by
  unfold State.vprogFinish
  repeat' (with_reducible first
      | assumption | exact keeps_refl _ | (intro _ _) | dsimp only | apply keeps_GemmP_writeStats | apply keeps_idleArrays
      | apply keeps_TDesc_pinLines | apply keeps_bookTraffic | apply keeps_ran | (refine keeps_foldl ?_ ?_)
      | (refine keeps_foldl_fst ?_ ?_) | split | (refine keeps_fst (by assumption) ?_) | (refine keeps_snd (by assumption) ?_)
      | (apply keeps_mk))

theorem keeps_vprogCheck {org x1 : State} (q : Nat) (seq : Nat) (core : Nat) (x0 : Nat) (hk : Keeps org x1) : Keeps org (State.vprogCheck
    q seq core x0 x1) := by
  induction x0 generalizing x1 with
  | zero => exact hk
  | succ n ih =>
    unfold State.vprogCheck
    repeat' (with_reducible first
      | assumption | (apply ih) | exact keeps_refl _ | (intro _ _) | (intro _) | dsimp only | apply keeps_ran | apply keeps_modVec
      | apply keeps_startShare | apply keeps_vprogFinish | split | (refine keeps_fst (by assumption) ?_)
      | (refine keeps_snd (by assumption) ?_) | (apply keeps_mk))

theorem keeps_endProgram {org s : State} (core : Nat) (hk : Keeps org s) : Keeps org (State.endProgram s core) := by
  unfold State.endProgram
  repeat' (with_reducible first
      | assumption | exact keeps_refl _ | (intro _ _) | (intro _) | dsimp only | apply keeps_fresh | apply keeps_modCore
      | apply keeps_vprogCheck | apply keeps_drainMore | split | (refine keeps_fst (by assumption) ?_)
      | (refine keeps_snd (by assumption) ?_) | (apply keeps_mk))

/-! ### Operands -/

theorem keeps_retire {org s : State} (core : Nat) (w : W64) (slotV : Bool) (next : Int) (hk : Keeps org s) : Keeps org (State.retire s
    core w slotV next) := by
  unfold State.retire
  repeat' (with_reducible first
      | assumption | exact keeps_refl _ | (intro _ _) | (intro _) | dsimp only | apply keeps_modVec | apply keeps_endProgram | split
      | (refine keeps_fst (by assumption) ?_) | (refine keeps_snd (by assumption) ?_) | (apply keeps_mk))

theorem keeps_retireNext {org s : State} (core : Nat) (w : W64) (hk : Keeps org s) : Keeps org (State.retireNext s core w) := by
  unfold State.retireNext
  repeat' (with_reducible first
      | assumption | exact keeps_refl _ | dsimp only | apply keeps_retire)

theorem keeps_reissued {org s : State} (core : Nat) (e : WakeEntry) (n : Nat) (hk : Keeps org s) : Keeps org (State.reissued s core e n)
    := by
  unfold State.reissued
  repeat' (with_reducible first
      | assumption | exact keeps_refl _ | (intro _ _) | (intro _) | dsimp only | apply keeps_modVec | apply keeps_raise
      | (refine keeps_foldl ?_ ?_) | (refine keeps_foldl_fst ?_ ?_) | (apply keeps_mk))

theorem keeps_sStall {org s : State} (core : Nat) (hk : Keeps org s) : Keeps org (State.sStall s core) := by
  unfold State.sStall
  repeat' (with_reducible first
      | assumption | exact keeps_refl _ | (intro _ _) | (intro _) | dsimp only | apply keeps_modVec | (apply keeps_mk))

theorem keeps_vIssue {org s : State} (core : Nat) (w : W64) (op : Nat) (re : Nat) (f : WakeEntry → VecSt → VecSt × BitVec 7) (hk : Keeps
    org s) : Keeps org (State.vIssue s core w op re f) := by
  unfold State.vIssue
  repeat' (with_reducible first
      | assumption | exact keeps_refl _ | (intro _ _) | (intro _) | dsimp only | apply keeps_modVec | apply keeps_reissued
      | apply keeps_coreFailed | apply keeps_bookCmd | apply keeps_retireNext | split | (refine keeps_fst (by assumption) ?_)
      | (refine keeps_snd (by assumption) ?_) | (apply keeps_mk))

theorem keeps_sIssue {org s : State} (core : Nat) (w : W64) (op : Nat) (f : VecSt → VecSt) (hk : Keeps org s) : Keeps org (State.sIssue s
    core w op f) := by
  unfold State.sIssue
  repeat' (with_reducible first
      | assumption | exact keeps_refl _ | dsimp only | apply keeps_sStall | apply keeps_modVec | apply keeps_retireNext | split
      | (refine keeps_fst (by assumption) ?_) | (refine keeps_snd (by assumption) ?_) | (apply keeps_mk))

/-! ### VectorMem -/

theorem keeps_vLoad {org s : State} (core : Nat) (w : W64) (op : Nat) (index : VecSt → Nat → Option Nat) (hk : Keeps org s) : Keeps org
    (State.vLoad s core w op index) := by
  unfold State.vLoad
  repeat' (with_reducible first
      | assumption | exact keeps_refl _ | (intro _ _) | (intro _) | dsimp only | apply keeps_sStall | apply keeps_modVec
      | apply keeps_retireNext | split | (refine keeps_fst (by assumption) ?_) | (refine keeps_snd (by assumption) ?_)
      | (apply keeps_mk))

theorem keeps_storePlain {org s : State} (core : Nat) (e : WakeEntry) (t : TDesc) (ty : Nat) (rm : Nat) (items : List (Nat × FVal × Nat ×
    Bool)) (hk : Keeps org s) : Keeps org (State.storePlain s core e t ty rm items) := by
  unfold State.storePlain
  repeat' (with_reducible first
      | assumption | exact keeps_refl _ | (intro _ _) | (intro _) | dsimp only | apply keeps_TDesc_writeMarked | apply keeps_modVec
      | apply keeps_modEntry | (refine keeps_foldl ?_ ?_) | (refine keeps_foldl_fst ?_ ?_) | split
      | (refine keeps_fst (by assumption) ?_) | (refine keeps_snd (by assumption) ?_) | (apply keeps_mk))

theorem keeps_storeMx {org s : State} (core : Nat) (e : WakeEntry) (t : TDesc) (rm : Nat) (items : List (Nat × FVal × Nat × Bool)) (hk :
    Keeps org s) : Keeps org (State.storeMx s core e t rm items) := by
  unfold State.storeMx
  repeat' (with_reducible first
      | assumption | exact keeps_refl _ | (intro _ _) | (intro _) | dsimp only | apply keeps_writeUnit | apply keeps_modVec
      | apply keeps_modEntry | (refine keeps_foldl ?_ ?_) | (refine keeps_foldl_fst ?_ ?_) | split
      | (refine keeps_fst (by assumption) ?_) | (refine keeps_snd (by assumption) ?_) | (apply keeps_mk))

theorem keeps_vStore {org s : State} (core : Nat) (w : W64) (op : Nat) (index : VecSt → TDesc → Nat → Option Nat) (hk : Keeps org s) :
    Keeps org (State.vStore s core w op index) := by
  unfold State.vStore
  repeat' (with_reducible first
      | assumption | exact keeps_refl _ | (intro _ _) | (intro _) | dsimp only | apply keeps_sStall | apply keeps_storeMx
      | apply keeps_storePlain | apply keeps_modEntry | apply keeps_retireNext | split | (refine keeps_fst (by assumption) ?_)
      | (refine keeps_snd (by assumption) ?_) | (apply keeps_mk))

theorem keeps_withHead {org s : State} (core : Nat) (w : W64) (op : Nat) (f : SluiceSlot → State → State) (e : State → State) (hf : ∀ x0
    q, Keeps q (f x0 q)) (he : ∀  q, Keeps q (e  q)) (hk : Keeps org s) : Keeps org (State.withHead s core w op f e) := by
  unfold State.withHead
  repeat' (with_reducible first
      | assumption | exact keeps_refl _ | (intro _ _) | (intro _) | dsimp only | (refine keeps_trans ?_ (hf _ _ ))
      | (refine keeps_trans ?_ (he _ )) | apply keeps_sStall | apply keeps_retireNext | apply keeps_modVec | split
      | (refine keeps_fst (by assumption) ?_) | (refine keeps_snd (by assumption) ?_) | (apply keeps_mk))

/-! ### Scalar -/

theorem keeps_scalarOp {org s : State} (core : Nat) (w : W64) (op : Nat) (f : W64 → W64 → W64 → W64) (hk : Keeps org s) : Keeps org
    (State.scalarOp s core w op f) := by
  unfold State.scalarOp
  repeat' (with_reducible first
      | assumption | exact keeps_refl _ | (intro _ _) | (intro _) | dsimp only | apply keeps_sIssue)

theorem keeps_branchOn {org s : State} (core : Nat) (w : W64) (op : Nat) (c : W64 → Bool) (hk : Keeps org s) : Keeps org (State.branchOn s
    core w op c) := by
  unfold State.branchOn
  repeat' (with_reducible first
      | assumption | exact keeps_refl _ | dsimp only | apply keeps_retire | split | (refine keeps_fst (by assumption) ?_)
      | (refine keeps_snd (by assumption) ?_) | (apply keeps_mk))

/-! ### Dma -/

theorem keeps_dmaWrite {org s : State} (core : Nat) (a : Nat) (bs : List Byte) (on : Bool) (hk : Keeps org s) : Keeps org (State.dmaWrite
    s core a bs on) := by
  unfold State.dmaWrite
  repeat' (with_reducible first
      | assumption | exact keeps_refl _ | (intro _ _) | (intro _) | dsimp only | apply keeps_modCore | apply keeps_store | split)

theorem keeps_poisonGranule {org s : State} (core : Nat) (a : Nat) (hk : Keeps org s) : Keeps org (State.poisonGranule s core a) := by
  unfold State.poisonGranule
  repeat' (with_reducible first
      | assumption | exact keeps_refl _ | dsimp only | apply keeps_dmaWrite | split)

theorem keeps_modCh {org s : State} (core : Nat) (ch : Nat) (f : DmaCh → DmaCh) (hk : Keeps org s) : Keeps org (State.modCh s core ch f)
    := by
  unfold State.modCh
  repeat' (with_reducible first
      | assumption | exact keeps_refl _ | (intro _ _) | (intro _) | dsimp only | apply keeps_modDma | (apply keeps_mk))

theorem keeps_fireTrigger {org s : State} (core : Nat) (ch : Nat) (hk : Keeps org s) : Keeps org (State.fireTrigger s core ch) := by
  unfold State.fireTrigger
  repeat' (with_reducible first
      | assumption | exact keeps_refl _ | (intro _ _) | (intro _) | dsimp only | apply keeps_busy | apply keeps_modCh
      | apply keeps_modDma | (apply keeps_mk))

theorem keeps_firesDone {org s : State} (core : Nat) (hk : Keeps org s) : Keeps org (State.firesDone s core) := by
  unfold State.firesDone
  repeat' (with_reducible first
      | assumption | exact keeps_refl _ | (intro _ _) | (intro _) | dsimp only | apply keeps_modDma | (apply keeps_mk))

theorem keeps_fireWaiting {org s : State} (core : Nat) (p : DmaDesc → Bool) (hk : Keeps org s) : Keeps org (State.fireWaiting s core p) :=
    by
  unfold State.fireWaiting
  repeat' (with_reducible first
      | assumption | exact keeps_refl _ | (intro _ _) | dsimp only | apply keeps_fireTrigger | apply keeps_firesDone
      | (refine keeps_foldl ?_ ?_) | (refine keeps_foldl_fst ?_ ?_) | split | (refine keeps_fst (by assumption) ?_)
      | (refine keeps_snd (by assumption) ?_) | (apply keeps_mk))

theorem keeps_tallyDma {org s : State} (core : Nat) (h : ChainHead) (n : Nat) (hk : Keeps org s) : Keeps org (State.tallyDma s core h n)
    := by
  unfold State.tallyDma
  repeat' (with_reducible first
      | assumption | exact keeps_refl _ | (intro _ _) | (intro _) | dsimp only | apply keeps_modQueue | apply keeps_modDma | split
      | (refine keeps_fst (by assumption) ?_) | (refine keeps_snd (by assumption) ?_) | (apply keeps_mk))

theorem keeps_chainBad {org s : State} (h : ChainHead) (hk : Keeps org s) : Keeps org (State.chainBad s h) := by
  unfold State.chainBad
  repeat' (with_reducible first
      | assumption | exact keeps_refl _ | (intro _ _) | (intro _) | dsimp only | apply keeps_modEntry | split
      | (refine keeps_fst (by assumption) ?_) | (refine keeps_snd (by assumption) ?_) | (apply keeps_mk))

theorem keeps_chainEnded {org s : State} (h : ChainHead) (hk : Keeps org s) : Keeps org (State.chainEnded s h) := by
  unfold State.chainEnded
  repeat' (with_reducible first
      | assumption | exact keeps_refl _ | dsimp only | apply keeps_bookOcc | apply keeps_ran | split
      | (refine keeps_fst (by assumption) ?_) | (refine keeps_snd (by assumption) ?_) | (apply keeps_mk))

theorem keeps_writeStatus {org s : State} (core : Nat) (a : Nat) (state : Nat) (cause : Nat) (clamps : Nat) (bytes : Nat) (hk : Keeps org
    s) : Keeps org (State.writeStatus s core a state cause clamps bytes) := by
  unfold State.writeStatus
  repeat' (with_reducible first
      | assumption | exact keeps_refl _ | dsimp only | apply keeps_dmaWrite)

theorem keeps_loadDesc {org s : State} (core : Nat) (ch : Nat) (h : ChainHead) (a : Nat) (inRun : Bool) (hk : Keeps org s) : Keeps org
    (State.loadDesc s core ch h a inRun).1 := by
  unfold State.loadDesc
  repeat' (with_reducible first
      | assumption | exact keeps_refl _ | (intro _ _) | (intro _) | dsimp only | apply keeps_writeStatus | apply keeps_modDma
      | apply keeps_chainBad | apply keeps_modCh | apply keeps_tallyDma | apply keeps_fireTrigger | split | (apply keeps_mk))

theorem keeps_nextChain {org x1 : State} (core : Nat) (ch : Nat) (x0 : Nat) (hk : Keeps org x1) : Keeps org (State.nextChain core ch x0
    x1) := by
  induction x0 generalizing x1 with
  | zero => exact hk
  | succ n ih =>
    unfold State.nextChain
    repeat' (with_reducible first
      | assumption | (apply ih) | exact keeps_refl _ | (intro _ _) | (intro _) | dsimp only | apply keeps_modCh | apply keeps_loadDesc
      | apply keeps_chainEnded | split | (refine keeps_fst (by assumption) ?_) | (refine keeps_snd (by assumption) ?_)
      | (apply keeps_mk))

theorem keeps_enqueueHead {org s : State} (core : Nat) (ch : Nat) (h : ChainHead) (hk : Keeps org s) : Keeps org (State.enqueueHead s core
    ch h) := by
  unfold State.enqueueHead
  repeat' (with_reducible first
      | assumption | exact keeps_refl _ | (intro _ _) | (intro _) | dsimp only | apply keeps_modCh | apply keeps_nextChain
      | apply keeps_firesDone | split | (apply keeps_mk))

theorem keeps_dmaMoved {org s : State} (core : Nat) (ch : Nat) (bytes : Nat) (cause : Nat) (target : Nat) (hk : Keeps org s) : Keeps org
    (State.dmaMoved s core ch bytes cause target) := by
  unfold State.dmaMoved
  repeat' (with_reducible first
      | assumption | exact keeps_refl _ | (intro _ _) | (intro _) | dsimp only | apply keeps_modDma | apply keeps_book | split
      | (refine keeps_fst (by assumption) ?_) | (refine keeps_snd (by assumption) ?_) | (apply keeps_mk))

theorem keeps_dmaRow {org s : State} (core : Nat) (dst : Nat) (bs : List Byte) (bad : Option Nat) (hk : Keeps org s) : Keeps org
    (State.dmaRow s core dst bs bad).1 := by
  unfold State.dmaRow
  repeat' (with_reducible first
      | assumption | exact keeps_refl _ | dsimp only | apply keeps_dmaWrite | apply keeps_poisonGranule | split
      | (refine keeps_fst (by assumption) ?_) | (refine keeps_snd (by assumption) ?_) | (apply keeps_mk))

theorem keeps_dmaRows {org x2 : State} (core : Nat) (d : DmaDesc) (x0 : Nat) (x1 : Nat) (hk : Keeps org x2) : Keeps org (State.dmaRows
    core d x0 x1 x2).1 := by
  induction x0 generalizing x1 x2 with
  | zero => exact hk
  | succ n ih =>
    unfold State.dmaRows
    repeat' (with_reducible first
      | assumption | (apply ih) | exact keeps_refl _ | (intro _ _) | (intro _) | dsimp only | apply keeps_dmaRow | split
      | (refine keeps_fst (by assumption) ?_) | (refine keeps_snd (by assumption) ?_))

theorem keeps_countEncode {org s : State} (inBytes : Nat) (out : Nat) (absent : Nat) (bs : List Coded) (hk : Keeps org s) : Keeps org
    (State.countEncode s inBytes out absent bs) := by
  unfold State.countEncode
  repeat' (with_reducible first
      | assumption | exact keeps_refl _ | (intro _ _) | (intro _) | dsimp only | split | (refine keeps_fst (by assumption) ?_)
      | (refine keeps_snd (by assumption) ?_) | (apply keeps_mk))

theorem keeps_countExpand {org s : State} (x : Expansion) (out : Nat) (hk : Keeps org s) : Keeps org (State.countExpand s x out) := by
  unfold State.countExpand
  repeat' (with_reducible first
      | assumption | exact keeps_refl _ | dsimp only | (apply keeps_mk))

theorem keeps_dmaCompress {org s : State} (core : Nat) (d : DmaDesc) (hk : Keeps org s) : Keeps org (State.dmaCompress s core d).1 := by
  unfold State.dmaCompress
  repeat' (with_reducible first
      | assumption | exact keeps_refl _ | (intro _ _) | (intro _) | dsimp only | apply keeps_dmaWrite | apply keeps_countEncode
      | apply keeps_poisonGranule | split | (refine keeps_fst (by assumption) ?_) | (refine keeps_snd (by assumption) ?_)
      | (apply keeps_mk))

theorem keeps_dmaScatter {org x2 : State} (core : Nat) (base : Nat) (x0 : List (Nat × Nat)) (x1 : List Byte) (hk : Keeps org x2) : Keeps
    org (State.dmaScatter core base x0 x1 x2).1 := by
  induction x0 generalizing x1 x2 with
  | nil => exact hk
  | cons b t ih =>
    unfold State.dmaScatter
    repeat' (with_reducible first
      | assumption | (apply ih) | exact keeps_refl _ | dsimp only | apply keeps_dmaWrite | (refine keeps_fst (by assumption) ?_)
      | (refine keeps_snd (by assumption) ?_))

theorem keeps_dmaExpand {org s : State} (core : Nat) (d : DmaDesc) (hk : Keeps org s) : Keeps org (State.dmaExpand s core d).1 := by
  unfold State.dmaExpand
  repeat' (with_reducible first
      | assumption | exact keeps_refl _ | (intro _ _) | (intro _) | dsimp only | apply keeps_dmaScatter | apply keeps_countExpand
      | apply keeps_poisonGranule | split | (refine keeps_fst (by assumption) ?_) | (refine keeps_snd (by assumption) ?_)
      | (apply keeps_mk))

theorem keeps_dmaFillRows {org x2 : State} (core : Nat) (d : DmaDesc) (x0 : Nat) (x1 : Nat) (hk : Keeps org x2) : Keeps org
    (State.dmaFillRows core d x0 x1 x2).1 := by
  induction x0 generalizing x1 x2 with
  | zero => exact hk
  | succ n ih =>
    unfold State.dmaFillRows
    repeat' (with_reducible first
      | assumption | (apply ih) | exact keeps_refl _ | (intro _ _) | (intro _) | dsimp only | apply keeps_dmaWrite | split
      | (refine keeps_fst (by assumption) ?_) | (refine keeps_snd (by assumption) ?_))

theorem keeps_dmaRange {org s : State} (core : Nat) (op : Nat) (hk : Keeps org s) : Keeps org (State.dmaRange s core op) := by
  unfold State.dmaRange
  repeat' (with_reducible first
      | assumption | exact keeps_refl _ | (intro _ _) | dsimp only | apply keeps_dmaMoved | apply keeps_queueRange
      | (refine keeps_foldl ?_ ?_) | (refine keeps_foldl_fst ?_ ?_) | split | (refine keeps_fst (by assumption) ?_)
      | (refine keeps_snd (by assumption) ?_) | (apply keeps_mk))

/-! ### CopyFam -/

theorem keeps_copyBitmap {org s : State} (dst : TDesc) (st : Stretch) (hk : Keeps org s) : Keeps org (State.copyBitmap s dst st) := by
  unfold State.copyBitmap
  repeat' (with_reducible first
      | assumption | exact keeps_refl _ | (intro _ _) | dsimp only | apply keeps_TDesc_zbRefresh | (refine keeps_foldl ?_ ?_)
      | (refine keeps_foldl_fst ?_ ?_) | split)

theorem keeps_copyBlock {org s : State} (s0 : State) (e : WakeEntry) (dst : TDesc) (first : Nat) (b : Nat) (vals : List (FVal × Bool))
    (core : Nat) (blk : Nat) (hk : Keeps org s) : Keeps org (State.copyBlock s s0 e dst first b vals core blk).1 := by
  unfold State.copyBlock
  repeat' (with_reducible first
      | assumption | exact keeps_refl _ | (intro _ _) | (intro _) | dsimp only | apply keeps_copyBitmap | apply keeps_writeUnit
      | apply keeps_modDma | (refine keeps_foldl ?_ ?_) | (refine keeps_foldl_fst ?_ ?_) | (apply keeps_mk))

theorem keeps_copyPlain {org s : State} (e : WakeEntry) (src : TDesc) (dst : TDesc) (hk : Keeps org s) : Keeps org (State.copyPlain s e
    src dst).1 := by
  unfold State.copyPlain
  repeat' (with_reducible first
      | assumption | exact keeps_refl _ | (intro _ _) | dsimp only | apply keeps_copyBlock | apply keeps_countExpand
      | (refine keeps_foldl ?_ ?_) | (refine keeps_foldl_fst ?_ ?_) | split | (refine keeps_fst (by assumption) ?_)
      | (refine keeps_snd (by assumption) ?_) | (apply keeps_mk))

theorem keeps_copyToStream {org s : State} (e : WakeEntry) (src : TDesc) (dst : TDesc) (hk : Keeps org s) : Keeps org (State.copyToStream
    s e src dst).1 := by
  unfold State.copyToStream
  repeat' (with_reducible first
      | assumption | exact keeps_refl _ | (intro _ _) | (intro _) | dsimp only | apply keeps_store | apply keeps_countEncode
      | apply keeps_modDma | apply keeps_countExpand | (refine keeps_foldl ?_ ?_) | (refine keeps_foldl_fst ?_ ?_) | split
      | (refine keeps_fst (by assumption) ?_) | (refine keeps_snd (by assumption) ?_) | (apply keeps_mk))

/-! ### Delta -/

theorem keeps_listRow {org s : State} (t : TDesc) (r : Nat) (ws : List Nat) (on : Bool) (hk : Keeps org s) : Keeps org (listRow t s r ws
    on) := by
  unfold listRow
  repeat' (with_reducible first
      | assumption | exact keeps_refl _ | dsimp only | apply keeps_TDesc_writeRow | split)

theorem keeps_routeDone {org s : State} (cmd : Cmd) (hk : Keeps org s) : Keeps org (State.routeDone s cmd) := by
  unfold State.routeDone
  repeat' (with_reducible first
      | assumption | exact keeps_refl _ | (intro _ _) | (intro _) | dsimp only | apply keeps_discardProv | split
      | (refine keeps_fst (by assumption) ?_) | (refine keeps_snd (by assumption) ?_) | (apply keeps_mk))

theorem keeps_runRoute {org s : State} (e : WakeEntry) (p : RouteP) (hk : Keeps org s) : Keeps org (State.runRoute s e p) := by
  unfold State.runRoute
  repeat' (with_reducible first
      | assumption | exact keeps_refl _ | (intro _ _) | (intro _) | dsimp only | apply keeps_listRow | apply keeps_ran
      | (refine keeps_foldl ?_ ?_) | (refine keeps_foldl_fst ?_ ?_) | split | (refine keeps_fst (by assumption) ?_)
      | (refine keeps_snd (by assumption) ?_) | (apply keeps_mk))

theorem keeps_pinNamed {org s : State} (c : Cmd) (hk : Keeps org s) : Keeps org (State.pinNamed s c) := by
  unfold State.pinNamed
  repeat' (with_reducible first
      | assumption | exact keeps_refl _ | (intro _ _) | dsimp only | apply keeps_TDesc_pinLines | (refine keeps_foldl ?_ ?_)
      | (refine keeps_foldl_fst ?_ ?_))

theorem keeps_routePredict {org s : State} (q : Nat) (seq : Nat) (p : RouteP) (hk : Keeps org s) : Keeps org (State.routePredict s q seq
    p).1 := by
  unfold State.routePredict
  repeat' (with_reducible first
      | assumption | exact keeps_refl _ | (intro _ _) | (intro _) | dsimp only | apply keeps_prefetch | (refine keeps_foldl ?_ ?_)
      | (refine keeps_foldl_fst ?_ ?_) | split | (refine keeps_fst (by assumption) ?_) | (refine keeps_snd (by assumption) ?_)
      | (apply keeps_mk))

theorem keeps_putRow {org s : State} (s0 : State) (e : WakeEntry) (y : TDesc) (r : Nat) (vals : List (FVal × Bool)) (hk : Keeps org s) :
    Keeps org (State.putRow s0 s e y r vals).1 := by
  unfold State.putRow
  repeat' (with_reducible first
      | assumption | exact keeps_refl _ | (intro _ _) | (intro _) | dsimp only | apply keeps_writeUnit)

theorem keeps_rowsEnd {org s : State} (cmd : Cmd) (pz : Bool) (sat : Bool) (eff : List RowEffect) (hk : Keeps org s) : Keeps org
    (State.rowsEnd s cmd pz sat eff) := by
  unfold State.rowsEnd
  repeat' (with_reducible first
      | assumption | exact keeps_refl _ | dsimp only | apply keeps_pinNamed | apply keeps_bookTraffic | apply keeps_ran | split)

/-! ### Attn -/

theorem keeps_AttnP_putStats {org s : State} (a : AttnP) (b : Nat) (i : Nat) (r : AttnRow) (on : Bool) (hk : Keeps org s) : Keeps org
    (AttnP.putStats a s b i r on).1 := by
  unfold AttnP.putStats
  repeat' (with_reducible first
      | assumption | exact keeps_refl _ | dsimp only | apply keeps_TDesc_writeRow | split | (refine keeps_fst (by assumption) ?_)
      | (refine keeps_snd (by assumption) ?_) | (apply keeps_mk))

theorem keeps_attnPasses {org s : State} (cmd : Cmd) (core : Nat) (macs : Nat) (n : Nat) (passes : Nat) (hk : Keeps org s) : Keeps org
    (State.attnPasses s cmd core macs n passes) := by
  unfold State.attnPasses
  repeat' (with_reducible first
      | assumption | exact keeps_refl _ | (intro _ _) | (intro _) | dsimp only | apply keeps_modMx | apply keeps_bookCmd | split
      | (apply keeps_mk))

theorem keeps_attnWork {org s : State} (s0 : State) (a : AttnP) (cmd : Cmd) (core : Nat) (b : Nat) (rows : List (Nat × AttnRow)) (hk :
    Keeps org s) : Keeps org (State.attnWork s0 s a cmd core b rows) := by
  unfold State.attnWork
  repeat' (with_reducible first
      | assumption | exact keeps_refl _ | (intro _ _) | (intro _) | dsimp only | apply keeps_attnPasses | apply keeps_addBsn
      | apply keeps_vecWork | (refine keeps_foldl ?_ ?_) | (refine keeps_foldl_fst ?_ ?_) | split)

theorem keeps_attnStalls {org s : State} (a : AttnP) (cmd : Cmd) (hk : Keeps org s) : Keeps org (State.attnStalls s a cmd) := by
  unfold State.attnStalls
  repeat' (with_reducible first
      | assumption | exact keeps_refl _ | (intro _ _) | (intro _) | dsimp only | apply keeps_busy | apply keeps_stallCounts
      | (refine keeps_foldl ?_ ?_) | (refine keeps_foldl_fst ?_ ?_) | split)

theorem keeps_AttnP_tile {org s : State} (a : AttnP) (s0 : State) (e : WakeEntry) (t : Nat) (hk : Keeps org s) : Keeps org (AttnP.tile a
    s0 s e t).1 := by
  unfold AttnP.tile
  repeat' (with_reducible first
      | assumption | exact keeps_refl _ | (intro _ _) | (intro _) | dsimp only | apply keeps_writeUnit | apply keeps_AttnP_putStats
      | apply keeps_modBsn | apply keeps_attnWork | (refine keeps_foldl ?_ ?_) | (refine keeps_foldl_fst ?_ ?_) | split
      | (refine keeps_fst (by assumption) ?_) | (refine keeps_snd (by assumption) ?_) | (apply keeps_mk))

/-! ### Ford -/

theorem keeps_modFrd {org s : State} (f : FrdSt → FrdSt) (hk : Keeps org s) : Keeps org (State.modFrd s f) := by
  unfold State.modFrd
  repeat' (with_reducible first
      | assumption | exact keeps_refl _ | dsimp only | (apply keeps_mk))

theorem keeps_emitFlit {org s : State} (f : Flit) (hk : Keeps org s) : Keeps org (State.emitFlit s f) := by
  unfold State.emitFlit
  repeat' (with_reducible first
      | assumption | exact keeps_refl _ | dsimp only | apply keeps_send | (apply keeps_mk))

theorem keeps_putFlit {org s : State} (f : Flit) (hk : Keeps org s) : Keeps org (State.putFlit s f) := by
  unfold State.putFlit
  repeat' (with_reducible first
      | assumption | exact keeps_refl _ | (intro _ _) | (intro _) | dsimp only | apply keeps_emitFlit | apply keeps_modFrd | split
      | (apply keeps_mk))

theorem keeps_queueFlit {org s : State} (f : Flit) (hk : Keeps org s) : Keeps org (State.queueFlit s f) := by
  unfold State.queueFlit
  repeat' (with_reducible first
      | assumption | exact keeps_refl _ | (intro _ _) | (intro _) | dsimp only | apply keeps_putFlit | apply keeps_modFrd | split
      | (apply keeps_mk))

theorem keeps_sendFlit {org s : State} (type : Nat) (vc : Nat) (payload : List Byte) (hk : Keeps org s) : Keeps org (State.sendFlit s type
    vc payload) := by
  unfold State.sendFlit
  repeat' (with_reducible first
      | assumption | exact keeps_refl _ | dsimp only | apply keeps_queueFlit | split)

theorem keeps_drainFlits {org x1 : State} (x0 : Nat) (hk : Keeps org x1) : Keeps org (drainFlits x0 x1) := by
  induction x0 generalizing x1 with
  | zero => exact hk
  | succ n ih =>
    unfold drainFlits
    repeat' (with_reducible first
      | assumption | (apply ih) | exact keeps_refl _ | (intro _ _) | (intro _) | dsimp only | apply keeps_modFrd | apply keeps_putFlit
      | split | (refine keeps_fst (by assumption) ?_) | (refine keeps_snd (by assumption) ?_) | (apply keeps_mk))

theorem keeps_sendFlits {org s : State} (type : Nat) (vc : Nat) (bytes : List Byte) (hk : Keeps org s) : Keeps org (State.sendFlits s type
    vc bytes) := by
  unfold State.sendFlits
  repeat' (with_reducible first
      | assumption | exact keeps_refl _ | (intro _ _) | dsimp only | apply keeps_sendFlit | (refine keeps_foldl ?_ ?_)
      | (refine keeps_foldl_fst ?_ ?_))

theorem keeps_replayFlits {org s : State}  (hk : Keeps org s) : Keeps org (State.replayFlits s) := by
  unfold State.replayFlits
  repeat' (with_reducible first
      | assumption | exact keeps_refl _ | (intro _ _) | (intro _) | dsimp only | apply keeps_emitFlit | apply keeps_modFrd
      | (refine keeps_foldl ?_ ?_) | (refine keeps_foldl_fst ?_ ?_) | (apply keeps_mk))

theorem keeps_sayHello {org s : State}  (hk : Keeps org s) : Keeps org (State.sayHello s) := by
  unfold State.sayHello
  repeat' (with_reducible first
      | assumption | exact keeps_refl _ | dsimp only | apply keeps_queueFlit)

theorem keeps_mirrorWrite {org s : State} (a : Nat) (bytes : List Byte) (hk : Keeps org s) : Keeps org (State.mirrorWrite s a bytes) := by
  unfold State.mirrorWrite
  repeat' (with_reducible first
      | assumption | exact keeps_refl _ | (intro _ _) | dsimp only | apply keeps_sendFlit | (refine keeps_foldl ?_ ?_)
      | (refine keeps_foldl_fst ?_ ?_))

theorem keeps_mirrorTensor {org s : State} (t : TDesc) (hk : Keeps org s) : Keeps org (State.mirrorTensor s t) := by
  unfold State.mirrorTensor
  repeat' (with_reducible first
      | assumption | exact keeps_refl _ | (intro _ _) | dsimp only | apply keeps_mirrorWrite | (refine keeps_foldl ?_ ?_)
      | (refine keeps_foldl_fst ?_ ?_) | split)

theorem keeps_mirrorFlags {org s : State} (old : State) (hk : Keeps org s) : Keeps org (State.mirrorFlags s old) := by
  unfold State.mirrorFlags
  repeat' (with_reducible first
      | assumption | exact keeps_refl _ | (intro _ _) | dsimp only | apply keeps_sendFlit | (refine keeps_foldl ?_ ?_)
      | (refine keeps_foldl_fst ?_ ?_) | split)

theorem keeps_mirrorEntry {org s : State} (e : WakeEntry) (ref : Nat) (hk : Keeps org s) : Keeps org (State.mirrorEntry s e ref) := by
  unfold State.mirrorEntry
  repeat' (with_reducible first
      | assumption | exact keeps_refl _ | dsimp only | apply keeps_sendFlits | split)

theorem keeps_flitAck {org s : State} (h : FlitHdr) (hk : Keeps org s) : Keeps org (State.flitAck s h) := by
  unfold State.flitAck
  repeat' (with_reducible first
      | assumption | exact keeps_refl _ | (intro _ _) | (intro _) | dsimp only | apply keeps_modFrd | apply keeps_drainFlits
      | (apply keeps_mk))

theorem keeps_answerAck {org s : State}  (hk : Keeps org s) : Keeps org (State.answerAck s) := by
  unfold State.answerAck
  repeat' (with_reducible first
      | assumption | exact keeps_refl _ | dsimp only | apply keeps_putFlit)

theorem keeps_returnCredit {org s : State} (vc : Nat) (hk : Keeps org s) : Keeps org (State.returnCredit s vc) := by
  unfold State.returnCredit
  repeat' (with_reducible first
      | assumption | exact keeps_refl _ | dsimp only | apply keeps_queueFlit | (apply keeps_mk))

theorem keeps_flitIn {org s : State} (h : FlitHdr) (type : Nat) (payload : List Byte) (hk : Keeps org s) : Keeps org (State.flitIn s h
    type payload).1 := by
  unfold State.flitIn
  repeat' (with_reducible first
      | assumption | exact keeps_refl _ | (intro _ _) | (intro _) | dsimp only | apply keeps_modFrd | apply keeps_answerAck
      | apply keeps_flitAck | apply keeps_replayFlits | apply keeps_returnCredit | split | (apply keeps_mk))

theorem keeps_partnerIn {org s : State} (h : FlitHdr) (type : Nat) (payload : List Byte) (f : State → State) (hf : ∀  q, Keeps q (f  q))
    (hk : Keeps org s) : Keeps org (State.partnerIn s h type payload f) := by
  unfold State.partnerIn
  repeat' (with_reducible first
      | assumption | exact keeps_refl _ | dsimp only | (refine keeps_trans ?_ (hf _ )) | apply keeps_flitIn | split
      | (refine keeps_fst (by assumption) ?_) | (refine keeps_snd (by assumption) ?_))

theorem keeps_fordTrained {org s : State}  (hk : Keeps org s) : Keeps org (State.fordTrained s) := by
  unfold State.fordTrained
  repeat' (with_reducible first
      | assumption | exact keeps_refl _ | (intro _ _) | (intro _) | dsimp only | apply keeps_modFrd | apply keeps_sayHello
      | (apply keeps_mk))

theorem keeps_mirrorCommit {org s : State} (f : Nat) (vote : Nat) (hk : Keeps org s) : Keeps org (State.mirrorCommit s f vote) := by
  unfold State.mirrorCommit
  repeat' (with_reducible first
      | assumption | exact keeps_refl _ | (intro _ _) | (intro _) | dsimp only | apply keeps_mirrorFlags | apply keeps_modFrd
      | (refine keeps_foldl ?_ ?_) | (refine keeps_foldl_fst ?_ ?_) | split | (apply keeps_mk))

theorem keeps_mirrorSet {org s : State} (f : Nat) (b : List Byte) (hk : Keeps org s) : Keeps org (State.mirrorSet s f b) := by
  unfold State.mirrorSet
  repeat' (with_reducible first
      | assumption | exact keeps_refl _ | (intro _ _) | (intro _) | dsimp only | apply keeps_modFrd | split | (apply keeps_mk))

theorem keeps_mirrorFlip {org s : State} (f : Nat) (hk : Keeps org s) : Keeps org (State.mirrorFlip s f) := by
  unfold State.mirrorFlip
  repeat' (with_reducible first
      | assumption | exact keeps_refl _ | (intro _ _) | (intro _) | dsimp only | apply keeps_mirrorCommit | apply keeps_mirrorSet
      | apply keeps_modFrd | apply keeps_mirrorFlags | split | (refine keeps_fst (by assumption) ?_)
      | (refine keeps_snd (by assumption) ?_) | (apply keeps_mk))

/-! ### Train -/

theorem keeps_modUpd {org s : State} (p : Nat) (f : UpdSt → UpdSt) (hk : Keeps org s) : Keeps org (State.modUpd s p f) := by
  unfold State.modUpd
  repeat' (with_reducible first
      | assumption | exact keeps_refl _ | dsimp only | (apply keeps_mk))

theorem keeps_takeEngine {org s : State} (e : WakeEntry) (layer : Nat) (pre : Bool) (hk : Keeps org s) : Keeps org (State.takeEngine s e
    layer pre) := by
  unfold State.takeEngine
  repeat' (with_reducible first
      | assumption | exact keeps_refl _ | (intro _ _) | (intro _) | dsimp only | apply keeps_modUpd | (apply keeps_mk))

theorem keeps_TDesc_writeLinear {org s : State} (t : TDesc) (es : List (Nat × Bool)) (hk : Keeps org s) : Keeps org (TDesc.writeLinear t s
    es) := by
  unfold TDesc.writeLinear
  repeat' (with_reducible first
      | assumption | exact keeps_refl _ | (intro _ _) | dsimp only | apply keeps_TDesc_writeMarked | (refine keeps_foldl ?_ ?_)
      | (refine keeps_foldl_fst ?_ ?_))

theorem keeps_updWrite {org s : State} (e : WakeEntry) (p : UpdP) (row : Nat) (x : NormRow) (g2 : FVal) (n : Nat) (hk : Keeps org s) :
    Keeps org (State.updWrite s e p row x g2 n).1 := by
  unfold State.updWrite
  repeat' (with_reducible first
      | assumption | exact keeps_refl _ | (intro _ _) | (intro _) | dsimp only | apply keeps_TDesc_writeLinear
      | apply keeps_mirrorTensor | apply keeps_modUpd | split | (refine keeps_fst (by assumption) ?_)
      | (refine keeps_snd (by assumption) ?_) | (apply keeps_mk))

theorem keeps_deriveBlock {org s : State} (s0 : State) (e : WakeEntry) (com : TDesc) (work : TDesc) (n : Nat) (j : Nat) (hk : Keeps org s)
    : Keeps org (State.deriveBlock s0 s e com work n j).1 := by
  unfold State.deriveBlock
  repeat' (with_reducible first
      | assumption | exact keeps_refl _ | (intro _ _) | dsimp only | apply keeps_copyBitmap | apply keeps_writeUnit
      | (refine keeps_foldl ?_ ?_) | (refine keeps_foldl_fst ?_ ?_) | (apply keeps_mk))

theorem keeps_putRecord {org s : State} (e : WakeEntry) (bytes : List Byte) (pz : Bool) (hk : Keeps org s) : Keeps org (State.putRecord s
    e bytes pz) := by
  unfold State.putRecord
  repeat' (with_reducible first
      | assumption | exact keeps_refl _ | (intro _ _) | (intro _) | dsimp only | apply keeps_store | apply keeps_modUpd
      | apply keeps_bookTraffic | apply keeps_ran | split | (apply keeps_mk))

end Sys2Proof.Laws
end

