-- ==== Sys2Proof/Laws/KeepsFabric.lean ====
section
/-! SUPPORT. What the operations keep (`Keeps`), one lemma per operation: the ford, collectives, the ledger, power and the sequencer. -/

namespace Sys2Proof.Laws

open Sys2Proof Sys2Proof.Machine

/-! ### Coll -/

theorem keeps_modQp {org s : State} (qpn : Nat) (f : Qp → Qp) (hk : Keeps org s) : Keeps org (State.modQp s qpn f) := by
  unfold State.modQp
  repeat' (with_reducible first
      | assumption | exact keeps_refl _ | dsimp only | (apply keeps_mk))

theorem keeps_modEst {org s : State} (f : EstCtr → EstCtr) (hk : Keeps org s) : Keeps org (State.modEst s f) := by
  unfold State.modEst
  repeat' (with_reducible first
      | assumption | exact keeps_refl _ | dsimp only | (apply keeps_mk))

theorem keeps_countTx {org s : State} (n : Nat) (hk : Keeps org s) : Keeps org (State.countTx s n) := by
  unfold State.countTx
  repeat' (with_reducible first
      | assumption | exact keeps_refl _ | (intro _ _) | (intro _) | dsimp only | apply keeps_fresh | apply keeps_modEst | split
      | (refine keeps_fst (by assumption) ?_) | (refine keeps_snd (by assumption) ?_) | (apply keeps_mk))

theorem keeps_qpRequest {org s : State} (qpn : Nat) (n : Nat) (isRead : Bool) (data : List Byte) (row : Nat) (addr : Nat) (hk : Keeps org
    s) : Keeps org (State.qpRequest s qpn n isRead data row addr) := by
  unfold State.qpRequest
  repeat' (with_reducible first
      | assumption | exact keeps_refl _ | (intro _ _) | (intro _) | dsimp only | apply keeps_modQp | apply keeps_countTx | split
      | (apply keeps_mk))

theorem keeps_modColl {org s : State} (gid : Nat) (cs : Nat) (f : CollSt → CollSt) (hk : Keeps org s) : Keeps org (State.modColl s gid cs
    f) := by
  unfold State.modColl
  repeat' (with_reducible first
      | assumption | exact keeps_refl _ | (intro _ _) | (intro _) | dsimp only | split | (apply keeps_mk))

theorem keeps_dropColl {org s : State} (gid : Nat) (cs : Nat) (hk : Keeps org s) : Keeps org (State.dropColl s gid cs) := by
  unfold State.dropColl
  repeat' (with_reducible first
      | assumption | exact keeps_refl _ | (intro _ _) | (intro _) | dsimp only | (apply keeps_mk))

theorem keeps_dropKept {org s : State} (gid : Nat) (cs : Nat) (hk : Keeps org s) : Keeps org (State.dropKept s gid cs) := by
  unfold State.dropKept
  repeat' (with_reducible first
      | assumption | exact keeps_refl _ | (intro _ _) | (intro _) | dsimp only | (apply keeps_mk))

theorem keeps_collSend1 {org s : State} (p : CollP) (c : CollSt) (dest : Nat) (kind : Nat) (off : Nat) (data : List Byte) (hk : Keeps org
    s) : Keeps org (State.collSend1 s p c dest kind off data) := by
  unfold State.collSend1
  repeat' (with_reducible first
      | assumption | exact keeps_refl _ | (intro _ _) | (intro _) | dsimp only | apply keeps_modColl | apply keeps_sendFlits
      | apply keeps_sendRoce | apply keeps_qpRequest | split | (apply keeps_mk))

theorem keeps_collSend {org s : State} (p : CollP) (c : CollSt) (dest : Nat) (kind : Nat) (off : Nat) (data : List Byte) (hk : Keeps org
    s) : Keeps org (State.collSend s p c dest kind off data) := by
  unfold State.collSend
  repeat' (with_reducible first
      | assumption | exact keeps_refl _ | (intro _ _) | dsimp only | apply keeps_collSend1 | (refine keeps_foldl ?_ ?_)
      | (refine keeps_foldl_fst ?_ ?_))

theorem keeps_TDesc_putLinear {org s : State} (t : TDesc) (a : Nat) (bits : List Nat) (on : Bool) (hk : Keeps org s) : Keeps org
    (TDesc.putLinear t s a bits on) := by
  unfold TDesc.putLinear
  repeat' (with_reducible first
      | assumption | exact keeps_refl _ | (intro _ _) | dsimp only | apply keeps_TDesc_writeRow | apply keeps_TDesc_zbRefresh
      | (refine keeps_foldl ?_ ?_) | (refine keeps_foldl_fst ?_ ?_))

theorem keeps_contrib {org s : State} (p : CollP) (c : CollSt) (a : Nat) (n : Nat) (hk : Keeps org s) : Keeps org (State.contrib s p c a
    n).1 := by
  unfold State.contrib
  repeat' (with_reducible first
      | assumption | exact keeps_refl _ | (intro _ _) | (intro _) | dsimp only | apply keeps_TDesc_putLinear | apply keeps_modColl
      | split | (refine keeps_fst (by assumption) ?_) | (refine keeps_snd (by assumption) ?_) | (apply keeps_mk))

theorem keeps_collNonfinite {org s : State} (p : CollP) (c : CollSt) (on : Bool) (hk : Keeps org s) : Keeps org (State.collNonfinite s p c
    on) := by
  unfold State.collNonfinite
  repeat' (with_reducible first
      | assumption | exact keeps_refl _ | (intro _ _) | (intro _) | dsimp only | apply keeps_modEntry | split | (apply keeps_mk))

theorem keeps_collWrite {org s : State} (p : CollP) (c : CollSt) (a : Nat) (ws : List W32) (pz : Bool) (hk : Keeps org s) : Keeps org
    (State.collWrite s p c a ws pz) := by
  unfold State.collWrite
  repeat' (with_reducible first
      | assumption | exact keeps_refl _ | (intro _ _) | (intro _) | dsimp only | apply keeps_TDesc_putLinear | apply keeps_collNonfinite
      | apply keeps_modColl | split | (apply keeps_mk))

theorem keeps_collWriteRaw {org s : State} (p : CollP) (c : CollSt) (a : Nat) (bits : List Nat) (hk : Keeps org s) : Keeps org
    (State.collWriteRaw s p c a bits) := by
  unfold State.collWriteRaw
  repeat' (with_reducible first
      | assumption | exact keeps_refl _ | (intro _ _) | (intro _) | dsimp only | apply keeps_TDesc_putLinear | apply keeps_collNonfinite
      | apply keeps_modColl | (apply keeps_mk))

theorem keeps_recordVote {org s : State} (e : WakeEntry) (members : List Nat) (pass : Bool) (hk : Keeps org s) : Keeps org
    (State.recordVote s e members pass) := by
  unfold State.recordVote
  repeat' (with_reducible first
      | assumption | exact keeps_refl _ | dsimp only | apply keeps_sendFlit | split | (apply keeps_mk))

theorem keeps_collEnds {org s : State} (p : CollP) (c : CollSt) (code : Nat) (pass : Bool) (hk : Keeps org s) : Keeps org (State.collEnds
    s p c code pass) := by
  unfold State.collEnds
  repeat' (with_reducible first
      | assumption | exact keeps_refl _ | (intro _ _) | (intro _) | dsimp only | apply keeps_ran | apply keeps_modEntry
      | apply keeps_dropKept | split | (apply keeps_mk))

theorem keeps_collLost {org s : State} (p : CollP) (c : CollSt) (hk : Keeps org s) : Keeps org (State.collLost s p c) := by
  unfold State.collLost
  repeat' (with_reducible first
      | assumption | exact keeps_refl _ | (intro _ _) | (intro _) | dsimp only | apply keeps_collEnds | apply keeps_modEst
      | apply keeps_dropColl | split | (apply keeps_mk))

theorem keeps_sendResult {org s : State} (p : CollP) (c : CollSt) (r : Nat) (hk : Keeps org s) : Keeps org (State.sendResult s p c r) := by
  unfold State.sendResult
  repeat' (with_reducible first
      | assumption | exact keeps_refl _ | (intro _ _) | (intro _) | dsimp only | apply keeps_collSend | split)

theorem keeps_collFinish {org s : State} (p : CollP) (c : CollSt) (hk : Keeps org s) : Keeps org (State.collFinish s p c) := by
  unfold State.collFinish
  repeat' (with_reducible first
      | assumption | exact keeps_refl _ | (intro _ _) | (intro _) | dsimp only | apply keeps_collEnds | apply keeps_modEst
      | apply keeps_modColl | apply keeps_sendResult | apply keeps_dropColl | (refine keeps_foldl ?_ ?_)
      | (refine keeps_foldl_fst ?_ ?_) | split | (apply keeps_mk))

theorem keeps_nextSend {org s : State} (p : CollP) (c : CollSt) (o : Nat) (ws : List W32) (hk : Keeps org s) : Keeps org (State.nextSend s
    p c o ws) := by
  unfold State.nextSend
  repeat' (with_reducible first
      | assumption | exact keeps_refl _ | dsimp only | apply keeps_collSend | split)

theorem keeps_ringSend {org s : State} (p : CollP) (c : CollSt) (o : Nat) (ws : List W32) (hk : Keeps org s) : Keeps org (State.ringSend s
    p c o ws) := by
  unfold State.ringSend
  repeat' (with_reducible first
      | assumption | exact keeps_refl _ | dsimp only | apply keeps_nextSend | split)

theorem keeps_ringReduced {org s : State} (p : CollP) (c : CollSt) (j : Nat) (o : Nat) (ws : List W32) (pz : Bool) (hk : Keeps org s) :
    Keeps org (State.ringReduced s p c j o ws pz) := by
  unfold State.ringReduced
  repeat' (with_reducible first
      | assumption | exact keeps_refl _ | dsimp only | apply keeps_collWrite | apply keeps_ringSend | split)

theorem keeps_broadcastData {org s : State} (p : CollP) (c : CollSt) (j : Nat) (last : Bool) (o : Nat) (ws : List W32) (hk : Keeps org s)
    : Keeps org (State.broadcastData s p c j last o ws) := by
  unfold State.broadcastData
  repeat' (with_reducible first
      | assumption | exact keeps_refl _ | (intro _ _) | (intro _) | dsimp only | apply keeps_collWrite | apply keeps_modColl
      | apply keeps_nextSend | split | (apply keeps_mk))

theorem keeps_ringData {org s : State} (p : CollP) (c : CollSt) (j : Nat) (gather : Bool) (o : Nat) (ws : List W32) (hk : Keeps org s) :
    Keeps org (State.ringData s p c j gather o ws) := by
  unfold State.ringData
  repeat' (with_reducible first
      | assumption | exact keeps_refl _ | (intro _ _) | (intro _) | dsimp only | apply keeps_broadcastData | apply keeps_collWrite
      | apply keeps_ringSend | apply keeps_contrib | apply keeps_modColl | apply keeps_ringReduced | split
      | (refine keeps_fst (by assumption) ?_) | (refine keeps_snd (by assumption) ?_) | (apply keeps_mk))

theorem keeps_broadcastStart {org s : State} (p : CollP) (c : CollSt) (hk : Keeps org s) : Keeps org (State.broadcastStart s p c) := by
  unfold State.broadcastStart
  repeat' (with_reducible first
      | assumption | exact keeps_refl _ | (intro _ _) | (intro _) | dsimp only | apply keeps_contrib | apply keeps_collWrite
      | apply keeps_modColl | apply keeps_nextSend | (refine keeps_foldl ?_ ?_) | (refine keeps_foldl_fst ?_ ?_) | split
      | (refine keeps_fst (by assumption) ?_) | (refine keeps_snd (by assumption) ?_) | (apply keeps_mk))

theorem keeps_ringStart {org s : State} (p : CollP) (c : CollSt) (hk : Keeps org s) : Keeps org (State.ringStart s p c) := by
  unfold State.ringStart
  repeat' (with_reducible first
      | assumption | exact keeps_refl _ | dsimp only | apply keeps_broadcastStart | apply keeps_contrib | apply keeps_collWrite
      | apply keeps_ringSend | apply keeps_ringReduced | split | (refine keeps_fst (by assumption) ?_)
      | (refine keeps_snd (by assumption) ?_))

theorem keeps_exchangeSend {org s : State} (p : CollP) (c : CollSt) (hk : Keeps org s) : Keeps org (State.exchangeSend s p c) := by
  unfold State.exchangeSend
  repeat' (with_reducible first
      | assumption | exact keeps_refl _ | (intro _ _) | (intro _) | dsimp only | apply keeps_modColl | apply keeps_send
      | apply keeps_collSend | apply keeps_contrib | split | (refine keeps_fst (by assumption) ?_)
      | (refine keeps_snd (by assumption) ?_) | (apply keeps_mk))

theorem keeps_exchangeNext {org x1 : State} (p : CollP) (gid : Nat) (cs : Nat) (x0 : Nat) (hk : Keeps org x1) : Keeps org (exchangeNext p
    gid cs x0 x1) := by
  induction x0 generalizing x1 with
  | zero => exact hk
  | succ n ih =>
    unfold exchangeNext
    repeat' (with_reducible first
      | assumption | (apply ih) | exact keeps_refl _ | (intro _ _) | (intro _) | dsimp only | apply keeps_modColl
      | apply keeps_collWrite | apply keeps_exchangeSend | split | (refine keeps_fst (by assumption) ?_)
      | (refine keeps_snd (by assumption) ?_) | (apply keeps_mk))

theorem keeps_exchangeData {org s : State} (p : CollP) (c : CollSt) (h : Nat) (o : Nat) (ws : List W32) (hk : Keeps org s) : Keeps org
    (State.exchangeData s p c h o ws).1 := by
  unfold State.exchangeData
  repeat' (with_reducible first
      | assumption | exact keeps_refl _ | (intro _ _) | (intro _) | dsimp only | apply keeps_contrib | apply keeps_modColl
      | apply keeps_collWrite | apply keeps_exchangeNext | split | (refine keeps_fst (by assumption) ?_)
      | (refine keeps_snd (by assumption) ?_) | (apply keeps_mk))

theorem keeps_collBegin {org s : State} (p : CollP) (c0 : CollSt) (members : List Nat) (vote : Nat) (elems : Nat) (table : List RankInfo)
    (hk : Keeps org s) : Keeps org (State.collBegin s p c0 members vote elems table) := by
  unfold State.collBegin
  repeat' (with_reducible first
      | assumption | exact keeps_refl _ | (intro _ _) | (intro _) | dsimp only | apply keeps_modColl | apply keeps_exchangeNext
      | apply keeps_exchangeSend | apply keeps_ringStart | split | (apply keeps_mk))

theorem keeps_collExcluded {org s : State} (p : CollP) (c : CollSt) (members : List Nat) (vote : Nat) (elems : Nat) (table : List
    RankInfo) (hk : Keeps org s) : Keeps org (State.collExcluded s p c members vote elems table) := by
  unfold State.collExcluded
  repeat' (with_reducible first
      | assumption | exact keeps_refl _ | (intro _ _) | (intro _) | dsimp only | apply keeps_modColl | apply keeps_TDesc_writeLinear
      | apply keeps_modEst | split | (refine keeps_fst (by assumption) ?_) | (refine keeps_snd (by assumption) ?_) | (apply keeps_mk))

theorem keeps_fixSet {org s : State} (p : CollP) (c : CollSt) (hk : Keeps org s) : Keeps org (State.fixSet s p c) := by
  unfold State.fixSet
  repeat' (with_reducible first
      | assumption | exact keeps_refl _ | (intro _ _) | (intro _) | dsimp only | apply keeps_modEst | apply keeps_modColl
      | apply keeps_collSend | apply keeps_collBegin | (refine keeps_foldl ?_ ?_) | (refine keeps_foldl_fst ?_ ?_) | split
      | (apply keeps_mk))

theorem keeps_tryFix {org s : State} (p : CollP) (gid : Nat) (cs : Nat) (hk : Keeps org s) : Keeps org (State.tryFix s p gid cs) := by
  unfold State.tryFix
  repeat' (with_reducible first
      | assumption | exact keeps_refl _ | dsimp only | apply keeps_fixSet | split | (refine keeps_fst (by assumption) ?_)
      | (refine keeps_snd (by assumption) ?_) | (apply keeps_mk))

theorem keeps_recordArrive {org s : State} (p : CollP) (c : CollSt) (i : RankInfo) (hk : Keeps org s) : Keeps org (State.recordArrive s p
    c i) := by
  unfold State.recordArrive
  repeat' (with_reducible first
      | assumption | exact keeps_refl _ | (intro _ _) | (intro _) | dsimp only | apply keeps_modColl | apply keeps_collSend
      | apply keeps_sendResult | apply keeps_dropColl | apply keeps_tryFix | split | (apply keeps_mk))

theorem keeps_openWindow {org s : State} (p : CollP) (c : CollSt) (hk : Keeps org s) : Keeps org (State.openWindow s p c) := by
  unfold State.openWindow
  repeat' (with_reducible first
      | assumption | exact keeps_refl _ | (intro _ _) | (intro _) | dsimp only | apply keeps_modColl | apply keeps_collLost
      | apply keeps_recordArrive | apply keeps_collSend | split | (apply keeps_mk))

theorem keeps_collDeliver {org s : State} (p : CollP) (c : CollSt) (x0 : Instr) (hk : Keeps org s) : Keeps org (State.collDeliver s p c
    x0).1 := by
  unfold State.collDeliver
  repeat' (with_reducible first
      | assumption | exact keeps_refl _ | (intro _ _) | (intro _) | dsimp only | apply keeps_recordArrive | apply keeps_collBegin
      | apply keeps_collExcluded | apply keeps_exchangeData | apply keeps_ringData | apply keeps_collWriteRaw | apply keeps_modColl
      | split | (apply keeps_mk))

theorem keeps_collFirst {org s t : State} {p : CollP} {c : CollSt} {l : List (Nat × Nat × Instr)}
    (eq : State.collFirst s p c l = some t) (hk : Keeps org s) : Keeps org t := by
  induction l with
  | nil => simp [State.collFirst] at eq
  | cons b l ih =>
    unfold State.collFirst at eq
    split at eq
    · split at eq
      rename_i s1 ok hd
      split at eq
      · injection eq with eq
        subst eq
        apply keeps_mk
        exact keeps_fst hd (keeps_collDeliver p c b.2.2 hk)
      · exact ih eq
    · exact ih eq

theorem keeps_collPump {org x1 : State} (p : CollP) (gid : Nat) (cs : Nat) (x0 : Nat) (hk : Keeps org x1) : Keeps org (collPump p gid cs
    x0 x1) := by
  induction x0 generalizing x1 with
  | zero => exact hk
  | succ n ih =>
    unfold collPump
    split
    · exact hk
    · split
      · rename_i e
        exact ih (keeps_collFirst e hk)
      · exact keeps_collFinish _ _ hk

theorem keeps_collRun {org s : State} (gid : Nat) (cs : Nat) (f : CollP → CollSt → State → State) (hf : ∀ x0 x1 q, Keeps q (f x0 x1 q))
    (hk : Keeps org s) : Keeps org (State.collRun s gid cs f) := by
  unfold State.collRun
  repeat' (with_reducible first
      | assumption | exact keeps_refl _ | dsimp only | (refine keeps_trans ?_ (hf _ _ _ )) | apply keeps_collPump | split
      | (refine keeps_fst (by assumption) ?_) | (refine keeps_snd (by assumption) ?_) | (apply keeps_mk))

theorem keeps_collMessage {org s : State} (gid : Nat) (cs : Nat) (m : Instr) (hk : Keeps org s) : Keeps org (State.collMessage s gid cs m)
    := by
  unfold State.collMessage
  repeat' (with_reducible first
      | assumption | exact keeps_refl _ | (intro _ _) | (intro _) | dsimp only | apply keeps_modEst | apply keeps_collRun | split
      | (refine keeps_fst (by assumption) ?_) | (refine keeps_snd (by assumption) ?_) | (apply keeps_mk))

theorem keeps_losePeers {org s : State} (every : Bool) (lost : CollP → CollSt → Bool) (hk : Keeps org s) : Keeps org (State.losePeers s
    every lost) := by
  unfold State.losePeers
  repeat' (with_reducible first
      | assumption | exact keeps_refl _ | (intro _ _) | dsimp only | apply keeps_collLost | (refine keeps_foldl ?_ ?_)
      | (refine keeps_foldl_fst ?_ ?_) | split)

theorem keeps_qpLost {org s : State} (qpn : Nat) (hk : Keeps org s) : Keeps org (State.qpLost s qpn) := by
  unfold State.qpLost
  repeat' (with_reducible first
      | assumption | exact keeps_refl _ | (intro _ _) | (intro _) | dsimp only | apply keeps_losePeers)

theorem keeps_startColl {org s : State} (q : Nat) (seq : Nat) (opcode : Nat) (hk : Keeps org s) : Keeps org (State.startColl s q seq
    opcode) := by
  unfold State.startColl
  repeat' (with_reducible first
      | assumption | exact keeps_refl _ | (intro _ _) | (intro _) | dsimp only | apply keeps_modEntry | apply keeps_collRun
      | apply keeps_collLost | apply keeps_openWindow | split | (refine keeps_fst (by assumption) ?_)
      | (refine keeps_snd (by assumption) ?_) | (apply keeps_mk))

theorem keeps_openWindows {org s : State}  (hk : Keeps org s) : Keeps org (State.openWindows s) := by
  unfold State.openWindows
  repeat' (with_reducible first
      | assumption | exact keeps_refl _ | (intro _ _) | (intro _) | dsimp only | apply keeps_collRun | apply keeps_openWindow
      | (refine keeps_foldl ?_ ?_) | (refine keeps_foldl_fst ?_ ?_) | split)

theorem keeps_partnerLoss {org s : State} (cause : Nat) (hk : Keeps org s) : Keeps org (State.partnerLoss s cause) := by
  unfold State.partnerLoss
  repeat' (with_reducible first
      | assumption | exact keeps_refl _ | (intro _ _) | (intro _) | dsimp only | apply keeps_modFrd | apply keeps_losePeers
      | apply keeps_raise | apply keeps_store | split | (apply keeps_mk))

/-! ### Ledger -/

theorem keeps_modJui {org s : State} (f : JuiSt → JuiSt) (hk : Keeps org s) : Keeps org (State.modJui s f) := by
  unfold State.modJui
  repeat' (with_reducible first
      | assumption | exact keeps_refl _ | dsimp only | (apply keeps_mk))

theorem keeps_emit {org s : State} (type : Nat) (fl : Nat) (first : Nat) (last : Nat) (body : List Byte) (hk : Keeps org s) : Keeps org
    (State.emit s type fl first last body) := by
  unfold State.emit
  repeat' (with_reducible first
      | assumption | exact keeps_refl _ | (intro _ _) | (intro _) | dsimp only | apply keeps_modJui | (apply keeps_mk))

theorem keeps_signNext {org s : State}  (hk : Keeps org s) : Keeps org (State.signNext s).1 := by
  unfold State.signNext
  repeat' (with_reducible first
      | assumption | exact keeps_refl _ | (intro _ _) | (intro _) | dsimp only | apply keeps_modJui | split
      | (refine keeps_fst (by assumption) ?_) | (refine keeps_snd (by assumption) ?_) | (apply keeps_mk))

theorem keeps_keepLedger {org s : State} (r : List Byte) (hk : Keeps org s) : Keeps org (State.keepLedger s r) := by
  unfold State.keepLedger
  repeat' (with_reducible first
      | assumption | exact keeps_refl _ | dsimp only | split | (apply keeps_mk))

theorem keeps_bookInFlight {org s : State}  (hk : Keeps org s) : Keeps org (State.bookInFlight s) := by
  unfold State.bookInFlight
  repeat' (with_reducible first
      | assumption | exact keeps_refl _ | (intro _ _) | (intro _) | dsimp only | apply keeps_bookOcc | (refine keeps_foldl ?_ ?_)
      | (refine keeps_foldl_fst ?_ ?_) | split | (refine keeps_fst (by assumption) ?_) | (refine keeps_snd (by assumption) ?_)
      | (apply keeps_mk))

theorem keeps_emitRequest {org s : State} (r : Req) (queue : Nat) (id : Nat) (extra : Nat) (last : Nat) (hk : Keeps org s) : Keeps org
    (State.emitRequest s r queue id extra last) := by
  unfold State.emitRequest
  repeat' (with_reducible first
      | assumption | exact keeps_refl _ | (intro _ _) | (intro _) | dsimp only | apply keeps_emit | apply keeps_modJui | (apply keeps_mk))

theorem keeps_closeRequest {org s : State} (m : Nat) (beat : Bool) (place : Nat) (r : Req) (hk : Keeps org s) : Keeps org
    (State.closeRequest s m beat place r) := by
  unfold State.closeRequest
  repeat' (with_reducible first
      | assumption | exact keeps_refl _ | (intro _ _) | (intro _) | dsimp only | apply keeps_modJui | apply keeps_emitRequest | split
      | (apply keeps_mk))

theorem keeps_closeOverflow {org s : State} (m : Nat) (hk : Keeps org s) : Keeps org (State.closeOverflow s m) := by
  unfold State.closeOverflow
  repeat' (with_reducible first
      | assumption | exact keeps_refl _ | (intro _ _) | (intro _) | dsimp only | apply keeps_emitRequest | apply keeps_modJui | split
      | (apply keeps_mk))

theorem keeps_emitSpan {org s : State} (type : Nat) (last : Nat) (hk : Keeps org s) : Keeps org (State.emitSpan s type last) := by
  unfold State.emitSpan
  repeat' (with_reducible first
      | assumption | exact keeps_refl _ | (intro _ _) | (intro _) | dsimp only | apply keeps_emit | apply keeps_modJui | (apply keeps_mk))

theorem keeps_ledgerClose {org s0 : State} (m : Nat) (hk : Keeps org s0) : Keeps org (State.ledgerClose s0 m) := by
  unfold State.ledgerClose
  repeat' (with_reducible first
      | assumption | exact keeps_refl _ | (intro _ _) | (intro _) | dsimp only | apply keeps_bookInFlight | apply keeps_modJui
      | apply keeps_closeRequest | apply keeps_closeOverflow | apply keeps_emitSpan | (refine keeps_foldl ?_ ?_)
      | (refine keeps_foldl_fst ?_ ?_) | split | (refine keeps_fst (by assumption) ?_) | (refine keeps_snd (by assumption) ?_)
      | (apply keeps_mk))

theorem keeps_ledgerStart {org s : State}  (hk : Keeps org s) : Keeps org (State.ledgerStart s) := by
  unfold State.ledgerStart
  repeat' (with_reducible first
      | assumption | exact keeps_refl _ | (intro _ _) | (intro _) | dsimp only | apply keeps_modJui | apply keeps_emit | split
      | (apply keeps_mk))

theorem keeps_signAll {org x1 : State} (x0 : Nat) (hk : Keeps org x1) : Keeps org (signAll x0 x1) := by
  induction x0 generalizing x1 with
  | zero => exact hk
  | succ n ih =>
    unfold signAll
    repeat' (with_reducible first
      | assumption | (apply ih) | exact keeps_refl _ | dsimp only | apply keeps_signNext | apply keeps_keepLedger | split
      | (refine keeps_fst (by assumption) ?_) | (refine keeps_snd (by assumption) ?_))

theorem keeps_ledgerFinal {org s : State}  (hk : Keeps org s) : Keeps org (State.ledgerFinal s) := by
  unfold State.ledgerFinal
  repeat' (with_reducible first
      | assumption | exact keeps_refl _ | (intro _ _) | (intro _) | dsimp only | apply keeps_emitRequest | apply keeps_modJui
      | apply keeps_closeOverflow | apply keeps_emitSpan | apply keeps_signAll | (refine keeps_foldl ?_ ?_)
      | (refine keeps_foldl_fst ?_ ?_) | split | (apply keeps_mk))

/-! ### Power -/

theorem keeps_modSpw {org s : State} (f : SpwSt → SpwSt) (hk : Keeps org s) : Keeps org (State.modSpw s f) := by
  unfold State.modSpw
  repeat' (with_reducible first
      | assumption | exact keeps_refl _ | dsimp only | (apply keeps_mk))

theorem keeps_thermalMark {org s : State}  (hk : Keeps org s) : Keeps org (State.thermalMark s) := by
  unfold State.thermalMark
  repeat' (with_reducible first
      | assumption | exact keeps_refl _ | (intro _ _) | (intro _) | dsimp only | apply keeps_modSpw | split | (apply keeps_mk))

theorem keeps_decideMark {org s : State}  (hk : Keeps org s) : Keeps org (State.decideMark s) := by
  unfold State.decideMark
  repeat' (with_reducible first
      | assumption | exact keeps_refl _ | (intro _ _) | (intro _) | dsimp only | apply keeps_fresh | apply keeps_modSpw | split
      | (refine keeps_fst (by assumption) ?_) | (refine keeps_snd (by assumption) ?_) | (apply keeps_mk))

theorem keeps_dvfsMark {org s : State}  (hk : Keeps org s) : Keeps org (State.dvfsMark s) := by
  unfold State.dvfsMark
  repeat' (with_reducible first
      | assumption | exact keeps_refl _ | (intro _ _) | (intro _) | dsimp only | apply keeps_modSpw | apply keeps_thermalMark
      | apply keeps_decideMark | split | (apply keeps_mk))

theorem keeps_noteThrottle {org s : State} (m : Nat) (hk : Keeps org s) : Keeps org (State.noteThrottle s m) := by
  unfold State.noteThrottle
  repeat' (with_reducible first
      | assumption | exact keeps_refl _ | (intro _ _) | (intro _) | dsimp only | apply keeps_modSpw | split | (apply keeps_mk))

theorem keeps_slackMark {org s : State}  (hk : Keeps org s) : Keeps org (State.slackMark s) := by
  unfold State.slackMark
  repeat' (with_reducible first
      | assumption | exact keeps_refl _ | (intro _ _) | (intro _) | dsimp only | apply keeps_modSpw | split
      | (refine keeps_fst (by assumption) ?_) | (refine keeps_snd (by assumption) ?_) | (apply keeps_mk))

theorem keeps_slackDrop {org s : State}  (hk : Keeps org s) : Keeps org (State.slackDrop s) := by
  unfold State.slackDrop
  repeat' (with_reducible first
      | assumption | exact keeps_refl _ | (intro _ _) | (intro _) | dsimp only | apply keeps_modSpw | (apply keeps_mk))

/-! ### Frames -/

theorem keeps_decodeFrame {org s : State} (q : Nat) (f : List Byte) (tally : Bool) (hk : Keeps org s) : Keeps org (State.decodeFrame s q f
    tally).1 := by
  unfold State.decodeFrame
  repeat' (with_reducible first
      | assumption | exact keeps_refl _ | (intro _ _) | (intro _) | dsimp only | apply keeps_modQueue | apply keeps_routePredict
      | apply keeps_prefetch | split | (refine keeps_fst (by assumption) ?_) | (refine keeps_snd (by assumption) ?_) | (apply keeps_mk))

/-! ### Seq -/

theorem keeps_holdCores {org s : State} (c : Cmd) (hk : Keeps org s) : Keeps org (State.holdCores s c) := by
  unfold State.holdCores
  repeat' (with_reducible first
      | assumption | exact keeps_refl _ | (intro _ _) | (intro _) | dsimp only | apply keeps_modCore | (refine keeps_foldl ?_ ?_)
      | (refine keeps_foldl_fst ?_ ?_) | split | (apply keeps_mk))

theorem keeps_takeCollSeq {org s : State} (c : Cmd) (hk : Keeps org s) : Keeps org (State.takeCollSeq s c).1 := by
  unfold State.takeCollSeq
  repeat' (with_reducible first
      | assumption | exact keeps_refl _ | dsimp only | split | (refine keeps_fst (by assumption) ?_)
      | (refine keeps_snd (by assumption) ?_) | (apply keeps_mk))

theorem keeps_openRequest {org s : State} (c : Cmd) (hk : Keeps org s) : Keeps org (State.openRequest s c) := by
  unfold State.openRequest
  repeat' (with_reducible first
      | assumption | exact keeps_refl _ | dsimp only | split | (refine keeps_fst (by assumption) ?_)
      | (refine keeps_snd (by assumption) ?_) | (apply keeps_mk))

theorem keeps_reachTrain {org s : State} (c : Cmd) (hk : Keeps org s) : Keeps org (State.reachTrain s c) := by
  unfold State.reachTrain
  repeat' (with_reducible first
      | assumption | exact keeps_refl _ | (intro _ _) | (intro _) | dsimp only | split | (apply keeps_mk))

theorem keeps_freeUnits {org s : State} (e : WakeEntry) (hk : Keeps org s) : Keeps org (State.freeUnits s e) := by
  unfold State.freeUnits
  repeat' (with_reducible first
      | assumption | exact keeps_refl _ | (intro _ _) | (intro _) | dsimp only | apply keeps_modUpd | apply keeps_routeDone | split
      | (apply keeps_mk))

theorem keeps_bookDone {org s : State} (e : WakeEntry) (hk : Keeps org s) : Keeps org (State.bookDone s e) := by
  unfold State.bookDone
  repeat' (with_reducible first
      | assumption | exact keeps_refl _ | (intro _ _) | (intro _) | dsimp only | apply keeps_bookOcc | apply keeps_modJui | split
      | (apply keeps_mk))

end Sys2Proof.Laws
end

