-- ==== Sys2Proof/Laws/KeepsService.lean ====
section
/-! SUPPORT. What the operations keep (`Keeps`), one lemma per operation: resets, bring-up, the tide, commits, fingerprints, the estuary, registers, stops and the gauge. -/

namespace Sys2Proof.Laws

open Sys2Proof Sys2Proof.Machine

/-! ### Reset -/

theorem keeps_kickChannels {org s : State} (core : Nat) (hk : Keeps org s) : Keeps org (State.kickChannels s core) := by
  unfold State.kickChannels
  repeat' (with_reducible first
      | assumption | exact keeps_refl _ | (intro _ _) | dsimp only | apply keeps_nextChain | apply keeps_firesDone
      | (refine keeps_foldl ?_ ?_) | (refine keeps_foldl_fst ?_ ?_) | split)

theorem keeps_abandonCore {org s : State} (c : Cmd) (core : Nat) (hk : Keeps org s) : Keeps org (State.abandonCore s c core) := by
  unfold State.abandonCore
  repeat' (with_reducible first
      | assumption | exact keeps_refl _ | (intro _ _) | (intro _) | dsimp only | apply keeps_dropGroups | apply keeps_modCore
      | apply keeps_busy | apply keeps_kickChannels | split | (refine keeps_fst (by assumption) ?_)
      | (refine keeps_snd (by assumption) ?_) | (apply keeps_mk))

theorem keeps_endCommand {org s : State} (fault : Bool) (e : WakeEntry) (hk : Keeps org s) : Keeps org (State.endCommand s fault e) := by
  unfold State.endCommand
  repeat' (with_reducible first
      | assumption | exact keeps_refl _ | (intro _ _) | (intro _) | dsimp only | apply keeps_abandonCore | apply keeps_modUpd
      | apply keeps_modEntry | (refine keeps_foldl ?_ ?_) | (refine keeps_foldl_fst ?_ ?_) | split | (apply keeps_mk))

theorem keeps_resetCores {org s : State} (level : Nat) (inst : Nat) (hk : Keeps org s) : Keeps org (State.resetCores s level inst) := by
  unfold State.resetCores
  repeat' (with_reducible first
      | assumption | exact keeps_refl _ | (intro _ _) | (intro _) | dsimp only | split | (apply keeps_mk))

theorem keeps_poisonDma {org s : State} (core : Nat) (hk : Keeps org s) : Keeps org (State.poisonDma s core) := by
  unfold State.poisonDma
  repeat' (with_reducible first
      | assumption | exact keeps_refl _ | (intro _ _) | (intro _) | dsimp only | apply keeps_poisonGranule | apply keeps_modDma | split
      | (refine keeps_fst (by assumption) ?_) | (refine keeps_snd (by assumption) ?_) | (apply keeps_mk))

theorem keeps_readPoisoned {org s : State} (fault : Bool) (r : Requester) (hk : Keeps org s) : Keeps org (State.readPoisoned s fault r) :=
    by
  unfold State.readPoisoned
  repeat' (with_reducible first
      | assumption | exact keeps_refl _ | dsimp only | apply keeps_endCommand | apply keeps_poisonDma | split
      | (refine keeps_fst (by assumption) ?_) | (refine keeps_snd (by assumption) ?_) | (apply keeps_mk))

theorem keeps_poisonReads {org s : State} (fault : Bool) (p : Miss → Bool) (hk : Keeps org s) : Keeps org (State.poisonReads s fault p) :=
    by
  unfold State.poisonReads
  repeat' (with_reducible first
      | assumption | exact keeps_refl _ | (intro _ _) | (intro _) | dsimp only | apply keeps_readPoisoned | (refine keeps_foldl ?_ ?_)
      | (refine keeps_foldl_fst ?_ ?_) | (apply keeps_mk))

theorem keeps_resetLlc {org s : State} (fault : Bool) (hk : Keeps org s) : Keeps org (State.resetLlc s fault) := by
  unfold State.resetLlc
  repeat' (with_reducible first
      | assumption | exact keeps_refl _ | (intro _ _) | (intro _) | dsimp only | apply keeps_poisonReads | apply keeps_clearCache
      | (apply keeps_mk))

theorem keeps_resetCodec {org s : State}  (hk : Keeps org s) : Keeps org (State.resetCodec s) := by
  unfold State.resetCodec
  repeat' (with_reducible first
      | assumption | exact keeps_refl _ | (intro _ _) | (intro _) | dsimp only | apply keeps_poisonDma | (refine keeps_foldl ?_ ?_)
      | (refine keeps_foldl_fst ?_ ?_) | split | (refine keeps_fst (by assumption) ?_) | (refine keeps_snd (by assumption) ?_)
      | (apply keeps_mk))

theorem keeps_resetEstuary {org s : State}  (hk : Keeps org s) : Keeps org (State.resetEstuary s) := by
  unfold State.resetEstuary
  repeat' (with_reducible first
      | assumption | exact keeps_refl _ | (intro _ _) | (intro _) | dsimp only | apply keeps_losePeers | (apply keeps_mk))

theorem keeps_resetFord {org s : State}  (hk : Keeps org s) : Keeps org (State.resetFord s) := by
  unfold State.resetFord
  repeat' (with_reducible first
      | assumption | exact keeps_refl _ | (intro _ _) | (intro _) | dsimp only | apply keeps_partnerLoss | apply keeps_modFrd
      | (apply keeps_mk))

theorem keeps_resetUnit {org s : State} (fault : Bool) (unit : Nat) (inst : Nat) (hk : Keeps org s) : Keeps org (State.resetUnit s fault
    unit inst) := by
  unfold State.resetUnit
  repeat' (with_reducible first
      | assumption | exact keeps_refl _ | (intro _ _) | (intro _) | dsimp only | apply keeps_endCommand | apply keeps_resetLlc
      | apply keeps_poisonReads | apply keeps_resetCodec | apply keeps_modUpd | apply keeps_resetEstuary | apply keeps_resetFord
      | (refine keeps_foldl ?_ ?_) | (refine keeps_foldl_fst ?_ ?_) | split | (apply keeps_mk))

theorem keeps_refuseReset {org s : State} (level : Nat) (inst : Nat) (hk : Keeps org s) : Keeps org (State.refuseReset s level inst) := by
  unfold State.refuseReset
  repeat' (with_reducible first
      | assumption | exact keeps_refl _ | dsimp only | apply keeps_gaugeEvent)

theorem keeps_beginReset {org s : State} (level : Nat) (inst : Nat) (fault : Bool) (hk : Keeps org s) : Keeps org (State.beginReset s
    level inst fault) := by
  unfold State.beginReset
  repeat' (with_reducible first
      | assumption | exact keeps_refl _ | (intro _ _) | (intro _) | dsimp only | apply keeps_refuseReset | apply keeps_resetUnit
      | apply keeps_endCommand | apply keeps_resetCores | apply keeps_modUpd | apply keeps_discardProv | (refine keeps_foldl ?_ ?_)
      | (refine keeps_foldl_fst ?_ ?_) | split | (apply keeps_mk))

theorem keeps_clearCore {org s : State} (c : Nat) (hk : Keeps org s) : Keeps org (State.clearCore s c) :=
  keeps_filtered hk rfl rfl rfl rfl ⟨_, rfl⟩ ⟨_, rfl⟩ rfl rfl

theorem keeps_remapRecord {org s : State} (action : Nat) (cls : Nat) (unit : Nat) (inst : Nat) (detail : Nat) (hk : Keeps org s) : Keeps
    org (State.remapRecord s action cls unit inst detail) := by
  unfold State.remapRecord
  repeat' (with_reducible first
      | assumption | exact keeps_refl _ | dsimp only | apply keeps_raise | (apply keeps_mk))

theorem keeps_moveCluster {org s : State} (n : Nat) (cls : Nat) (unit : Nat) (inst : Nat) (detail : Nat) (hk : Keeps org s) : Keeps org
    (State.moveCluster s n cls unit inst detail) := by
  unfold State.moveCluster
  repeat' (with_reducible first
      | assumption | exact keeps_refl _ | (intro _ _) | (intro _) | dsimp only | apply keeps_clearCore | apply keeps_remapRecord
      | (refine keeps_foldl ?_ ?_) | (refine keeps_foldl_fst ?_ ?_) | split | (refine keeps_fst (by assumption) ?_)
      | (refine keeps_snd (by assumption) ?_) | (apply keeps_mk))

theorem keeps_moveCore {org s t : State} {c : Nat} (eq : State.moveCore s c = some t) (hk : Keeps org s) : Keeps org t := by
  unfold State.moveCore at eq
  dsimp only at eq
  split at eq
  · cases eq
  · injection eq with eq
    subst eq
    exact keeps_remapRecord _ _ _ _ _ (keeps_clearCore _ (keeps_mk hk))

theorem keeps_remapCluster {org s : State} (n : Nat) (hk : Keeps org s) : Keeps org (State.remapCluster s n) := by
  unfold State.remapCluster
  repeat' (with_reducible first
      | assumption | exact keeps_refl _ | (intro _ _) | dsimp only | apply keeps_moveCluster
      | (refine keeps_moveCore (by assumption) ?_) | (refine keeps_foldl ?_ ?_) | (refine keeps_foldl_fst ?_ ?_) | split
      | (refine keeps_fst (by assumption) ?_) | (refine keeps_snd (by assumption) ?_) | (apply keeps_mk))

theorem keeps_remapPartition {org s : State} (p : Nat) (hk : Keeps org s) : Keeps org (State.remapPartition s p) := by
  unfold State.remapPartition
  repeat' (with_reducible first
      | assumption | exact keeps_refl _ | (intro _ _) | (intro _) | dsimp only | apply keeps_remapCluster | (refine keeps_foldl ?_ ?_)
      | (refine keeps_foldl_fst ?_ ?_) | (apply keeps_mk))

theorem keeps_redecode {org s : State} (p : Nat) (hk : Keeps org s) : Keeps org (State.redecode s p) := by
  unfold State.redecode
  repeat' (with_reducible first
      | assumption | exact keeps_refl _ | (intro _ _) | (intro _) | dsimp only | apply keeps_decodeFrame | apply keeps_modQueue
      | (refine keeps_foldl ?_ ?_) | (refine keeps_foldl_fst ?_ ?_) | split | (refine keeps_fst (by assumption) ?_)
      | (refine keeps_snd (by assumption) ?_) | (apply keeps_mk))

theorem keeps_completeReset {org s : State} (level : Nat) (inst : Nat) (hk : Keeps org s) : Keeps org (State.completeReset s level inst)
    := by
  unfold State.completeReset
  repeat' (with_reducible first
      | assumption | exact keeps_refl _ | (intro _ _) | (intro _) | dsimp only | apply keeps_remapPartition | apply keeps_redecode
      | apply keeps_kickChannels | (refine keeps_foldl ?_ ?_) | (refine keeps_foldl_fst ?_ ?_) | split | (apply keeps_mk))

theorem keeps_faultCommands {org s : State} (cut : Nat → Bool) (hk : Keeps org s) : Keeps org (State.faultCommands s cut) := by
  unfold State.faultCommands
  repeat' (with_reducible first
      | assumption | exact keeps_refl _ | (intro _ _) | (intro _) | dsimp only | apply keeps_endCommand | apply keeps_modEntry
      | apply keeps_ran | (refine keeps_foldl ?_ ?_) | (refine keeps_foldl_fst ?_ ?_) | (apply keeps_mk))

theorem keeps_retireGroup {org s : State} (shoal : Bool) (inst : Nat) (group : Nat) (hk : Keeps org s) : Keeps org (State.retireGroup s
    shoal inst group) := by
  unfold State.retireGroup
  repeat' (with_reducible first
      | assumption | exact keeps_refl _ | (intro _ _) | (intro _) | dsimp only | apply keeps_raise | apply keeps_faultCommands
      | apply keeps_wantPartitionReset | split | (refine keeps_fst (by assumption) ?_) | (refine keeps_snd (by assumption) ?_)
      | (apply keeps_mk))

theorem keeps_dueResets {org s : State}  (hk : Keeps org s) : Keeps org (State.dueResets s) := by
  unfold State.dueResets
  repeat' (with_reducible first
      | assumption | exact keeps_refl _ | (intro _ _) | (intro _) | dsimp only | apply keeps_beginReset | (refine keeps_foldl ?_ ?_)
      | (refine keeps_foldl_fst ?_ ?_) | split | (refine keeps_fst (by assumption) ?_) | (refine keeps_snd (by assumption) ?_))

/-! ### Stage -/

theorem keeps_stageReport {org s : State} (stage : Nat) (status : Nat) (unit : Nat) (inst : Nat) (detail : List Byte) (hk : Keeps org s) :
    Keeps org (State.stageReport s stage status unit inst detail) := by
  unfold State.stageReport
  repeat' (with_reducible first
      | assumption | exact keeps_refl _ | dsimp only | apply keeps_fresh | apply keeps_addLog | split
      | (refine keeps_fst (by assumption) ?_) | (refine keeps_snd (by assumption) ?_) | (apply keeps_mk))

theorem keeps_finishStage7 {org s : State}  (hk : Keeps org s) : Keeps org (State.finishStage7 s) := by
  unfold State.finishStage7
  repeat' (with_reducible first
      | assumption | exact keeps_refl _ | dsimp only | apply keeps_fresh | apply keeps_stageReport | split
      | (refine keeps_fst (by assumption) ?_) | (refine keeps_snd (by assumption) ?_) | (apply keeps_mk))

/-! ### Tide -/

theorem keeps_modTide {org s : State} (f : TideSt → TideSt) (hk : Keeps org s) : Keeps org (State.modTide s f) := by
  unfold State.modTide
  repeat' (with_reducible first
      | assumption | exact keeps_refl _ | dsimp only | (apply keeps_mk))

theorem keeps_thrashMark {org s : State}  (hk : Keeps org s) : Keeps org (State.thrashMark s) := by
  unfold State.thrashMark
  repeat' (with_reducible first
      | assumption | exact keeps_refl _ | (intro _ _) | (intro _) | dsimp only | split | (apply keeps_mk))

theorem keeps_fireMarks {org s : State} (m : Nat) (hk : Keeps org s) : Keeps org (State.fireMarks s m) := by
  unfold State.fireMarks
  repeat' (with_reducible first
      | assumption | exact keeps_refl _ | (intro _ _) | (intro _) | dsimp only | apply keeps_fireWaiting | (refine keeps_foldl ?_ ?_)
      | (refine keeps_foldl_fst ?_ ?_))

theorem keeps_markRest {org s : State}  (hk : Keeps org s) : Keeps org (State.markRest s) := by
  unfold State.markRest
  repeat' (with_reducible first
      | assumption | exact keeps_refl _ | (intro _ _) | (intro _) | dsimp only | apply keeps_modTide | apply keeps_dvfsMark
      | apply keeps_noteThrottle | apply keeps_openWindows | apply keeps_fireMarks | apply keeps_thrashMark | apply keeps_mirrorFlip
      | apply keeps_dueResets | apply keeps_slackMark | (apply keeps_mk))

theorem keeps_settleStage7 {org s : State}  (hk : Keeps org s) : Keeps org (State.settleStage7 s) := by
  unfold State.settleStage7
  repeat' (with_reducible first
      | assumption | exact keeps_refl _ | dsimp only | apply keeps_finishStage7 | split)

theorem keeps_tideMeasure {org s : State} (pps : Bool) (o : Int) (hk : Keeps org s) : Keeps org (State.tideMeasure s pps o) := by
  unfold State.tideMeasure
  repeat' (with_reducible first
      | assumption | exact keeps_refl _ | (intro _ _) | (intro _) | dsimp only | apply keeps_modTide | apply keeps_settleStage7)

theorem keeps_syncOffset {org s : State} (delta : Int) (hk : Keeps org s) : Keeps org (State.syncOffset s delta) := by
  unfold State.syncOffset
  repeat' (with_reducible first
      | assumption | exact keeps_refl _ | (intro _ _) | (intro _) | dsimp only | apply keeps_modTide | apply keeps_tideMeasure | split
      | (apply keeps_mk))

theorem keeps_delayReq {org s : State} (seqId : Nat) (hk : Keeps org s) : Keeps org (State.delayReq s seqId) := by
  unfold State.delayReq
  repeat' (with_reducible first
      | assumption | exact keeps_refl _ | (intro _ _) | (intro _) | dsimp only | apply keeps_modTide | apply keeps_send | (apply keeps_mk))

/-! ### Commit -/

theorem keeps_mapRows {org s : State} (f : NormRow → NormRow) (hk : Keeps org s) : Keeps org (State.mapRows s f) := by
  unfold State.mapRows
  repeat' (with_reducible first
      | assumption | exact keeps_refl _ | (intro _ _) | (intro _) | dsimp only | (apply keeps_mk))

theorem keeps_replicaSend {org s : State} (dest : Nat) (kind : Nat) (data : List Byte) (hk : Keeps org s) : Keeps org (State.replicaSend s
    dest kind data) := by
  unfold State.replicaSend
  repeat' (with_reducible first
      | assumption | exact keeps_refl _ | dsimp only | apply keeps_sendFlits | apply keeps_sendRoce | apply keeps_qpRequest | split
      | (refine keeps_fst (by assumption) ?_) | (refine keeps_snd (by assumption) ?_) | (apply keeps_mk))

theorem keeps_sendFp {org s : State} (dest : Nat) (rows : List (Nat × W64)) (hk : Keeps org s) : Keeps org (State.sendFp s dest rows) := by
  unfold State.sendFp
  repeat' (with_reducible first
      | assumption | exact keeps_refl _ | (intro _ _) | (intro _) | dsimp only | apply keeps_replicaSend)

theorem keeps_sendBisect {org s : State} (dest : Nat) (row : Nat) (first : Nat) (len : Nat) (body : List Byte) (hk : Keeps org s) : Keeps
    org (State.sendBisect s dest row first len body) := by
  unfold State.sendBisect
  repeat' (with_reducible first
      | assumption | exact keeps_refl _ | dsimp only | apply keeps_replicaSend)

theorem keeps_divergence {org s : State} (row : Nat) (m : Nat) (action : Nat) (hk : Keeps org s) : Keeps org (State.divergence s row m
    action) := by
  unfold State.divergence
  repeat' (with_reducible first
      | assumption | exact keeps_refl _ | dsimp only | apply keeps_raise)

theorem keeps_unresolved {org s : State} (row : Nat) (m : Nat) (hk : Keeps org s) : Keeps org (State.unresolved s row m) := by
  unfold State.unresolved
  repeat' (with_reducible first
      | assumption | exact keeps_refl _ | (intro _ _) | (intro _) | dsimp only | apply keeps_modEst | apply keeps_divergence
      | (apply keeps_mk))

theorem keeps_modGroup {org s : State} (f : GroupSt → GroupSt) (hk : Keeps org s) : Keeps org (State.modGroup s f) := by
  unfold State.modGroup
  repeat' (with_reducible first
      | assumption | exact keeps_refl _ | dsimp only | (apply keeps_mk))

theorem keeps_beginCompare {org s : State} (flipped : List (Nat × NormRow)) (hk : Keeps org s) : Keeps org (State.beginCompare s flipped)
    := by
  unfold State.beginCompare
  repeat' (with_reducible first
      | assumption | exact keeps_refl _ | (intro _ _) | (intro _) | dsimp only | apply keeps_modGroup | apply keeps_sendFp | split
      | (refine keeps_fst (by assumption) ?_) | (refine keeps_snd (by assumption) ?_) | (apply keeps_mk))

theorem keeps_expireCompare {org s : State}  (hk : Keeps org s) : Keeps org (State.expireCompare s) := by
  unfold State.expireCompare
  repeat' (with_reducible first
      | assumption | exact keeps_refl _ | (intro _ _) | (intro _) | dsimp only | apply keeps_unresolved | apply keeps_modGroup
      | (refine keeps_foldl ?_ ?_) | (refine keeps_foldl_fst ?_ ?_) | (apply keeps_mk))

theorem keeps_endCompare {org s : State}  (hk : Keeps org s) : Keeps org (State.endCompare s) := by
  unfold State.endCompare
  repeat' (with_reducible first
      | assumption | exact keeps_refl _ | (intro _ _) | (intro _) | dsimp only | apply keeps_modGroup | apply keeps_expireCompare
      | (apply keeps_mk))

theorem keeps_commitStepAct {org s : State} (localOnly : Bool) (hk : Keeps org s) : Keeps org (State.commitStepAct s localOnly).1 := by
  unfold State.commitStepAct
  repeat' (with_reducible first
      | assumption | exact keeps_refl _ | (intro _ _) | (intro _) | dsimp only | apply keeps_modRow | apply keeps_mapRows
      | apply keeps_endCompare | apply keeps_beginCompare | (refine keeps_foldl ?_ ?_) | (refine keeps_foldl_fst ?_ ?_) | split
      | (apply keeps_mk))

theorem keeps_commitOther {org s : State} (mode : Nat) (step : W64) (f : State → State) (hf : ∀  q, Keeps q (f  q)) (hk : Keeps org s) :
    Keeps org (State.commitOther s mode step f).1 := by
  unfold State.commitOther
  repeat' (with_reducible first
      | assumption | exact keeps_refl _ | (intro _ _) | (intro _) | dsimp only | (refine keeps_trans ?_ (hf _ ))
      | apply keeps_endCompare | (apply keeps_mk))

theorem keeps_setStateAct {org s : State} (c : Cmd) (hk : Keeps org s) : Keeps org (State.setStateAct s c).1 := by
  unfold State.setStateAct
  repeat' (with_reducible first
      | assumption | exact keeps_refl _ | (intro _ _) | (intro _) | dsimp only | apply keeps_commitOther | (apply keeps_mk))

theorem keeps_restoreEstAct {org s : State}  (hk : Keeps org s) : Keeps org (State.restoreEstAct s).1 := by
  unfold State.restoreEstAct
  repeat' (with_reducible first
      | assumption | exact keeps_refl _ | (intro _ _) | (intro _) | dsimp only | apply keeps_commitOther | apply keeps_mapRows)

theorem keeps_commitActed {org s : State} (old : State) (q : Nat) (seq : Nat) (code : Nat) (report : List Byte) (hk : Keeps org s) : Keeps
    org (State.commitActed s old q seq code report) := by
  unfold State.commitActed
  repeat' (with_reducible first
      | assumption | exact keeps_refl _ | (intro _ _) | (intro _) | dsimp only | apply keeps_mirrorFlags | apply keeps_ran
      | apply keeps_modEntry | apply keeps_markRest | (apply keeps_mk))

/-! ### Finger -/

theorem keeps_TDesc_writeBlock {org s : State} (t : TDesc) (j : Nat) (data : List Byte) (hk : Keeps org s) : Keeps org (TDesc.writeBlock t
    s j data) := by
  unfold TDesc.writeBlock
  repeat' (with_reducible first
      | assumption | exact keeps_refl _ | (intro _ _) | dsimp only | apply keeps_poke | (refine keeps_foldl ?_ ?_)
      | (refine keeps_foldl_fst ?_ ?_) | split | (refine keeps_fst (by assumption) ?_) | (refine keeps_snd (by assumption) ?_))

theorem keeps_modCmp {org s : State} (row : Nat) (f : CmpRow → CmpRow) (hk : Keeps org s) : Keeps org (State.modCmp s row f) := by
  unfold State.modCmp
  repeat' (with_reducible first
      | assumption | exact keeps_refl _ | (intro _ _) | (intro _) | dsimp only | apply keeps_modGroup | split | (apply keeps_mk))

theorem keeps_dropCmp {org s : State} (row : Nat) (hk : Keeps org s) : Keeps org (State.dropCmp s row) := by
  unfold State.dropCmp
  repeat' (with_reducible first
      | assumption | exact keeps_refl _ | (intro _ _) | (intro _) | dsimp only | apply keeps_modGroup | (apply keeps_mk))

theorem keeps_startRepair {org s : State} (row : Nat) (source : Nat) (hk : Keeps org s) : Keeps org (State.startRepair s row source) := by
  unfold State.startRepair
  repeat' (with_reducible first
      | assumption | exact keeps_refl _ | (intro _ _) | (intro _) | dsimp only | apply keeps_modGroup | apply keeps_sendBisect | split
      | (apply keeps_mk))

theorem keeps_settlePair {org s : State} (me : Nat) (x : CmpRow) (hk : Keeps org s) : Keeps org (State.settlePair s me x) := by
  unfold State.settlePair
  repeat' (with_reducible first
      | assumption | exact keeps_refl _ | dsimp only | apply keeps_dropCmp | apply keeps_divergence | apply keeps_startRepair
      | apply keeps_unresolved | split | (refine keeps_fst (by assumption) ?_) | (refine keeps_snd (by assumption) ?_)
      | (apply keeps_mk))

theorem keeps_mirrorKnown {org s : State} (me : Nat) (x : CmpRow) (fp : W64) (hk : Keeps org s) : Keeps org (State.mirrorKnown s me x fp)
    := by
  unfold State.mirrorKnown
  repeat' (with_reducible first
      | assumption | exact keeps_refl _ | (intro _ _) | (intro _) | dsimp only | apply keeps_modCmp | apply keeps_sendFp
      | apply keeps_settlePair | split | (refine keeps_fst (by assumption) ?_) | (refine keeps_snd (by assumption) ?_)
      | (apply keeps_mk))

theorem keeps_mismatch {org s : State} (me : Nat) (mem : List Nat) (x : CmpRow) (hk : Keeps org s) : Keeps org (State.mismatch s me mem x)
    := by
  unfold State.mismatch
  repeat' (with_reducible first
      | assumption | exact keeps_refl _ | dsimp only | apply keeps_sendBisect | apply keeps_mirrorKnown | split)

theorem keeps_compareRow {org s : State} (me : Nat) (mem : List Nat) (src : Nat) (r : Nat × W64) (hk : Keeps org s) : Keeps org
    (State.compareRow s me mem src r) := by
  unfold State.compareRow
  repeat' (with_reducible first
      | assumption | exact keeps_refl _ | (intro _ _) | (intro _) | dsimp only | apply keeps_modCmp | apply keeps_settlePair
      | apply keeps_modEst | apply keeps_dropCmp | apply keeps_mismatch | split | (refine keeps_fst (by assumption) ?_)
      | (refine keeps_snd (by assumption) ?_) | (apply keeps_mk))

theorem keeps_answerRow {org s : State} (me : Nat) (mem : List Nat) (src : Nat) (r : Nat × W64) (hk : Keeps org s) : Keeps org
    (State.answerRow s me mem src r) := by
  unfold State.answerRow
  repeat' (with_reducible first
      | assumption | exact keeps_refl _ | (intro _ _) | (intro _) | dsimp only | apply keeps_dropCmp | apply keeps_divergence
      | apply keeps_sendFp | apply keeps_startRepair | apply keeps_unresolved | split | (refine keeps_fst (by assumption) ?_)
      | (refine keeps_snd (by assumption) ?_) | (apply keeps_mk))

theorem keeps_mirrorRow {org s : State} (me : Nat) (r : Nat × W64) (hk : Keeps org s) : Keeps org (State.mirrorRow s me r) := by
  unfold State.mirrorRow
  repeat' (with_reducible first
      | assumption | exact keeps_refl _ | (intro _ _) | (intro _) | dsimp only | apply keeps_mirrorKnown | split
      | (refine keeps_fst (by assumption) ?_) | (refine keeps_snd (by assumption) ?_) | (apply keeps_mk))

theorem keeps_modRepair {org s : State} (row : Nat) (f : Repair → Repair) (hk : Keeps org s) : Keeps org (State.modRepair s row f) := by
  unfold State.modRepair
  repeat' (with_reducible first
      | assumption | exact keeps_refl _ | (intro _ _) | (intro _) | dsimp only | apply keeps_modGroup | split | (apply keeps_mk))

theorem keeps_askBlock {org s : State} (r : Repair) (b : Nat) (hk : Keeps org s) : Keeps org (State.askBlock s r b) := by
  unfold State.askBlock
  repeat' (with_reducible first
      | assumption | exact keeps_refl _ | (intro _ _) | (intro _) | dsimp only | apply keeps_modGroup | apply keeps_unresolved
      | apply keeps_modRepair | apply keeps_sendBisect | apply keeps_freshWord | apply keeps_sendRoce | apply keeps_qpRequest | split
      | (refine keeps_fst (by assumption) ?_) | (refine keeps_snd (by assumption) ?_) | (apply keeps_mk))

theorem keeps_bisectReply {org s : State} (r : Repair) (first : Nat) (len : Nat) (fps : List W64) (hk : Keeps org s) : Keeps org
    (State.bisectReply s r first len fps) := by
  unfold State.bisectReply
  repeat' (with_reducible first
      | assumption | exact keeps_refl _ | (intro _ _) | (intro _) | dsimp only | apply keeps_modRepair | apply keeps_askBlock
      | apply keeps_sendBisect | apply keeps_settle | (refine keeps_foldl ?_ ?_) | (refine keeps_foldl_fst ?_ ?_) | split
      | (apply keeps_mk))

theorem keeps_bisectAnswer {org s : State} (src : Nat) (row : Nat) (first : Nat) (len : Nat) (fps : List W64) (hk : Keeps org s) : Keeps
    org (State.bisectAnswer s src row first len fps) := by
  unfold State.bisectAnswer
  repeat' (with_reducible first
      | assumption | exact keeps_refl _ | dsimp only | apply keeps_sendFp | apply keeps_sendBisect | split)

/-! ### Estuary -/

theorem keeps_countRx {org s : State} (n : Nat) (hk : Keeps org s) : Keeps org (State.countRx s n) := by
  unfold State.countRx
  repeat' (with_reducible first
      | assumption | exact keeps_refl _ | (intro _ _) | (intro _) | dsimp only | apply keeps_fresh | apply keeps_modEst | split
      | (refine keeps_fst (by assumption) ?_) | (refine keeps_snd (by assumption) ?_) | (apply keeps_mk))

theorem keeps_qpError {org s : State} (qpn : Nat) (hk : Keeps org s) : Keeps org (State.qpError s qpn) := by
  unfold State.qpError
  repeat' (with_reducible first
      | assumption | exact keeps_refl _ | (intro _ _) | (intro _) | dsimp only | apply keeps_modQp | apply keeps_modEst
      | apply keeps_qpLost | (apply keeps_mk))

theorem keeps_takeRequest {org s : State} (qpn : Nat) (psn : Nat) (n : Nat) (pk : Nat) (dup : State → State) (f : State → State) (hdup : ∀
    q, Keeps q (dup  q)) (hf : ∀  q, Keeps q (f  q)) (hk : Keeps org s) : Keeps org (State.takeRequest s qpn psn n pk dup f) := by
  unfold State.takeRequest
  repeat' (with_reducible first
      | assumption | exact keeps_refl _ | (intro _ _) | (intro _) | dsimp only | (refine keeps_trans ?_ (hdup _ ))
      | (refine keeps_trans ?_ (hf _ )) | apply keeps_slackDrop | apply keeps_wakeTrigger | apply keeps_countRx | apply keeps_modQp
      | apply keeps_sendRoce | apply keeps_countTx | split | (apply keeps_mk))

theorem keeps_ackTo {org s : State} (qpn : Nat) (psn : Nat) (hk : Keeps org s) : Keeps org (State.ackTo s qpn psn) := by
  unfold State.ackTo
  repeat' (with_reducible first
      | assumption | exact keeps_refl _ | dsimp only | apply keeps_sendRoce | apply keeps_countTx)

theorem keeps_countOob {org s : State} (va : Nat) (len : Nat) (hk : Keeps org s) : Keeps org (State.countOob s va len) := by
  unfold State.countOob
  repeat' (with_reducible first
      | assumption | exact keeps_refl _ | (intro _ _) | (intro _) | dsimp only | apply keeps_modEst | split | (apply keeps_mk))

theorem keeps_postSlot {org s : State} (q : Nat) (i : Nat) (seq : Nat) (hk : Keeps org s) : Keeps org (State.postSlot s q i seq) := by
  unfold State.postSlot
  repeat' (with_reducible first
      | assumption | exact keeps_refl _ | dsimp only | split | (apply keeps_mk))

theorem keeps_ringArrive {org s : State} (s0 : State) (x : Nat × Nat × Nat) (hk : Keeps org s) : Keeps org (State.ringArrive s0 s x) := by
  unfold State.ringArrive
  repeat' (with_reducible first
      | assumption | exact keeps_refl _ | (intro _ _) | (intro _) | dsimp only | apply keeps_modEst | apply keeps_modQueue
      | apply keeps_postSlot | split | (refine keeps_fst (by assumption) ?_) | (refine keeps_snd (by assumption) ?_) | (apply keeps_mk))

theorem keeps_ringWrite {org s : State} (s0 : State) (va : Nat) (len : Nat) (hk : Keeps org s) : Keeps org (State.ringWrite s0 s va len)
    := by
  unfold State.ringWrite
  repeat' (with_reducible first
      | assumption | exact keeps_refl _ | (intro _ _) | (intro _) | dsimp only | apply keeps_modQueue | apply keeps_ringArrive
      | (refine keeps_foldl ?_ ?_) | (refine keeps_foldl_fst ?_ ?_) | (apply keeps_mk))

theorem keeps_refuseRequest {org s : State} (qpn : Nat) (psn : Nat) (hk : Keeps org s) : Keeps org (State.refuseRequest s qpn psn) := by
  unfold State.refuseRequest
  repeat' (with_reducible first
      | assumption | exact keeps_refl _ | dsimp only | apply keeps_sendRoce | apply keeps_countTx | apply keeps_qpError)

theorem keeps_readFree {org s : State} (a n : Nat) (hk : Keeps org s) : Keeps org (State.readFree s a n).2 := by
  unfold State.readFree
  dsimp only
  split
  · exact keeps_trans hk ⟨rfl, rfl, Nat.le_add_right _ _, ⟨[], by simp⟩, id, id⟩
  · exact hk

theorem keeps_resendFrom {org s : State} (qpn : Nat) (r : TxReq) (hk : Keeps org s) : Keeps org (State.resendFrom s qpn r) := by
  unfold State.resendFrom
  repeat' (with_reducible first
      | assumption | exact keeps_refl _ | (intro _ _) | (intro _) | dsimp only | apply keeps_qpError | apply keeps_modQp
      | apply keeps_sendRoce | apply keeps_modEst | apply keeps_countTx | split | (apply keeps_mk))

/-! ### Csr -/

/-- Whatever an optional state is, it keeps. -/
def OptKeeps (org : State) (o : Option State) : Prop := ∀ t, o = some t → Keeps org t

theorem optKeeps_none (org : State) : OptKeeps org none := fun _ e => nomatch e

theorem optKeeps_some {org t : State} (h : Keeps org t) : OptKeeps org (some t) := fun _ e => Option.some.inj e ▸ h

theorem optKeeps_ite {org : State} {c : Prop} [Decidable c] {a b : Option State} (ha : OptKeeps org a) (hb : OptKeeps org b) :
    OptKeeps org (if c then a else b) := by
  split
  · exact ha
  · exact hb

theorem keeps_cfgWrite {org s t : State} {a : Nat} {v : W64} (eq : State.cfgWrite s a v = some t) (hk : Keeps org s) : Keeps org t := by
  have hg : OptKeeps org (State.cfgWrite s a v) := by
    unfold State.cfgWrite
    repeat' (with_reducible first
      | exact optKeeps_none _
      | exact optKeeps_some (keeps_mk hk)
      | exact optKeeps_some (keeps_modMx _ _ hk)
      | exact optKeeps_some (keeps_modVec _ _ hk)
      | exact optKeeps_some (keeps_modSeq _ _ hk)
      | exact optKeeps_some (keeps_modTide _ hk)
      | exact optKeeps_some (keeps_modSpw _ hk)
      | exact optKeeps_some (keeps_modFrd _ hk)
      | exact optKeeps_some (keeps_modJui _ hk)
      | refine optKeeps_ite ?_ ?_
      | dsimp only
      | split)
  exact hg t eq

theorem keeps_applyConfig {org s : State} (entries : List (Nat × W64)) (inBlocks : Nat → Bool) (hk : Keeps org s) : Keeps org
    (State.applyConfig s entries inBlocks) := by
  unfold State.applyConfig
  repeat' (with_reducible first
      | assumption | exact keeps_refl _ | (intro _ _) | dsimp only | (refine keeps_cfgWrite (by assumption) ?_)
      | (refine keeps_foldl ?_ ?_) | (refine keeps_foldl_fst ?_ ?_) | split | (refine keeps_fst (by assumption) ?_)
      | (refine keeps_snd (by assumption) ?_) | (apply keeps_mk))

/-! ### Boot -/

theorem keeps_modBoot {org s : State} (f : BootSt → BootSt) (hk : Keeps org s) : Keeps org (State.modBoot s f) := by
  unfold State.modBoot
  repeat' (with_reducible first
      | assumption | exact keeps_refl _ | dsimp only | (apply keeps_mk))

theorem keeps_endStage {org s : State} (n : Nat) (c : Nat × Nat × Nat) (detail : List Byte) (hk : Keeps org s) : Keeps org (State.endStage
    s n c detail) := by
  unfold State.endStage
  repeat' (with_reducible first
      | assumption | exact keeps_refl _ | (intro _ _) | (intro _) | dsimp only | apply keeps_stageReport | apply keeps_modBoot
      | (apply keeps_mk))

theorem keeps_coreOff {org s : State} (hk : Keeps org s) : Keeps org (State.coreOff s) :=
  keeps_filtered hk rfl rfl rfl rfl ⟨_, rfl⟩ ⟨_, rfl⟩ rfl rfl

theorem keeps_flashOnly {org s : State} (hk : Keeps org s) : Keeps org (State.flashOnly s) := keeps_cleared hk rfl rfl rfl rfl rfl rfl rfl
    rfl

theorem keeps_flushLog {org s : State}  (hk : Keeps org s) : Keeps org (State.flushLog s) := by
  unfold State.flushLog
  repeat' (with_reducible first
      | assumption | exact keeps_refl _ | dsimp only | (apply keeps_mk))

theorem keeps_beginCold {org s : State}  (hk : Keeps org s) : Keeps org (State.beginCold s) := by
  unfold State.beginCold
  repeat' (with_reducible first
      | assumption | exact keeps_refl _ | dsimp only | apply keeps_flashOnly | (apply keeps_mk))

theorem keeps_coldReset {org s : State}  (hk : Keeps org s) : Keeps org (State.coldReset s) := by
  unfold State.coldReset
  repeat' (with_reducible first
      | assumption | exact keeps_refl _ | dsimp only | apply keeps_ledgerFinal | apply keeps_flushLog | apply keeps_beginCold)

theorem keeps_failStage {org s : State} (n : Nat) (unit : Nat) (inst : Nat) (detail : List Byte) (hk : Keeps org s) : Keeps org
    (State.failStage s n unit inst detail) := by
  unfold State.failStage
  repeat' (with_reducible first
      | assumption | exact keeps_refl _ | (intro _ _) | (intro _) | dsimp only | apply keeps_stageReport | apply keeps_coreOff
      | apply keeps_modBoot | apply keeps_coldReset | (refine keeps_foldl ?_ ?_) | (refine keeps_foldl_fst ?_ ?_) | split
      | (apply keeps_mk))

theorem keeps_applyManifest {org s : State}  (hk : Keeps org s) : Keeps org (State.applyManifest s) := by
  unfold State.applyManifest
  repeat' (with_reducible first
      | assumption | exact keeps_refl _ | dsimp only | split | (refine keeps_fst (by assumption) ?_)
      | (refine keeps_snd (by assumption) ?_) | (apply keeps_mk))

theorem keeps_buildMap {org s : State} (pass : Nat → Nat) (link : Nat → Bool) (oxbowed : Nat → Bool) (hk : Keeps org s) : Keeps org
    (State.buildMap s pass link oxbowed) := by
  unfold State.buildMap
  repeat' (with_reducible first
      | assumption | exact keeps_refl _ | (intro _ _) | (intro _) | dsimp only | (refine keeps_foldl ?_ ?_)
      | (refine keeps_foldl_fst ?_ ?_) | split | (apply keeps_mk))

theorem keeps_endStage4 {org s : State}  (hk : Keeps org s) : Keeps org (State.endStage4 s) := by
  unfold State.endStage4
  repeat' (with_reducible first
      | assumption | exact keeps_refl _ | (intro _ _) | (intro _) | dsimp only | apply keeps_failStage | apply keeps_endStage | split)

theorem keeps_loadCores {org s : State} (cores : List Nat) (resends : Nat) (late : List (Nat × Nat)) (hk : Keeps org s) : Keeps org
    (State.loadCores s cores resends late) := by
  unfold State.loadCores
  repeat' (with_reducible first
      | assumption | exact keeps_refl _ | (intro _ _) | (intro _) | dsimp only | apply keeps_modBoot | (refine keeps_foldl ?_ ?_)
      | (refine keeps_foldl_fst ?_ ?_) | split | (apply keeps_mk))

theorem keeps_reloadRuntime {org s : State} (resends : Nat) (late : List (Nat × Nat)) (hk : Keeps org s) : Keeps org (State.reloadRuntime
    s resends late) := by
  unfold State.reloadRuntime
  repeat' (with_reducible first
      | assumption | exact keeps_refl _ | (intro _ _) | (intro _) | dsimp only | apply keeps_loadCores | apply keeps_coreFailed
      | (refine keeps_foldl ?_ ?_) | (refine keeps_foldl_fst ?_ ?_))

theorem keeps_settleFlash {org s : State}  (hk : Keeps org s) : Keeps org (State.settleFlash s) := by
  unfold State.settleFlash
  repeat' (with_reducible first
      | assumption | exact keeps_refl _ | (intro _ _) | (intro _) | dsimp only | apply keeps_modBoot | apply keeps_addLog | split
      | (refine keeps_fst (by assumption) ?_) | (refine keeps_snd (by assumption) ?_) | (apply keeps_mk))

theorem keeps_warmStart {org s : State} (hk : Keeps org s) : Keeps org (State.warmStart s) := keeps_cleared hk rfl rfl rfl rfl rfl rfl rfl
    rfl

theorem keeps_warmReset {org s : State}  (hk : Keeps org s) : Keeps org (State.warmReset s) := by
  unfold State.warmReset
  repeat' (with_reducible first
      | assumption | exact keeps_refl _ | dsimp only | apply keeps_ledgerFinal | apply keeps_warmStart | apply keeps_ledgerStart
      | apply keeps_refuseReset | split)

/-! ### Stop -/

theorem keeps_controlFault {org s : State} (kind : Nat) (unit : Nat) (inst : Nat) (addr : Nat) (hk : Keeps org s) : Keeps org
    (State.controlFault s kind unit inst addr) := by
  unfold State.controlFault
  repeat' (with_reducible first
      | assumption | exact keeps_refl _ | (intro _ _) | (intro _) | dsimp only | apply keeps_raise | apply keeps_beginReset
      | apply keeps_warmReset | split | (refine keeps_fst (by assumption) ?_) | (refine keeps_snd (by assumption) ?_)
      | (apply keeps_mk))

theorem keeps_railsOff {org s : State} (hk : Keeps org s) : Keeps org (State.railsOff s) := keeps_cleared hk rfl rfl rfl rfl rfl rfl rfl rfl

theorem keeps_stopSequence {org s0 : State} (cause : Nat) (hk : Keeps org s0) : Keeps org (State.stopSequence s0 cause) := by
  unfold State.stopSequence
  repeat' (with_reducible first
      | assumption | exact keeps_refl _ | (intro _ _) | (intro _) | dsimp only | apply keeps_beginReset | apply keeps_sendFlit
      | apply keeps_modFrd | apply keeps_coreOff | apply keeps_modSpw | (refine keeps_foldl ?_ ?_) | (refine keeps_foldl_fst ?_ ?_)
      | (apply keeps_mk))

theorem keeps_holdEnd {org s : State}  (hk : Keeps org s) : Keeps org (State.holdEnd s) := by
  unfold State.holdEnd
  repeat' (with_reducible first
      | assumption | exact keeps_refl _ | (intro _ _) | (intro _) | dsimp only | apply keeps_ledgerFinal | apply keeps_railsOff
      | apply keeps_modSpw | (apply keeps_mk))

theorem keeps_coolantStop {org s : State}  (hk : Keeps org s) : Keeps org (State.coolantStop s) := by
  unfold State.coolantStop
  repeat' (with_reducible first
      | assumption | exact keeps_refl _ | (intro _ _) | (intro _) | dsimp only | apply keeps_raise | apply keeps_stopSequence
      | apply keeps_modSpw | (apply keeps_mk))

theorem keeps_flowLost {org s : State}  (hk : Keeps org s) : Keeps org (State.flowLost s) := by
  unfold State.flowLost
  repeat' (with_reducible first
      | assumption | exact keeps_refl _ | dsimp only | apply keeps_coolantStop | apply keeps_failStage | split
      | (refine keeps_fst (by assumption) ?_) | (refine keeps_snd (by assumption) ?_) | (apply keeps_mk))

/-! ### Hotplug -/

theorem keeps_modPins {org s : State} (f : PinSt → PinSt) (hk : Keeps org s) : Keeps org (State.modPins s f) := by
  unfold State.modPins
  repeat' (with_reducible first
      | assumption | exact keeps_refl _ | dsimp only | (apply keeps_mk))

theorem keeps_powerOn {org s : State}  (hk : Keeps org s) : Keeps org (State.powerOn s) := by
  unfold State.powerOn
  repeat' (with_reducible first
      | assumption | exact keeps_refl _ | dsimp only | apply keeps_beginCold | split | (apply keeps_mk))

theorem keeps_powerLoss {org s : State}  (hk : Keeps org s) : Keeps org (State.powerLoss s) := by
  unfold State.powerLoss
  repeat' (with_reducible first
      | assumption | exact keeps_refl _ | (intro _ _) | (intro _) | dsimp only | apply keeps_ledgerFinal | apply keeps_flashOnly
      | apply keeps_modPins | split | (apply keeps_mk))

theorem keeps_failSession {org s : State}  (hk : Keeps org s) : Keeps org (State.failSession s) := by
  unfold State.failSession
  repeat' (with_reducible first
      | assumption | exact keeps_refl _ | dsimp only | split | (refine keeps_fst (by assumption) ?_)
      | (refine keeps_snd (by assumption) ?_) | (apply keeps_mk))

theorem keeps_remove {org s : State}  (hk : Keeps org s) : Keeps org (State.remove s) := by
  unfold State.remove
  repeat' (with_reducible first
      | assumption | exact keeps_refl _ | (intro _ _) | (intro _) | dsimp only | apply keeps_sendFlit | apply keeps_sendRoce
      | apply keeps_failSession | apply keeps_ledgerFinal | apply keeps_flushLog | apply keeps_railsOff | apply keeps_modPins
      | (refine keeps_foldl ?_ ?_) | (refine keeps_foldl_fst ?_ ?_) | split | (apply keeps_mk))

/-! ### Gauge -/

theorem keeps_modGau {org s : State} (f : GauSt → GauSt) (hk : Keeps org s) : Keeps org (State.modGau s f) := by
  unfold State.modGau
  repeat' (with_reducible first
      | assumption | exact keeps_refl _ | dsimp only | (apply keeps_mk))

theorem keeps_answer {org s : State} (code : Nat) (payload : List Byte) (hk : Keeps org s) : Keeps org (State.answer s code payload) := by
  unfold State.answer
  repeat' (with_reducible first
      | assumption | exact keeps_refl _ | dsimp only | apply keeps_send)

theorem keeps_refuse {org s : State} (code : Nat) (hk : Keeps org s) : Keeps org (State.refuse s code) := by
  unfold State.refuse
  repeat' (with_reducible first
      | assumption | exact keeps_refl _ | (intro _ _) | (intro _) | dsimp only | apply keeps_modGau | apply keeps_gaugeEvent
      | apply keeps_send | (apply keeps_mk))

theorem keeps_openBank {org s : State}  (hk : Keeps org s) : Keeps org (State.openBank s) := by
  unfold State.openBank
  repeat' (with_reducible first
      | assumption | exact keeps_refl _ | (intro _ _) | (intro _) | dsimp only | apply keeps_modBoot | apply keeps_modGau | split
      | (apply keeps_mk))

theorem keeps_modSession {org s : State} (f : Session → Session) (hk : Keeps org s) : Keeps org (State.modSession s f) := by
  unfold State.modSession
  repeat' (with_reducible first
      | assumption | exact keeps_refl _ | (intro _ _) | (intro _) | dsimp only | apply keeps_modGau | (apply keeps_mk))

theorem keeps_inSession {org s : State} (code : Nat) (stages : List Nat) (f : State → State) (hf : ∀  q, Keeps q (f  q)) (hk : Keeps org
    s) : Keeps org (State.inSession s code stages f) := by
  unfold State.inSession
  repeat' (with_reducible first
      | assumption | exact keeps_refl _ | dsimp only | (refine keeps_trans ?_ (hf _ )) | apply keeps_answer | apply keeps_refuse | split)

theorem keeps_busy {org s : State} (code : Nat) (hk : Keeps org s) : Keeps org (State.busy s code) := by
  unfold State.busy
  repeat' (with_reducible first
      | assumption | exact keeps_refl _ | dsimp only | apply keeps_answer)

theorem keeps_componentStep {org s : State} (code : Nat) (from_ : Nat) (to_ : Nat) (result : Nat) (hk : Keeps org s) : Keeps org
    (State.componentStep s code from_ to_ result) := by
  unfold State.componentStep
  repeat' (with_reducible first
      | assumption | exact keeps_refl _ | (intro _ _) | (intro _) | dsimp only | apply keeps_inSession | apply keeps_modSession
      | apply keeps_failSession | split | (apply keeps_mk))

theorem keeps_openDebug {org s : State} (scopes : Nat) (hk : Keeps org s) : Keeps org (State.openDebug s scopes) := by
  unfold State.openDebug
  repeat' (with_reducible first
      | assumption | exact keeps_refl _ | (intro _ _) | (intro _) | dsimp only | apply keeps_ledgerFinal | apply keeps_modGau
      | apply keeps_warmReset | apply keeps_gaugeEvent | (apply keeps_mk))

end Sys2Proof.Laws
end

