-- ==== Sys2Proof/WellFormed.lean ====
section
/-! DEFINITION. Well-formed commands: each operand lies in the range its field has. A sender sends no others; the meanings are total and
do not need this. -/

namespace Sys2Proof

/-- Is the number a queue pair number: 0x000100 to 0x0010FF (R302). -/
def okQpn (n : Nat) : Bool := decide (0x100 ≤ n) && decide (n < 0x1100)

/-- Is the number a packet sequence number, 24 bits. -/
def okPsn (n : Nat) : Bool := decide (n < 2 ^ 24)

/-- Is the number a 16-bit field. -/
def ok16 (n : Nat) : Bool := decide (n < 2 ^ 16)

/-- Is the number a 32-bit field. -/
def ok32 (n : Nat) : Bool := decide (n < 2 ^ 32)

/-- Is the number a 64-bit field. -/
def ok64 (n : Nat) : Bool := decide (n < 2 ^ 64)

/-- Is the number a device physical address, 48 bits (R10). -/
def okAddr (n : Nat) : Bool := decide (n < 2 ^ 48)

/-- Is the number a command queue (R33). -/
def okQueue (n : Nat) : Bool := decide (n < 256)

/-- Is the number a vector register (R167). -/
def okReg (n : Nat) : Bool := decide (n < 32)

/-- Is the number a line number, 41 bits (R222). -/
def okLine (n : Nat) : Bool := decide (n < 2 ^ 41)

/-- Is the number a line count of a range operation (R231). -/
def okCount (n : Nat) : Bool := decide (1 ≤ n) && decide (n ≤ 2 ^ 20)

/-- Is the number a DMA channel (R244). -/
def okChan (n : Nat) : Bool := decide (n < 8)

/-- Is the number a row of the norm table (R269). -/
def okRow (n : Nat) : Bool := decide (n < 4096)

/-- Is the number a partition (R9). -/
def okPart (n : Nat) : Bool := decide (n < 4)

/-- Is the number a logical cluster (R9). -/
def okCluster (n : Nat) : Bool := decide (n < 128)

/-- Is the number an 8-bit code. -/
def okByte (n : Nat) : Bool := decide (n < 256)

/-- Is the number a bring-up stage (R408). -/
def okStage (n : Nat) : Bool := decide (n ≤ 8)

/-- Is the number a junction point (R439). -/
def okPoint (n : Nat) : Bool := decide (n < 96)

/-- Is the number a PLDM type, 6 bits. -/
def okType (n : Nat) : Bool := decide (n < 64)

/-- Is the number a PTP domain, 7 bits. -/
def okDomain (n : Nat) : Bool := decide (n < 128)

/-- Do the fields of a flit's header fit their places (R340). -/
def okHdr (h : FlitHdr) : Bool :=
  decide (h.vc < 256) && decide (h.seq < 2 ^ 16) && decide (h.ack < 2 ^ 16) && decide (h.creditVc < 256) && decide (h.creditN < 256)

/-- Is the number a rank (R317). -/
def okRank (n : Nat) : Bool := decide (n < 257)

/-- Is the number a logical core (R9). -/
def okCore (n : Nat) : Bool := decide (n < 2048)

/-- Is the number a physical core (R17). -/
def okPhys (n : Nat) : Bool := decide (n < 2304)

/-- Is the number an accumulation group slot (R124). -/
def okSlot (n : Nat) : Bool := decide (n < 4)

/-- Is the number a chunk count (R422). -/
def okChunks (n : Nat) : Bool := decide (n ≤ 2)

/-- Is the number a chunk index (R422). -/
def okChunk (n : Nat) : Bool := decide (n < 2)

/-- Is the number a 7-bit bus address. -/
def okI2c (n : Nat) : Bool := decide (n < 128)

/-- Is the number a reset level below whole-device (R430). -/
def okLevel (n : Nat) : Bool := decide (n ≤ 3)

/-- Is the number a reset level of the sideband (R430). -/
def okSbLevel (n : Nat) : Bool := decide (n ≤ 5)

/-- Is the number a storage level of R219. -/
def okStore (n : Nat) : Bool := decide (n ≤ 6)

/-- Is the number a lane group (R16). -/
def okLaneGroup (n : Nat) : Bool := decide (n < 8)

/-- Is the number a lane of a group with its spares (R16). -/
def okLane (n : Nat) : Bool := decide (n < 68)

/-- Is the number an offset in a slab (R25). -/
def okSlab (n : Nat) : Bool := decide (n < 0x180000)

/-- Is the number a length within a line (R217). -/
def okBurst (n : Nat) : Bool := decide (n ≤ 128)

/-- Is the number a path MTU (R302). -/
def okMtu (n : Nat) : Bool := [256, 512, 1024, 2048, 4096].contains n

/-- Is the list 32 bytes. -/
def okDigest (l : List Byte) : Bool := decide (l.length = 32)

/-- Is the list a token (R453). -/
def okToken (l : List Byte) : Bool := decide (l.length = 128)

/-- Is the list a payload of at most a port frame (R298). -/
def okPiece (l : List Byte) : Bool := decide (l.length ≤ 9216)

/-- Does the list fit a message, whose length field has 32 bits (R302, R323). -/
def okMessage (l : List Byte) : Bool := decide (l.length < 2 ^ 32)

/-- Is the list a payload of at most one path MTU (R302). -/
def okFrame (l : List Byte) : Bool := decide (l.length ≤ 4096)

/-- Is the list the payload of a flit (R340). -/
def okFlit (l : List Byte) : Bool := decide (l.length ≤ 240)

/-- Is the list bytes within a line. -/
def okLineData (l : List Byte) : Bool := decide (l.length ≤ 128)

/-- Is the list lanes of a port (R298). -/
def okLanes (l : List Nat) : Bool := l.all (· < 8)

/-- Are the rows distinct lane groups with no more dead lanes than they hold (R15, R16). -/
def okLaneGroups (l : List LaneTraining) : Bool :=
  l.all (fun g => decide (g.inst < if g.shoal then 2304 else 128) && decide (g.group < if g.shoal then 8 else 4) && decide (g.dead ≤ 64) && decide (g.deadSpares ≤ 4)) &&
    decide ((l.map (fun g => (g.shoal, g.inst, g.group))).Nodup)

/-- Is the list physical cores (R17). -/
def okCores (l : List Nat) : Bool := l.all (· < 2304)

/-- Is the list near-tier channel keys (R238). -/
def okNear (l : List Nat) : Bool := l.all (· < 256)

/-- Is the list deep-tier channel keys (R238). -/
def okDeep (l : List Nat) : Bool := l.all (· < 96)

/-- Is the list ranks (R317). -/
def okRanks (l : List Nat) : Bool := l.all (· < 256)

/-- Is the list junction readings (R439). -/
def okJunction (l : List Int) : Bool := decide (l.length ≤ 96)

/-- Is the list memory readings (R439). -/
def okMemory (l : List Int) : Bool := decide (l.length ≤ 32)

/-- Is the list rail readings (R440). -/
def okRails (l : List (Nat × Nat)) : Bool := decide (l.length ≤ 9)

/-- Is the requester one of those of R226. -/
def okReq : Requester → Bool
  | .core c => okCore c
  | .dma c => okCore c
  | .runAhead q => okQueue q
  | .updateEngine p => okPart p
  | .estuary | .ford | .codec | .delta | .gauge => true

/-- Well-formedness, command by command. -/
def Instr.wf : Instr → Bool
  | .rdmaWrite pkey qpn rkey psn va data => ok16 pkey && okQpn qpn && ok32 rkey && okPsn psn && ok64 va && okMessage data
  | .rdmaRead pkey qpn rkey psn va len => ok16 pkey && okQpn qpn && ok32 rkey && okPsn psn && ok64 va && ok32 len
  | .send pkey qpn psn data => ok16 pkey && okQpn qpn && okPsn psn && okMessage data
  | .unsupportedRequest pkey qpn psn => ok16 pkey && okQpn qpn && okPsn psn
  | .nakReceived qpn psn => okQpn qpn && okPsn psn
  | .ackTimeout qpn => okQpn qpn
  | .cePacket qpn => okQpn qpn
  | .cnpReceived qpn => okQpn qpn
  | .rateTimer qpn => okQpn qpn
  | .arpRequest _ _ _ => true
  | .neighborSolicitation _ _ _ => true
  | .pauseFrame _ => true
  | .cmReq pkey commId _ mtu rqpn rkey _ => ok16 pkey && ok32 commId && okMtu mtu && ok32 rqpn && ok32 rkey
  | .cmRtu commId => ok32 commId
  | .cmDreq commId => ok32 commId
  | .linkDown => true
  | .linkRetrainTimer => true
  | .portAttemptTimeout failedLanes => okLanes failedLanes
  | .frameDecode queue => okQueue queue
  | .commandReach queue => okQueue queue
  | .commandComplete queue seq => okQueue queue && ok64 seq
  | .nop queue seq => okQueue queue && ok64 seq
  | .fence queue seq => okQueue queue && ok64 seq
  | .weirArm queue seq => okQueue queue && ok64 seq
  | .weirArrive queue seq => okQueue queue && ok64 seq
  | .caps queue seq => okQueue queue && ok64 seq
  | .telemetry queue seq => okQueue queue && ok64 seq
  | .gemm queue seq => okQueue queue && ok64 seq
  | .gemmFp32x3 queue seq => okQueue queue && ok64 seq
  | .gemmFp64s queue seq => okQueue queue && ok64 seq
  | .gemmHormi queue seq => okQueue queue && ok64 seq
  | .gemmRef queue seq => okQueue queue && ok64 seq
  | .attnBlock queue seq => okQueue queue && ok64 seq
  | .vprog queue seq => okQueue queue && ok64 seq
  | .dmaChain queue seq => okQueue queue && ok64 seq
  | .copy queue seq => okQueue queue && ok64 seq
  | .route queue seq => okQueue queue && ok64 seq
  | .dispatch queue seq => okQueue queue && ok64 seq
  | .combine queue seq => okQueue queue && ok64 seq
  | .allreduce queue seq => okQueue queue && ok64 seq
  | .reduceScatter queue seq => okQueue queue && ok64 seq
  | .allgather queue seq => okQueue queue && ok64 seq
  | .broadcast queue seq => okQueue queue && ok64 seq
  | .update queue seq => okQueue queue && ok64 seq
  | .commitStep queue seq => okQueue queue && ok64 seq
  | .setState queue seq => okQueue queue && ok64 seq
  | .restoreEst queue seq => okQueue queue && ok64 seq
  | .derive queue seq _ => okQueue queue && ok64 seq
  | .exportShard queue seq => okQueue queue && ok64 seq
  | .snapshot queue seq => okQueue queue && ok64 seq
  | .weirArriveWrite core _ => okCore core
  | .weirArmWrite core _ => okCore core
  | .registerWrite addr _ => okAddr addr
  | .unmappedAccess addr _ => okAddr addr
  | .tideMark => true
  | .ptpSync domain _ _ seqId _ _ _ => okDomain domain && ok16 seqId
  | .ptpFollowUp domain _ seqId _ => okDomain domain && ok16 seqId
  | .ptpAnnounce domain _ => okDomain domain
  | .ptpDelayResp domain _ seqId _ => okDomain domain && ok16 seqId
  | .syncLossTimeout => true
  | .announceReceiptTimeout => true
  | .tidePpsPulse _ => true
  | .ppsAbsentTimeout => true
  | .holdoverTimeout => true
  | .tideLockTimeout => true
  | .rowLand core slot _ => okCore core && okSlot slot
  | .groupOpen core slot queue seq _ => okCore core && okSlot slot && okQueue queue && ok64 seq
  | .drainStart core => okCore core
  | .vnop core _ _ => okCore core
  | .vadd core _ _ => okCore core
  | .vsub core _ _ => okCore core
  | .vmul core _ _ => okCore core
  | .vfma core _ _ => okCore core
  | .vfnma core _ _ => okCore core
  | .vmin core _ _ => okCore core
  | .vmax core _ _ => okCore core
  | .vabs core _ _ => okCore core
  | .vneg core _ _ => okCore core
  | .vdiv core _ _ => okCore core
  | .vsqrt core _ _ => okCore core
  | .vrcp core _ _ => okCore core
  | .vrsqrt core _ _ => okCore core
  | .vexp2 core _ _ => okCore core
  | .vlog2 core _ _ => okCore core
  | .vcvt core _ _ => okCore core
  | .vcmp core _ _ => okCore core
  | .vsel core _ _ => okCore core
  | .vand core _ _ => okCore core
  | .vor core _ _ => okCore core
  | .vxor core _ _ => okCore core
  | .vshl core _ _ => okCore core
  | .vshr core _ _ => okCore core
  | .vsra core _ _ => okCore core
  | .viadd core _ _ => okCore core
  | .visub core _ _ => okCore core
  | .vimul core _ _ => okCore core
  | .vmov core _ _ => okCore core
  | .vbcast core _ _ => okCore core
  | .vidx core _ _ => okCore core
  | .vperm core _ _ => okCore core
  | .vslide core _ _ => okCore core
  | .vhsum core _ _ => okCore core
  | .vhmax core _ _ => okCore core
  | .mlogic core _ _ => okCore core
  | .mfirst core _ _ => okCore core
  | .vld core _ => okCore core
  | .vloadReturn core vd => okCore core && okReg vd
  | .vst core _ => okCore core
  | .vgather core _ => okCore core
  | .vscatter core _ => okCore core
  | .slpop core _ => okCore core
  | .slinfo core _ => okCore core
  | .racc core _ => okCore core
  | .rget core _ => okCore core
  | .rclr core _ => okCore core
  | .rnorm core _ => okCore core
  | .sli core _ => okCore core
  | .slih core _ => okCore core
  | .sadd core _ => okCore core
  | .saddi core _ => okCore core
  | .ssub core _ => okCore core
  | .smul core _ => okCore core
  | .sshli core _ => okCore core
  | .sshri core _ => okCore core
  | .sand core _ => okCore core
  | .slt core _ => okCore core
  | .seqEq core _ => okCore core
  | .smovv core _ => okCore core
  | .bnz core _ => okCore core
  | .bz core _ => okCore core
  | .vend core _ => okCore core
  | .sflags core _ => okCore core
  | .vecIllegal core _ => okCore core
  | .insnLimitHit core => okCore core
  | .llcRead src addr len _ _ => okReq src && okAddr addr && okBurst len
  | .llcWrite src addr data _ => okReq src && okAddr addr && okLineData data
  | .llcFill line => okLine line
  | .slabAccess owner requester off len _ => okCore owner && okCore requester && okSlab off && okBurst len
  | .rangePin line count => okLine line && okCount count
  | .rangeUnpin line count => okLine line && okCount count
  | .rangeDead line count => okLine line && okCount count
  | .rangeClean line count => okLine line && okCount count
  | .rangeOpDone => true
  | .scrubPass level _ _ _ => okStore level
  | .errorRingWrite => true
  | .logFlashWrite => true
  | .dmaChStart core ch _ => okCore core && okChan ch
  | .dmaRunStart core => okCore core
  | .dmaCopy core => okCore core
  | .dmaFill core => okCore core
  | .dmaPin core => okCore core
  | .dmaUnpin core => okCore core
  | .dmaDead core => okCore core
  | .dmaClean core => okCore core
  | .dmaNop core => okCore core
  | .dmaDescComplete core => okCore core
  | .countdownExpire core ch => okCore core && okChan ch
  | .collArrive group collSeq _ => ok64 group && ok64 collSeq
  | .collStart group collSeq members _ _ _ => ok64 group && ok64 collSeq && okRanks members
  | .collData group collSeq _ _ _ data => ok64 group && ok64 collSeq && okMessage data
  | .collResult group collSeq _ data => ok64 group && ok64 collSeq && okMessage data
  | .fpMsg src _ => okRank src
  | .bisect src row _ len _ => okRank src && okRow row && ok32 len
  | .stragglerDeadline group collSeq => ok64 group && ok64 collSeq
  | .peerLostDeadline group collSeq => ok64 group && ok64 collSeq
  | .fordHello hdr _ _ => okHdr hdr
  | .fordWrite hdr addr data => okHdr hdr && okAddr addr && okFlit data
  | .fordWake hdr entry => okHdr hdr && okFlit entry
  | .fordFlags hdr row _ => okHdr hdr && okRow row
  | .fordVote hdr _ => okHdr hdr
  | .fordAck hdr => okHdr hdr
  | .fordColl hdr data => okHdr hdr && okFlit data
  | .fordGoodbye hdr => okHdr hdr
  | .fordIdle hdr => okHdr hdr
  | .fordReplayTimeout => true
  | .fordIdleTimer => true
  | .fordSilenceTimeout => true
  | .fordRetrainTimer _ => true
  | .meterSample _ _ => true
  | .dvfsStepInForce => true
  | .droopDetect => true
  | .droopRelease => true
  | .tempSample junction memory => okJunction junction && okMemory memory
  | .railSample readings => okRails readings
  | .thermalTrip point => okPoint point
  | .slackEntryDone => true
  | .slackWakeEnd _ _ => true
  | .flowOkDeassert => true
  | .coolantHoldTimeout => true
  | .coolantResume _ _ => true
  | .ledgerRecordWrite => true
  | .txnWatchdogExpire unit _ addr => okByte unit && okAddr addr
  | .livenessTimeout unit _ => okByte unit
  | .vlaneFail _ _ group lane => okLaneGroup group && okLane lane
  | .oxbowResetDeadline partition => okPart partition
  | .wakeLogReplay queue seq => okQueue queue && ok64 seq
  | .coreReset core => okCore core
  | .clusterReset cluster => okCluster cluster
  | .partitionReset partition => okPart partition
  | .subsystemReset unit _ => okByte unit
  | .warmReset => true
  | .coldReset => true
  | .resetComplete level _ => okLevel level
  | .headwater _ => true
  | .railsAndClocks failedRails _ => okByte failedRails
  | .baseDie _ _ _ => true
  | .verticalLinks groups => okLaneGroups groups
  | .computeAndShoal failedCores => okCores failedCores
  | .memoryStage nearFailed deepFailed => okNear nearFailed && okDeep deepFailed
  | .freshet _ _ => true
  | .ethernetAndTide deadLanes fordDead => okLanes deadLanes && okLanes fordDead
  | .licences => true
  | .freshetBegin core chunks hash => okPhys core && okChunks chunks && okDigest hash
  | .freshetChunk core index _ data => okPhys core && okChunk index && okPiece data
  | .gaugeWdogExpire => true
  | .i3cDaa addr => okI2c addr
  | .setEndpointId _ => true
  | .getEndpointId => true
  | .getEndpointUuid => true
  | .getMctpVersionSupport msgType => okByte msgType
  | .getMessageTypeSupport => true
  | .getTid => true
  | .getPldmVersion pldmType => okType pldmType
  | .getPldmTypes => true
  | .getPldmCommands pldmType => okType pldmType
  | .getSensorReading _ => true
  | .getPdr _ => true
  | .getPdrRepositoryInfo => true
  | .pollForPlatformEventMessage => true
  | .getFruRecordTableMetadata => true
  | .getFruRecordTable => true
  | .requestUpdate => true
  | .passComponentTable _ => true
  | .updateComponent component => ok16 component
  | .requestFirmwareData _ _ => true
  | .transferComplete _ => true
  | .verifyComplete _ => true
  | .applyComplete _ => true
  | .activateFirmware => true
  | .getStatus => true
  | .cancelUpdate => true
  | .cancelUpdateComponent => true
  | .getAttestation nonce => okDigest nonce
  | .getChallenge => true
  | .debugUnlock token => okToken token
  | .sbReset level _ => okSbLevel level
  | .sbSlack _ => true
  | .readLog logSeq => ok64 logSeq
  | .readStage stage => okStage stage
  | .updateFromStaging len sha => ok32 len && okDigest sha
  | .updateProgramDone _ _ => true
  | .challengeExpire => true
  | .jtagInstruction _ => true
  | .pwrSenseMake => true
  | .pwrSenseBreak => true
  | .enableAssert => true
  | .enableDeassert => true
  | .inputUndervoltage => true
  | .inputOvervoltage => true
  | .inputOvercurrent => true
  | .inputRecovered => true
  | .p3v3AuxLoss => true
  | .fordLinkDown => true
  | .linkUp => true
  | .flowOkAssert => true
  | .rdmaAckReceived qpn psn => okQpn qpn && okPsn psn
  | .rdmaReadResponse qpn psn data => (okQpn qpn || decide (qpn = 0xFFFFFFFF)) && okPsn psn && okFrame data
  | .gaugeRestartDone => true

end Sys2Proof
end

