-- ==== Sys2Proof/Laws/PerInstr.lean ====
section
/-! SUPPORT. One family of statements about the commands as data: a well-formed command names only queues, cores, registers
and other numbered units that the machine has. -/

set_option Elab.async false

namespace Sys2Proof

/-- The numbered units a command names, each with how many of them the machine has (R9, R16, R17, R33, R167, R244, R269, R302, R317). -/
def Instr.unitNumbers : Instr → List (Nat × Nat)
  | .rdmaWrite _ qpn _ _ _ _ => [(qpn, 4352)]
  | .rdmaRead _ qpn _ _ _ _ => [(qpn, 4352)]
  | .send _ qpn _ _ => [(qpn, 4352)]
  | .unsupportedRequest _ qpn _ => [(qpn, 4352)]
  | .nakReceived qpn _ => [(qpn, 4352)]
  | .ackTimeout qpn => [(qpn, 4352)]
  | .cePacket qpn => [(qpn, 4352)]
  | .cnpReceived qpn => [(qpn, 4352)]
  | .rateTimer qpn => [(qpn, 4352)]
  | .arpRequest _ _ _ => []
  | .neighborSolicitation _ _ _ => []
  | .pauseFrame _ => []
  | .cmReq _ _ _ _ _ _ _ => []
  | .cmRtu _ => []
  | .cmDreq _ => []
  | .linkDown => []
  | .linkRetrainTimer => []
  | .portAttemptTimeout _ => []
  | .frameDecode queue => [(queue, 256)]
  | .commandReach queue => [(queue, 256)]
  | .commandComplete queue _ => [(queue, 256)]
  | .nop queue _ => [(queue, 256)]
  | .fence queue _ => [(queue, 256)]
  | .weirArm queue _ => [(queue, 256)]
  | .weirArrive queue _ => [(queue, 256)]
  | .caps queue _ => [(queue, 256)]
  | .telemetry queue _ => [(queue, 256)]
  | .gemm queue _ => [(queue, 256)]
  | .gemmFp32x3 queue _ => [(queue, 256)]
  | .gemmFp64s queue _ => [(queue, 256)]
  | .gemmHormi queue _ => [(queue, 256)]
  | .gemmRef queue _ => [(queue, 256)]
  | .attnBlock queue _ => [(queue, 256)]
  | .vprog queue _ => [(queue, 256)]
  | .dmaChain queue _ => [(queue, 256)]
  | .copy queue _ => [(queue, 256)]
  | .route queue _ => [(queue, 256)]
  | .dispatch queue _ => [(queue, 256)]
  | .combine queue _ => [(queue, 256)]
  | .allreduce queue _ => [(queue, 256)]
  | .reduceScatter queue _ => [(queue, 256)]
  | .allgather queue _ => [(queue, 256)]
  | .broadcast queue _ => [(queue, 256)]
  | .update queue _ => [(queue, 256)]
  | .commitStep queue _ => [(queue, 256)]
  | .setState queue _ => [(queue, 256)]
  | .restoreEst queue _ => [(queue, 256)]
  | .derive queue _ _ => [(queue, 256)]
  | .exportShard queue _ => [(queue, 256)]
  | .snapshot queue _ => [(queue, 256)]
  | .weirArriveWrite core _ => [(core, 2048)]
  | .weirArmWrite core _ => [(core, 2048)]
  | .registerWrite _ _ => []
  | .unmappedAccess _ _ => []
  | .tideMark => []
  | .ptpSync domain _ _ _ _ _ _ => [(domain, 128)]
  | .ptpFollowUp domain _ _ _ => [(domain, 128)]
  | .ptpAnnounce domain _ => [(domain, 128)]
  | .ptpDelayResp domain _ _ _ => [(domain, 128)]
  | .syncLossTimeout => []
  | .announceReceiptTimeout => []
  | .tidePpsPulse _ => []
  | .ppsAbsentTimeout => []
  | .holdoverTimeout => []
  | .tideLockTimeout => []
  | .rowLand core slot _ => [(core, 2048), (slot, 4)]
  | .groupOpen core slot queue _ _ => [(core, 2048), (slot, 4), (queue, 256)]
  | .drainStart core => [(core, 2048)]
  | .vnop core _ _ => [(core, 2048)]
  | .vadd core _ _ => [(core, 2048)]
  | .vsub core _ _ => [(core, 2048)]
  | .vmul core _ _ => [(core, 2048)]
  | .vfma core _ _ => [(core, 2048)]
  | .vfnma core _ _ => [(core, 2048)]
  | .vmin core _ _ => [(core, 2048)]
  | .vmax core _ _ => [(core, 2048)]
  | .vabs core _ _ => [(core, 2048)]
  | .vneg core _ _ => [(core, 2048)]
  | .vdiv core _ _ => [(core, 2048)]
  | .vsqrt core _ _ => [(core, 2048)]
  | .vrcp core _ _ => [(core, 2048)]
  | .vrsqrt core _ _ => [(core, 2048)]
  | .vexp2 core _ _ => [(core, 2048)]
  | .vlog2 core _ _ => [(core, 2048)]
  | .vcvt core _ _ => [(core, 2048)]
  | .vcmp core _ _ => [(core, 2048)]
  | .vsel core _ _ => [(core, 2048)]
  | .vand core _ _ => [(core, 2048)]
  | .vor core _ _ => [(core, 2048)]
  | .vxor core _ _ => [(core, 2048)]
  | .vshl core _ _ => [(core, 2048)]
  | .vshr core _ _ => [(core, 2048)]
  | .vsra core _ _ => [(core, 2048)]
  | .viadd core _ _ => [(core, 2048)]
  | .visub core _ _ => [(core, 2048)]
  | .vimul core _ _ => [(core, 2048)]
  | .vmov core _ _ => [(core, 2048)]
  | .vbcast core _ _ => [(core, 2048)]
  | .vidx core _ _ => [(core, 2048)]
  | .vperm core _ _ => [(core, 2048)]
  | .vslide core _ _ => [(core, 2048)]
  | .vhsum core _ _ => [(core, 2048)]
  | .vhmax core _ _ => [(core, 2048)]
  | .mlogic core _ _ => [(core, 2048)]
  | .mfirst core _ _ => [(core, 2048)]
  | .vld core _ => [(core, 2048)]
  | .vloadReturn core vd => [(core, 2048), (vd, 32)]
  | .vst core _ => [(core, 2048)]
  | .vgather core _ => [(core, 2048)]
  | .vscatter core _ => [(core, 2048)]
  | .slpop core _ => [(core, 2048)]
  | .slinfo core _ => [(core, 2048)]
  | .racc core _ => [(core, 2048)]
  | .rget core _ => [(core, 2048)]
  | .rclr core _ => [(core, 2048)]
  | .rnorm core _ => [(core, 2048)]
  | .sli core _ => [(core, 2048)]
  | .slih core _ => [(core, 2048)]
  | .sadd core _ => [(core, 2048)]
  | .saddi core _ => [(core, 2048)]
  | .ssub core _ => [(core, 2048)]
  | .smul core _ => [(core, 2048)]
  | .sshli core _ => [(core, 2048)]
  | .sshri core _ => [(core, 2048)]
  | .sand core _ => [(core, 2048)]
  | .slt core _ => [(core, 2048)]
  | .seqEq core _ => [(core, 2048)]
  | .smovv core _ => [(core, 2048)]
  | .bnz core _ => [(core, 2048)]
  | .bz core _ => [(core, 2048)]
  | .vend core _ => [(core, 2048)]
  | .sflags core _ => [(core, 2048)]
  | .vecIllegal core _ => [(core, 2048)]
  | .insnLimitHit core => [(core, 2048)]
  | .llcRead _ _ _ _ _ => []
  | .llcWrite _ _ _ _ => []
  | .llcFill _ => []
  | .slabAccess owner requester _ _ _ => [(owner, 2048), (requester, 2048)]
  | .rangePin _ _ => []
  | .rangeUnpin _ _ => []
  | .rangeDead _ _ => []
  | .rangeClean _ _ => []
  | .rangeOpDone => []
  | .scrubPass _ _ _ _ => []
  | .errorRingWrite => []
  | .logFlashWrite => []
  | .dmaChStart core ch _ => [(core, 2048), (ch, 8)]
  | .dmaRunStart core => [(core, 2048)]
  | .dmaCopy core => [(core, 2048)]
  | .dmaFill core => [(core, 2048)]
  | .dmaPin core => [(core, 2048)]
  | .dmaUnpin core => [(core, 2048)]
  | .dmaDead core => [(core, 2048)]
  | .dmaClean core => [(core, 2048)]
  | .dmaNop core => [(core, 2048)]
  | .dmaDescComplete core => [(core, 2048)]
  | .countdownExpire core ch => [(core, 2048), (ch, 8)]
  | .collArrive _ _ _ => []
  | .collStart _ _ _ _ _ _ => []
  | .collData _ _ _ _ _ _ => []
  | .collResult _ _ _ _ => []
  | .fpMsg src _ => [(src, 257)]
  | .bisect src row _ _ _ => [(src, 257), (row, 4096)]
  | .stragglerDeadline _ _ => []
  | .peerLostDeadline _ _ => []
  | .fordHello _ _ _ => []
  | .fordWrite _ _ _ => []
  | .fordWake _ _ => []
  | .fordFlags _ row _ => [(row, 4096)]
  | .fordVote _ _ => []
  | .fordAck _ => []
  | .fordColl _ _ => []
  | .fordGoodbye _ => []
  | .fordIdle _ => []
  | .fordReplayTimeout => []
  | .fordIdleTimer => []
  | .fordSilenceTimeout => []
  | .fordRetrainTimer _ => []
  | .meterSample _ _ => []
  | .dvfsStepInForce => []
  | .droopDetect => []
  | .droopRelease => []
  | .tempSample _ _ => []
  | .railSample _ => []
  | .thermalTrip point => [(point, 96)]
  | .slackEntryDone => []
  | .slackWakeEnd _ _ => []
  | .flowOkDeassert => []
  | .coolantHoldTimeout => []
  | .coolantResume _ _ => []
  | .ledgerRecordWrite => []
  | .txnWatchdogExpire _ _ _ => []
  | .livenessTimeout _ _ => []
  | .vlaneFail _ _ group lane => [(group, 8), (lane, 68)]
  | .oxbowResetDeadline partition => [(partition, 4)]
  | .wakeLogReplay queue _ => [(queue, 256)]
  | .coreReset core => [(core, 2048)]
  | .clusterReset cluster => [(cluster, 128)]
  | .partitionReset partition => [(partition, 4)]
  | .subsystemReset _ _ => []
  | .warmReset => []
  | .coldReset => []
  | .resetComplete _ _ => []
  | .headwater _ => []
  | .railsAndClocks _ _ => []
  | .baseDie _ _ _ => []
  | .verticalLinks _ => []
  | .computeAndShoal _ => []
  | .memoryStage _ _ => []
  | .freshet _ _ => []
  | .ethernetAndTide _ _ => []
  | .licences => []
  | .freshetBegin core _ _ => [(core, 2304)]
  | .freshetChunk core _ _ _ => [(core, 2304)]
  | .gaugeWdogExpire => []
  | .i3cDaa _ => []
  | .setEndpointId _ => []
  | .getEndpointId => []
  | .getEndpointUuid => []
  | .getMctpVersionSupport _ => []
  | .getMessageTypeSupport => []
  | .getTid => []
  | .getPldmVersion _ => []
  | .getPldmTypes => []
  | .getPldmCommands _ => []
  | .getSensorReading _ => []
  | .getPdr _ => []
  | .getPdrRepositoryInfo => []
  | .pollForPlatformEventMessage => []
  | .getFruRecordTableMetadata => []
  | .getFruRecordTable => []
  | .requestUpdate => []
  | .passComponentTable _ => []
  | .updateComponent _ => []
  | .requestFirmwareData _ _ => []
  | .transferComplete _ => []
  | .verifyComplete _ => []
  | .applyComplete _ => []
  | .activateFirmware => []
  | .getStatus => []
  | .cancelUpdate => []
  | .cancelUpdateComponent => []
  | .getAttestation _ => []
  | .getChallenge => []
  | .debugUnlock _ => []
  | .sbReset _ _ => []
  | .sbSlack _ => []
  | .readLog _ => []
  | .readStage _ => []
  | .updateFromStaging _ _ => []
  | .updateProgramDone _ _ => []
  | .challengeExpire => []
  | .jtagInstruction _ => []
  | .pwrSenseMake => []
  | .pwrSenseBreak => []
  | .enableAssert => []
  | .enableDeassert => []
  | .inputUndervoltage => []
  | .inputOvervoltage => []
  | .inputOvercurrent => []
  | .inputRecovered => []
  | .p3v3AuxLoss => []
  | .fordLinkDown => []
  | .linkUp => []
  | .flowOkAssert => []
  | .rdmaAckReceived qpn _ => [(qpn, 4352)]
  | .rdmaReadResponse _ _ _ => []
  | .gaugeRestartDone => []

end Sys2Proof

namespace Sys2Proof.Laws.NamedUnits

/-- A well-formed command names only units the machine has. -/
def Statement (i : Instr) : Prop := i.wf = true → ∀ p ∈ i.unitNumbers, p.1 < p.2

theorem rdmaWrite (pkey qpn rkey psn va : Nat) (data : List Byte) : Statement (.rdmaWrite pkey qpn rkey psn va data) := by simp [Statement, Instr.unitNumbers, Instr.wf, okQpn] <;> omega

theorem rdmaRead (pkey qpn rkey psn va len : Nat) : Statement (.rdmaRead pkey qpn rkey psn va len) := by simp [Statement, Instr.unitNumbers, Instr.wf, okQpn] <;> omega

theorem send (pkey qpn psn : Nat) (data : List Byte) : Statement (.send pkey qpn psn data) := by simp [Statement, Instr.unitNumbers, Instr.wf, okQpn] <;> omega

theorem unsupportedRequest (pkey qpn psn : Nat) : Statement (.unsupportedRequest pkey qpn psn) := by simp [Statement, Instr.unitNumbers, Instr.wf, okQpn] <;> omega

theorem nakReceived (qpn psn : Nat) : Statement (.nakReceived qpn psn) := by simp [Statement, Instr.unitNumbers, Instr.wf, okQpn] <;> omega

theorem ackTimeout (qpn : Nat) : Statement (.ackTimeout qpn) := by simp [Statement, Instr.unitNumbers, Instr.wf, okQpn] <;> omega

theorem cePacket (qpn : Nat) : Statement (.cePacket qpn) := by simp [Statement, Instr.unitNumbers, Instr.wf, okQpn] <;> omega

theorem cnpReceived (qpn : Nat) : Statement (.cnpReceived qpn) := by simp [Statement, Instr.unitNumbers, Instr.wf, okQpn] <;> omega

theorem rateTimer (qpn : Nat) : Statement (.rateTimer qpn) := by simp [Statement, Instr.unitNumbers, Instr.wf, okQpn] <;> omega

theorem arpRequest (target sender : BitVec 32) (mac : BitVec 48) : Statement (.arpRequest target sender mac) := by simp [Statement, Instr.unitNumbers]

theorem neighborSolicitation (target sender : BitVec 128) (mac : BitVec 48) : Statement (.neighborSolicitation target sender mac) := by simp [Statement, Instr.unitNumbers]

theorem pauseFrame (pfc : Bool) : Statement (.pauseFrame pfc) := by simp [Statement, Instr.unitNumbers]

theorem cmReq (pkey commId : Nat) (peer : Bool) (mtu rqpn rkey : Nat) (raddr : BitVec 128) : Statement (.cmReq pkey commId peer mtu rqpn rkey raddr) := by simp [Statement, Instr.unitNumbers]

theorem cmRtu (commId : Nat) : Statement (.cmRtu commId) := by simp [Statement, Instr.unitNumbers]

theorem cmDreq (commId : Nat) : Statement (.cmDreq commId) := by simp [Statement, Instr.unitNumbers]

theorem linkDown : Statement (.linkDown) := by simp [Statement, Instr.unitNumbers]

theorem linkRetrainTimer : Statement (.linkRetrainTimer) := by simp [Statement, Instr.unitNumbers]

theorem portAttemptTimeout (failedLanes : List Nat) : Statement (.portAttemptTimeout failedLanes) := by simp [Statement, Instr.unitNumbers]

theorem frameDecode (queue : Nat) : Statement (.frameDecode queue) := by simp [Statement, Instr.unitNumbers, Instr.wf, okQueue] <;> omega

theorem commandReach (queue : Nat) : Statement (.commandReach queue) := by simp [Statement, Instr.unitNumbers, Instr.wf, okQueue] <;> omega

theorem commandComplete (queue seq : Nat) : Statement (.commandComplete queue seq) := by simp [Statement, Instr.unitNumbers, Instr.wf, okQueue] <;> omega

theorem nop (queue seq : Nat) : Statement (.nop queue seq) := by simp [Statement, Instr.unitNumbers, Instr.wf, okQueue] <;> omega

theorem fence (queue seq : Nat) : Statement (.fence queue seq) := by simp [Statement, Instr.unitNumbers, Instr.wf, okQueue] <;> omega

theorem weirArm (queue seq : Nat) : Statement (.weirArm queue seq) := by simp [Statement, Instr.unitNumbers, Instr.wf, okQueue] <;> omega

theorem weirArrive (queue seq : Nat) : Statement (.weirArrive queue seq) := by simp [Statement, Instr.unitNumbers, Instr.wf, okQueue] <;> omega

theorem caps (queue seq : Nat) : Statement (.caps queue seq) := by simp [Statement, Instr.unitNumbers, Instr.wf, okQueue] <;> omega

theorem telemetry (queue seq : Nat) : Statement (.telemetry queue seq) := by simp [Statement, Instr.unitNumbers, Instr.wf, okQueue] <;> omega

theorem gemm (queue seq : Nat) : Statement (.gemm queue seq) := by simp [Statement, Instr.unitNumbers, Instr.wf, okQueue] <;> omega

theorem gemmFp32x3 (queue seq : Nat) : Statement (.gemmFp32x3 queue seq) := by simp [Statement, Instr.unitNumbers, Instr.wf, okQueue] <;> omega

theorem gemmFp64s (queue seq : Nat) : Statement (.gemmFp64s queue seq) := by simp [Statement, Instr.unitNumbers, Instr.wf, okQueue] <;> omega

theorem gemmHormi (queue seq : Nat) : Statement (.gemmHormi queue seq) := by simp [Statement, Instr.unitNumbers, Instr.wf, okQueue] <;> omega

theorem gemmRef (queue seq : Nat) : Statement (.gemmRef queue seq) := by simp [Statement, Instr.unitNumbers, Instr.wf, okQueue] <;> omega

theorem attnBlock (queue seq : Nat) : Statement (.attnBlock queue seq) := by simp [Statement, Instr.unitNumbers, Instr.wf, okQueue] <;> omega

theorem vprog (queue seq : Nat) : Statement (.vprog queue seq) := by simp [Statement, Instr.unitNumbers, Instr.wf, okQueue] <;> omega

theorem dmaChain (queue seq : Nat) : Statement (.dmaChain queue seq) := by simp [Statement, Instr.unitNumbers, Instr.wf, okQueue] <;> omega

theorem copy (queue seq : Nat) : Statement (.copy queue seq) := by simp [Statement, Instr.unitNumbers, Instr.wf, okQueue] <;> omega

theorem route (queue seq : Nat) : Statement (.route queue seq) := by simp [Statement, Instr.unitNumbers, Instr.wf, okQueue] <;> omega

theorem dispatch (queue seq : Nat) : Statement (.dispatch queue seq) := by simp [Statement, Instr.unitNumbers, Instr.wf, okQueue] <;> omega

theorem combine (queue seq : Nat) : Statement (.combine queue seq) := by simp [Statement, Instr.unitNumbers, Instr.wf, okQueue] <;> omega

theorem allreduce (queue seq : Nat) : Statement (.allreduce queue seq) := by simp [Statement, Instr.unitNumbers, Instr.wf, okQueue] <;> omega

theorem reduceScatter (queue seq : Nat) : Statement (.reduceScatter queue seq) := by simp [Statement, Instr.unitNumbers, Instr.wf, okQueue] <;> omega

theorem allgather (queue seq : Nat) : Statement (.allgather queue seq) := by simp [Statement, Instr.unitNumbers, Instr.wf, okQueue] <;> omega

theorem broadcast (queue seq : Nat) : Statement (.broadcast queue seq) := by simp [Statement, Instr.unitNumbers, Instr.wf, okQueue] <;> omega

theorem update (queue seq : Nat) : Statement (.update queue seq) := by simp [Statement, Instr.unitNumbers, Instr.wf, okQueue] <;> omega

theorem commitStep (queue seq : Nat) : Statement (.commitStep queue seq) := by simp [Statement, Instr.unitNumbers, Instr.wf, okQueue] <;> omega

theorem setState (queue seq : Nat) : Statement (.setState queue seq) := by simp [Statement, Instr.unitNumbers, Instr.wf, okQueue] <;> omega

theorem restoreEst (queue seq : Nat) : Statement (.restoreEst queue seq) := by simp [Statement, Instr.unitNumbers, Instr.wf, okQueue] <;> omega

theorem derive (queue seq : Nat) (misses : List Nat) : Statement (.derive queue seq misses) := by simp [Statement, Instr.unitNumbers, Instr.wf, okQueue] <;> omega

theorem exportShard (queue seq : Nat) : Statement (.exportShard queue seq) := by simp [Statement, Instr.unitNumbers, Instr.wf, okQueue] <;> omega

theorem snapshot (queue seq : Nat) : Statement (.snapshot queue seq) := by simp [Statement, Instr.unitNumbers, Instr.wf, okQueue] <;> omega

theorem weirArriveWrite (core : Nat) (value : BitVec 64) : Statement (.weirArriveWrite core value) := by simp [Statement, Instr.unitNumbers, Instr.wf, okCore] <;> omega

theorem weirArmWrite (core : Nat) (value : BitVec 64) : Statement (.weirArmWrite core value) := by simp [Statement, Instr.unitNumbers, Instr.wf, okCore] <;> omega

theorem registerWrite (addr : Nat) (value : BitVec 64) : Statement (.registerWrite addr value) := by simp [Statement, Instr.unitNumbers]

theorem unmappedAccess (addr : Nat) (write : Bool) : Statement (.unmappedAccess addr write) := by simp [Statement, Instr.unitNumbers]

theorem tideMark : Statement (.tideMark) := by simp [Statement, Instr.unitNumbers]

theorem ptpSync (domain src : Nat) (logInterval : Int) (seqId : Nat) (twoStep : Bool) (origin rx : Nat) : Statement (.ptpSync domain src logInterval seqId twoStep origin rx) := by simp [Statement, Instr.unitNumbers, Instr.wf, okDomain] <;> omega

theorem ptpFollowUp (domain src seqId origin : Nat) : Statement (.ptpFollowUp domain src seqId origin) := by simp [Statement, Instr.unitNumbers, Instr.wf, okDomain] <;> omega

theorem ptpAnnounce (domain : Nat) (data : Announce) : Statement (.ptpAnnounce domain data) := by simp [Statement, Instr.unitNumbers, Instr.wf, okDomain] <;> omega

theorem ptpDelayResp (domain src seqId masterRx : Nat) : Statement (.ptpDelayResp domain src seqId masterRx) := by simp [Statement, Instr.unitNumbers, Instr.wf, okDomain] <;> omega

theorem syncLossTimeout : Statement (.syncLossTimeout) := by simp [Statement, Instr.unitNumbers]

theorem announceReceiptTimeout : Statement (.announceReceiptTimeout) := by simp [Statement, Instr.unitNumbers]

theorem tidePpsPulse (offset : Int) : Statement (.tidePpsPulse offset) := by simp [Statement, Instr.unitNumbers]

theorem ppsAbsentTimeout : Statement (.ppsAbsentTimeout) := by simp [Statement, Instr.unitNumbers]

theorem holdoverTimeout : Statement (.holdoverTimeout) := by simp [Statement, Instr.unitNumbers]

theorem tideLockTimeout : Statement (.tideLockTimeout) := by simp [Statement, Instr.unitNumbers]

theorem rowLand (core slot : Nat) (mismatch : Bool) : Statement (.rowLand core slot mismatch) := by simp [Statement, Instr.unitNumbers, Instr.wf, okCore, okSlot] <;> omega

theorem groupOpen (core slot queue seq tile : Nat) : Statement (.groupOpen core slot queue seq tile) := by simp [Statement, Instr.unitNumbers, Instr.wf, okCore, okQueue, okSlot] <;> omega

theorem drainStart (core : Nat) : Statement (.drainStart core) := by simp [Statement, Instr.unitNumbers, Instr.wf, okCore] <;> omega

theorem vnop (core : Nat) (w : BitVec 64) (re : Nat) : Statement (.vnop core w re) := by simp [Statement, Instr.unitNumbers, Instr.wf, okCore] <;> omega

theorem vadd (core : Nat) (w : BitVec 64) (re : Nat) : Statement (.vadd core w re) := by simp [Statement, Instr.unitNumbers, Instr.wf, okCore] <;> omega

theorem vsub (core : Nat) (w : BitVec 64) (re : Nat) : Statement (.vsub core w re) := by simp [Statement, Instr.unitNumbers, Instr.wf, okCore] <;> omega

theorem vmul (core : Nat) (w : BitVec 64) (re : Nat) : Statement (.vmul core w re) := by simp [Statement, Instr.unitNumbers, Instr.wf, okCore] <;> omega

theorem vfma (core : Nat) (w : BitVec 64) (re : Nat) : Statement (.vfma core w re) := by simp [Statement, Instr.unitNumbers, Instr.wf, okCore] <;> omega

theorem vfnma (core : Nat) (w : BitVec 64) (re : Nat) : Statement (.vfnma core w re) := by simp [Statement, Instr.unitNumbers, Instr.wf, okCore] <;> omega

theorem vmin (core : Nat) (w : BitVec 64) (re : Nat) : Statement (.vmin core w re) := by simp [Statement, Instr.unitNumbers, Instr.wf, okCore] <;> omega

theorem vmax (core : Nat) (w : BitVec 64) (re : Nat) : Statement (.vmax core w re) := by simp [Statement, Instr.unitNumbers, Instr.wf, okCore] <;> omega

theorem vabs (core : Nat) (w : BitVec 64) (re : Nat) : Statement (.vabs core w re) := by simp [Statement, Instr.unitNumbers, Instr.wf, okCore] <;> omega

theorem vneg (core : Nat) (w : BitVec 64) (re : Nat) : Statement (.vneg core w re) := by simp [Statement, Instr.unitNumbers, Instr.wf, okCore] <;> omega

theorem vdiv (core : Nat) (w : BitVec 64) (re : Nat) : Statement (.vdiv core w re) := by simp [Statement, Instr.unitNumbers, Instr.wf, okCore] <;> omega

theorem vsqrt (core : Nat) (w : BitVec 64) (re : Nat) : Statement (.vsqrt core w re) := by simp [Statement, Instr.unitNumbers, Instr.wf, okCore] <;> omega

theorem vrcp (core : Nat) (w : BitVec 64) (re : Nat) : Statement (.vrcp core w re) := by simp [Statement, Instr.unitNumbers, Instr.wf, okCore] <;> omega

theorem vrsqrt (core : Nat) (w : BitVec 64) (re : Nat) : Statement (.vrsqrt core w re) := by simp [Statement, Instr.unitNumbers, Instr.wf, okCore] <;> omega

theorem vexp2 (core : Nat) (w : BitVec 64) (re : Nat) : Statement (.vexp2 core w re) := by simp [Statement, Instr.unitNumbers, Instr.wf, okCore] <;> omega

theorem vlog2 (core : Nat) (w : BitVec 64) (re : Nat) : Statement (.vlog2 core w re) := by simp [Statement, Instr.unitNumbers, Instr.wf, okCore] <;> omega

theorem vcvt (core : Nat) (w : BitVec 64) (re : Nat) : Statement (.vcvt core w re) := by simp [Statement, Instr.unitNumbers, Instr.wf, okCore] <;> omega

theorem vcmp (core : Nat) (w : BitVec 64) (re : Nat) : Statement (.vcmp core w re) := by simp [Statement, Instr.unitNumbers, Instr.wf, okCore] <;> omega

theorem vsel (core : Nat) (w : BitVec 64) (re : Nat) : Statement (.vsel core w re) := by simp [Statement, Instr.unitNumbers, Instr.wf, okCore] <;> omega

theorem vand (core : Nat) (w : BitVec 64) (re : Nat) : Statement (.vand core w re) := by simp [Statement, Instr.unitNumbers, Instr.wf, okCore] <;> omega

theorem vor (core : Nat) (w : BitVec 64) (re : Nat) : Statement (.vor core w re) := by simp [Statement, Instr.unitNumbers, Instr.wf, okCore] <;> omega

theorem vxor (core : Nat) (w : BitVec 64) (re : Nat) : Statement (.vxor core w re) := by simp [Statement, Instr.unitNumbers, Instr.wf, okCore] <;> omega

theorem vshl (core : Nat) (w : BitVec 64) (re : Nat) : Statement (.vshl core w re) := by simp [Statement, Instr.unitNumbers, Instr.wf, okCore] <;> omega

theorem vshr (core : Nat) (w : BitVec 64) (re : Nat) : Statement (.vshr core w re) := by simp [Statement, Instr.unitNumbers, Instr.wf, okCore] <;> omega

theorem vsra (core : Nat) (w : BitVec 64) (re : Nat) : Statement (.vsra core w re) := by simp [Statement, Instr.unitNumbers, Instr.wf, okCore] <;> omega

theorem viadd (core : Nat) (w : BitVec 64) (re : Nat) : Statement (.viadd core w re) := by simp [Statement, Instr.unitNumbers, Instr.wf, okCore] <;> omega

theorem visub (core : Nat) (w : BitVec 64) (re : Nat) : Statement (.visub core w re) := by simp [Statement, Instr.unitNumbers, Instr.wf, okCore] <;> omega

theorem vimul (core : Nat) (w : BitVec 64) (re : Nat) : Statement (.vimul core w re) := by simp [Statement, Instr.unitNumbers, Instr.wf, okCore] <;> omega

theorem vmov (core : Nat) (w : BitVec 64) (re : Nat) : Statement (.vmov core w re) := by simp [Statement, Instr.unitNumbers, Instr.wf, okCore] <;> omega

theorem vbcast (core : Nat) (w : BitVec 64) (re : Nat) : Statement (.vbcast core w re) := by simp [Statement, Instr.unitNumbers, Instr.wf, okCore] <;> omega

theorem vidx (core : Nat) (w : BitVec 64) (re : Nat) : Statement (.vidx core w re) := by simp [Statement, Instr.unitNumbers, Instr.wf, okCore] <;> omega

theorem vperm (core : Nat) (w : BitVec 64) (re : Nat) : Statement (.vperm core w re) := by simp [Statement, Instr.unitNumbers, Instr.wf, okCore] <;> omega

theorem vslide (core : Nat) (w : BitVec 64) (re : Nat) : Statement (.vslide core w re) := by simp [Statement, Instr.unitNumbers, Instr.wf, okCore] <;> omega

theorem vhsum (core : Nat) (w : BitVec 64) (re : Nat) : Statement (.vhsum core w re) := by simp [Statement, Instr.unitNumbers, Instr.wf, okCore] <;> omega

theorem vhmax (core : Nat) (w : BitVec 64) (re : Nat) : Statement (.vhmax core w re) := by simp [Statement, Instr.unitNumbers, Instr.wf, okCore] <;> omega

theorem mlogic (core : Nat) (w : BitVec 64) (re : Nat) : Statement (.mlogic core w re) := by simp [Statement, Instr.unitNumbers, Instr.wf, okCore] <;> omega

theorem mfirst (core : Nat) (w : BitVec 64) (re : Nat) : Statement (.mfirst core w re) := by simp [Statement, Instr.unitNumbers, Instr.wf, okCore] <;> omega

theorem vld (core : Nat) (w : BitVec 64) : Statement (.vld core w) := by simp [Statement, Instr.unitNumbers, Instr.wf, okCore] <;> omega

theorem vloadReturn (core vd : Nat) : Statement (.vloadReturn core vd) := by simp [Statement, Instr.unitNumbers, Instr.wf, okCore, okReg] <;> omega

theorem vst (core : Nat) (w : BitVec 64) : Statement (.vst core w) := by simp [Statement, Instr.unitNumbers, Instr.wf, okCore] <;> omega

theorem vgather (core : Nat) (w : BitVec 64) : Statement (.vgather core w) := by simp [Statement, Instr.unitNumbers, Instr.wf, okCore] <;> omega

theorem vscatter (core : Nat) (w : BitVec 64) : Statement (.vscatter core w) := by simp [Statement, Instr.unitNumbers, Instr.wf, okCore] <;> omega

theorem slpop (core : Nat) (w : BitVec 64) : Statement (.slpop core w) := by simp [Statement, Instr.unitNumbers, Instr.wf, okCore] <;> omega

theorem slinfo (core : Nat) (w : BitVec 64) : Statement (.slinfo core w) := by simp [Statement, Instr.unitNumbers, Instr.wf, okCore] <;> omega

theorem racc (core : Nat) (w : BitVec 64) : Statement (.racc core w) := by simp [Statement, Instr.unitNumbers, Instr.wf, okCore] <;> omega

theorem rget (core : Nat) (w : BitVec 64) : Statement (.rget core w) := by simp [Statement, Instr.unitNumbers, Instr.wf, okCore] <;> omega

theorem rclr (core : Nat) (w : BitVec 64) : Statement (.rclr core w) := by simp [Statement, Instr.unitNumbers, Instr.wf, okCore] <;> omega

theorem rnorm (core : Nat) (w : BitVec 64) : Statement (.rnorm core w) := by simp [Statement, Instr.unitNumbers, Instr.wf, okCore] <;> omega

theorem sli (core : Nat) (w : BitVec 64) : Statement (.sli core w) := by simp [Statement, Instr.unitNumbers, Instr.wf, okCore] <;> omega

theorem slih (core : Nat) (w : BitVec 64) : Statement (.slih core w) := by simp [Statement, Instr.unitNumbers, Instr.wf, okCore] <;> omega

theorem sadd (core : Nat) (w : BitVec 64) : Statement (.sadd core w) := by simp [Statement, Instr.unitNumbers, Instr.wf, okCore] <;> omega

theorem saddi (core : Nat) (w : BitVec 64) : Statement (.saddi core w) := by simp [Statement, Instr.unitNumbers, Instr.wf, okCore] <;> omega

theorem ssub (core : Nat) (w : BitVec 64) : Statement (.ssub core w) := by simp [Statement, Instr.unitNumbers, Instr.wf, okCore] <;> omega

theorem smul (core : Nat) (w : BitVec 64) : Statement (.smul core w) := by simp [Statement, Instr.unitNumbers, Instr.wf, okCore] <;> omega

theorem sshli (core : Nat) (w : BitVec 64) : Statement (.sshli core w) := by simp [Statement, Instr.unitNumbers, Instr.wf, okCore] <;> omega

theorem sshri (core : Nat) (w : BitVec 64) : Statement (.sshri core w) := by simp [Statement, Instr.unitNumbers, Instr.wf, okCore] <;> omega

theorem sand (core : Nat) (w : BitVec 64) : Statement (.sand core w) := by simp [Statement, Instr.unitNumbers, Instr.wf, okCore] <;> omega

theorem slt (core : Nat) (w : BitVec 64) : Statement (.slt core w) := by simp [Statement, Instr.unitNumbers, Instr.wf, okCore] <;> omega

theorem seqEq (core : Nat) (w : BitVec 64) : Statement (.seqEq core w) := by simp [Statement, Instr.unitNumbers, Instr.wf, okCore] <;> omega

theorem smovv (core : Nat) (w : BitVec 64) : Statement (.smovv core w) := by simp [Statement, Instr.unitNumbers, Instr.wf, okCore] <;> omega

theorem bnz (core : Nat) (w : BitVec 64) : Statement (.bnz core w) := by simp [Statement, Instr.unitNumbers, Instr.wf, okCore] <;> omega

theorem bz (core : Nat) (w : BitVec 64) : Statement (.bz core w) := by simp [Statement, Instr.unitNumbers, Instr.wf, okCore] <;> omega

theorem vend (core : Nat) (w : BitVec 64) : Statement (.vend core w) := by simp [Statement, Instr.unitNumbers, Instr.wf, okCore] <;> omega

theorem sflags (core : Nat) (w : BitVec 64) : Statement (.sflags core w) := by simp [Statement, Instr.unitNumbers, Instr.wf, okCore] <;> omega

theorem vecIllegal (core : Nat) (w : BitVec 64) : Statement (.vecIllegal core w) := by simp [Statement, Instr.unitNumbers, Instr.wf, okCore] <;> omega

theorem insnLimitHit (core : Nat) : Statement (.insnLimitHit core) := by simp [Statement, Instr.unitNumbers, Instr.wf, okCore] <;> omega

theorem llcRead (src : Requester) (addr len : Nat) (pin : Bool) (errs : ReadErrs) : Statement (.llcRead src addr len pin errs) := by simp [Statement, Instr.unitNumbers]

theorem llcWrite (src : Requester) (addr : Nat) (data : List Byte) (pin : Bool) : Statement (.llcWrite src addr data pin) := by simp [Statement, Instr.unitNumbers]

theorem llcFill (line : Nat) : Statement (.llcFill line) := by simp [Statement, Instr.unitNumbers]

theorem slabAccess (owner requester off len : Nat) (data : Option (List Byte)) : Statement (.slabAccess owner requester off len data) := by simp [Statement, Instr.unitNumbers, Instr.wf, okCore] <;> omega

theorem rangePin (line count : Nat) : Statement (.rangePin line count) := by simp [Statement, Instr.unitNumbers]

theorem rangeUnpin (line count : Nat) : Statement (.rangeUnpin line count) := by simp [Statement, Instr.unitNumbers]

theorem rangeDead (line count : Nat) : Statement (.rangeDead line count) := by simp [Statement, Instr.unitNumbers]

theorem rangeClean (line count : Nat) : Statement (.rangeClean line count) := by simp [Statement, Instr.unitNumbers]

theorem rangeOpDone : Statement (.rangeOpDone) := by simp [Statement, Instr.unitNumbers]

theorem scrubPass (level inst corrected : Nat) (bad : List Nat) : Statement (.scrubPass level inst corrected bad) := by simp [Statement, Instr.unitNumbers]

theorem errorRingWrite : Statement (.errorRingWrite) := by simp [Statement, Instr.unitNumbers]

theorem logFlashWrite : Statement (.logFlashWrite) := by simp [Statement, Instr.unitNumbers]

theorem dmaChStart (core ch : Nat) (addr : BitVec 64) : Statement (.dmaChStart core ch addr) := by simp [Statement, Instr.unitNumbers, Instr.wf, okChan, okCore] <;> omega

theorem dmaRunStart (core : Nat) : Statement (.dmaRunStart core) := by simp [Statement, Instr.unitNumbers, Instr.wf, okCore] <;> omega

theorem dmaCopy (core : Nat) : Statement (.dmaCopy core) := by simp [Statement, Instr.unitNumbers, Instr.wf, okCore] <;> omega

theorem dmaFill (core : Nat) : Statement (.dmaFill core) := by simp [Statement, Instr.unitNumbers, Instr.wf, okCore] <;> omega

theorem dmaPin (core : Nat) : Statement (.dmaPin core) := by simp [Statement, Instr.unitNumbers, Instr.wf, okCore] <;> omega

theorem dmaUnpin (core : Nat) : Statement (.dmaUnpin core) := by simp [Statement, Instr.unitNumbers, Instr.wf, okCore] <;> omega

theorem dmaDead (core : Nat) : Statement (.dmaDead core) := by simp [Statement, Instr.unitNumbers, Instr.wf, okCore] <;> omega

theorem dmaClean (core : Nat) : Statement (.dmaClean core) := by simp [Statement, Instr.unitNumbers, Instr.wf, okCore] <;> omega

theorem dmaNop (core : Nat) : Statement (.dmaNop core) := by simp [Statement, Instr.unitNumbers, Instr.wf, okCore] <;> omega

theorem dmaDescComplete (core : Nat) : Statement (.dmaDescComplete core) := by simp [Statement, Instr.unitNumbers, Instr.wf, okCore] <;> omega

theorem countdownExpire (core ch : Nat) : Statement (.countdownExpire core ch) := by simp [Statement, Instr.unitNumbers, Instr.wf, okChan, okCore] <;> omega

theorem collArrive (group collSeq : Nat) (info : RankInfo) : Statement (.collArrive group collSeq info) := by simp [Statement, Instr.unitNumbers]

theorem collStart (group collSeq : Nat) (members : List Nat) (vote elems : Nat) (table : List RankInfo) : Statement (.collStart group collSeq members vote elems table) := by simp [Statement, Instr.unitNumbers]

theorem collData (group collSeq chunk : Nat) (gather : Bool) (off : Nat) (data : List Byte) : Statement (.collData group collSeq chunk gather off data) := by simp [Statement, Instr.unitNumbers]

theorem collResult (group collSeq off : Nat) (data : List Byte) : Statement (.collResult group collSeq off data) := by simp [Statement, Instr.unitNumbers]

theorem fpMsg (src : Nat) (rows : List (Nat × BitVec 64)) : Statement (.fpMsg src rows) := by simp [Statement, Instr.unitNumbers, Instr.wf, okRank] <;> omega

theorem bisect (src row first len : Nat) (fps : List (BitVec 64)) : Statement (.bisect src row first len fps) := by simp [Statement, Instr.unitNumbers, Instr.wf, okRank, okRow] <;> omega

theorem stragglerDeadline (group collSeq : Nat) : Statement (.stragglerDeadline group collSeq) := by simp [Statement, Instr.unitNumbers]

theorem peerLostDeadline (group collSeq : Nat) : Statement (.peerLostDeadline group collSeq) := by simp [Statement, Instr.unitNumbers]

theorem fordHello (hdr : FlitHdr) (pairKey : BitVec 64) (side : Bool) : Statement (.fordHello hdr pairKey side) := by simp [Statement, Instr.unitNumbers]

theorem fordWrite (hdr : FlitHdr) (addr : Nat) (data : List Byte) : Statement (.fordWrite hdr addr data) := by simp [Statement, Instr.unitNumbers]

theorem fordWake (hdr : FlitHdr) (entry : List Byte) : Statement (.fordWake hdr entry) := by simp [Statement, Instr.unitNumbers]

theorem fordFlags (hdr : FlitHdr) (row : Nat) (flags : BitVec 8) : Statement (.fordFlags hdr row flags) := by simp [Statement, Instr.unitNumbers, Instr.wf, okRow] <;> omega

theorem fordVote (hdr : FlitHdr) (result : Nat) : Statement (.fordVote hdr result) := by simp [Statement, Instr.unitNumbers]

theorem fordAck (hdr : FlitHdr) : Statement (.fordAck hdr) := by simp [Statement, Instr.unitNumbers]

theorem fordColl (hdr : FlitHdr) (data : List Byte) : Statement (.fordColl hdr data) := by simp [Statement, Instr.unitNumbers]

theorem fordGoodbye (hdr : FlitHdr) : Statement (.fordGoodbye hdr) := by simp [Statement, Instr.unitNumbers]

theorem fordIdle (hdr : FlitHdr) : Statement (.fordIdle hdr) := by simp [Statement, Instr.unitNumbers]

theorem fordReplayTimeout : Statement (.fordReplayTimeout) := by simp [Statement, Instr.unitNumbers]

theorem fordIdleTimer : Statement (.fordIdleTimer) := by simp [Statement, Instr.unitNumbers]

theorem fordSilenceTimeout : Statement (.fordSilenceTimeout) := by simp [Statement, Instr.unitNumbers]

theorem fordRetrainTimer (trained : Bool) : Statement (.fordRetrainTimer trained) := by simp [Statement, Instr.unitNumbers]

theorem meterSample (energy coreMilliamps : Nat) : Statement (.meterSample energy coreMilliamps) := by simp [Statement, Instr.unitNumbers]

theorem dvfsStepInForce : Statement (.dvfsStepInForce) := by simp [Statement, Instr.unitNumbers]

theorem droopDetect : Statement (.droopDetect) := by simp [Statement, Instr.unitNumbers]

theorem droopRelease : Statement (.droopRelease) := by simp [Statement, Instr.unitNumbers]

theorem tempSample (junction memory : List Int) : Statement (.tempSample junction memory) := by simp [Statement, Instr.unitNumbers]

theorem railSample (readings : List (Nat × Nat)) : Statement (.railSample readings) := by simp [Statement, Instr.unitNumbers]

theorem thermalTrip (point : Nat) : Statement (.thermalTrip point) := by simp [Statement, Instr.unitNumbers, Instr.wf, okPoint] <;> omega

theorem slackEntryDone : Statement (.slackEntryDone) := by simp [Statement, Instr.unitNumbers]

theorem slackWakeEnd (resends : Nat) (late : List (Nat × Nat)) : Statement (.slackWakeEnd resends late) := by simp [Statement, Instr.unitNumbers]

theorem flowOkDeassert : Statement (.flowOkDeassert) := by simp [Statement, Instr.unitNumbers]

theorem coolantHoldTimeout : Statement (.coolantHoldTimeout) := by simp [Statement, Instr.unitNumbers]

theorem coolantResume (resends : Nat) (late : List (Nat × Nat)) : Statement (.coolantResume resends late) := by simp [Statement, Instr.unitNumbers]

theorem ledgerRecordWrite : Statement (.ledgerRecordWrite) := by simp [Statement, Instr.unitNumbers]

theorem txnWatchdogExpire (unit inst addr : Nat) : Statement (.txnWatchdogExpire unit inst addr) := by simp [Statement, Instr.unitNumbers]

theorem livenessTimeout (unit inst : Nat) : Statement (.livenessTimeout unit inst) := by simp [Statement, Instr.unitNumbers]

theorem vlaneFail (shoal : Bool) (inst group lane : Nat) : Statement (.vlaneFail shoal inst group lane) := by simp [Statement, Instr.unitNumbers, Instr.wf, okLane, okLaneGroup] <;> omega

theorem oxbowResetDeadline (partition : Nat) : Statement (.oxbowResetDeadline partition) := by simp [Statement, Instr.unitNumbers, Instr.wf, okPart] <;> omega

theorem wakeLogReplay (queue seq : Nat) : Statement (.wakeLogReplay queue seq) := by simp [Statement, Instr.unitNumbers, Instr.wf, okQueue] <;> omega

theorem coreReset (core : Nat) : Statement (.coreReset core) := by simp [Statement, Instr.unitNumbers, Instr.wf, okCore] <;> omega

theorem clusterReset (cluster : Nat) : Statement (.clusterReset cluster) := by simp [Statement, Instr.unitNumbers, Instr.wf, okCluster] <;> omega

theorem partitionReset (partition : Nat) : Statement (.partitionReset partition) := by simp [Statement, Instr.unitNumbers, Instr.wf, okPart] <;> omega

theorem subsystemReset (unit inst : Nat) : Statement (.subsystemReset unit inst) := by simp [Statement, Instr.unitNumbers]

theorem warmReset : Statement (.warmReset) := by simp [Statement, Instr.unitNumbers]

theorem coldReset : Statement (.coldReset) := by simp [Statement, Instr.unitNumbers]

theorem resetComplete (level inst : Nat) : Statement (.resetComplete level inst) := by simp [Statement, Instr.unitNumbers]

theorem headwater (flash : FlashImage) : Statement (.headwater flash) := by simp [Statement, Instr.unitNumbers]

theorem railsAndClocks (failedRails inputMv : Nat) : Statement (.railsAndClocks failedRails inputMv) := by simp [Statement, Instr.unitNumbers]

theorem baseDie (disabled : List (Nat × Nat)) (repairs : Nat) (failUnit : Option Nat) : Statement (.baseDie disabled repairs failUnit) := by simp [Statement, Instr.unitNumbers]

theorem verticalLinks (groups : List LaneTraining) : Statement (.verticalLinks groups) := by simp [Statement, Instr.unitNumbers]

theorem computeAndShoal (failedCores : List Nat) : Statement (.computeAndShoal failedCores) := by simp [Statement, Instr.unitNumbers]

theorem memoryStage (nearFailed deepFailed : List Nat) : Statement (.memoryStage nearFailed deepFailed) := by simp [Statement, Instr.unitNumbers]

theorem freshet (resends : Nat) (late : List (Nat × Nat)) : Statement (.freshet resends late) := by simp [Statement, Instr.unitNumbers]

theorem ethernetAndTide (deadLanes fordDead : List Nat) : Statement (.ethernetAndTide deadLanes fordDead) := by simp [Statement, Instr.unitNumbers]

theorem licences : Statement (.licences) := by simp [Statement, Instr.unitNumbers]

theorem freshetBegin (core chunks : Nat) (hash : List Byte) : Statement (.freshetBegin core chunks hash) := by simp [Statement, Instr.unitNumbers, Instr.wf, okPhys] <;> omega

theorem freshetChunk (core index : Nat) (crc : BitVec 32) (data : List Byte) : Statement (.freshetChunk core index crc data) := by simp [Statement, Instr.unitNumbers, Instr.wf, okPhys] <;> omega

theorem gaugeWdogExpire : Statement (.gaugeWdogExpire) := by simp [Statement, Instr.unitNumbers]

theorem i3cDaa (addr : Nat) : Statement (.i3cDaa addr) := by simp [Statement, Instr.unitNumbers]

theorem setEndpointId (eid : BitVec 8) : Statement (.setEndpointId eid) := by simp [Statement, Instr.unitNumbers]

theorem getEndpointId : Statement (.getEndpointId) := by simp [Statement, Instr.unitNumbers]

theorem getEndpointUuid : Statement (.getEndpointUuid) := by simp [Statement, Instr.unitNumbers]

theorem getMctpVersionSupport (msgType : Nat) : Statement (.getMctpVersionSupport msgType) := by simp [Statement, Instr.unitNumbers]

theorem getMessageTypeSupport : Statement (.getMessageTypeSupport) := by simp [Statement, Instr.unitNumbers]

theorem getTid : Statement (.getTid) := by simp [Statement, Instr.unitNumbers]

theorem getPldmVersion (pldmType : Nat) : Statement (.getPldmVersion pldmType) := by simp [Statement, Instr.unitNumbers]

theorem getPldmTypes : Statement (.getPldmTypes) := by simp [Statement, Instr.unitNumbers]

theorem getPldmCommands (pldmType : Nat) : Statement (.getPldmCommands pldmType) := by simp [Statement, Instr.unitNumbers]

theorem getSensorReading (sensor : Nat) : Statement (.getSensorReading sensor) := by simp [Statement, Instr.unitNumbers]

theorem getPdr (handle : Nat) : Statement (.getPdr handle) := by simp [Statement, Instr.unitNumbers]

theorem getPdrRepositoryInfo : Statement (.getPdrRepositoryInfo) := by simp [Statement, Instr.unitNumbers]

theorem pollForPlatformEventMessage : Statement (.pollForPlatformEventMessage) := by simp [Statement, Instr.unitNumbers]

theorem getFruRecordTableMetadata : Statement (.getFruRecordTableMetadata) := by simp [Statement, Instr.unitNumbers]

theorem getFruRecordTable : Statement (.getFruRecordTable) := by simp [Statement, Instr.unitNumbers]

theorem requestUpdate : Statement (.requestUpdate) := by simp [Statement, Instr.unitNumbers]

theorem passComponentTable (components : List Nat) : Statement (.passComponentTable components) := by simp [Statement, Instr.unitNumbers]

theorem updateComponent (component : Nat) : Statement (.updateComponent component) := by simp [Statement, Instr.unitNumbers]

theorem requestFirmwareData (off : Nat) (data : List Byte) : Statement (.requestFirmwareData off data) := by simp [Statement, Instr.unitNumbers]

theorem transferComplete (result : Nat) : Statement (.transferComplete result) := by simp [Statement, Instr.unitNumbers]

theorem verifyComplete (result : Nat) : Statement (.verifyComplete result) := by simp [Statement, Instr.unitNumbers]

theorem applyComplete (result : Nat) : Statement (.applyComplete result) := by simp [Statement, Instr.unitNumbers]

theorem activateFirmware : Statement (.activateFirmware) := by simp [Statement, Instr.unitNumbers]

theorem getStatus : Statement (.getStatus) := by simp [Statement, Instr.unitNumbers]

theorem cancelUpdate : Statement (.cancelUpdate) := by simp [Statement, Instr.unitNumbers]

theorem cancelUpdateComponent : Statement (.cancelUpdateComponent) := by simp [Statement, Instr.unitNumbers]

theorem getAttestation (nonce : List Byte) : Statement (.getAttestation nonce) := by simp [Statement, Instr.unitNumbers]

theorem getChallenge : Statement (.getChallenge) := by simp [Statement, Instr.unitNumbers]

theorem debugUnlock (token : List Byte) : Statement (.debugUnlock token) := by simp [Statement, Instr.unitNumbers]

theorem sbReset (level inst : Nat) : Statement (.sbReset level inst) := by simp [Statement, Instr.unitNumbers]

theorem sbSlack (wake : Bool) : Statement (.sbSlack wake) := by simp [Statement, Instr.unitNumbers]

theorem readLog (logSeq : Nat) : Statement (.readLog logSeq) := by simp [Statement, Instr.unitNumbers]

theorem readStage (stage : Nat) : Statement (.readStage stage) := by simp [Statement, Instr.unitNumbers]

theorem updateFromStaging (len : Nat) (sha : List Byte) : Statement (.updateFromStaging len sha) := by simp [Statement, Instr.unitNumbers]

theorem updateProgramDone (image : BankImage) (packageOk : Bool) : Statement (.updateProgramDone image packageOk) := by simp [Statement, Instr.unitNumbers]

theorem challengeExpire : Statement (.challengeExpire) := by simp [Statement, Instr.unitNumbers]

theorem jtagInstruction (op : JtagOp) : Statement (.jtagInstruction op) := by simp [Statement, Instr.unitNumbers]

theorem pwrSenseMake : Statement (.pwrSenseMake) := by simp [Statement, Instr.unitNumbers]

theorem pwrSenseBreak : Statement (.pwrSenseBreak) := by simp [Statement, Instr.unitNumbers]

theorem enableAssert : Statement (.enableAssert) := by simp [Statement, Instr.unitNumbers]

theorem enableDeassert : Statement (.enableDeassert) := by simp [Statement, Instr.unitNumbers]

theorem inputUndervoltage : Statement (.inputUndervoltage) := by simp [Statement, Instr.unitNumbers]

theorem inputOvervoltage : Statement (.inputOvervoltage) := by simp [Statement, Instr.unitNumbers]

theorem inputOvercurrent : Statement (.inputOvercurrent) := by simp [Statement, Instr.unitNumbers]

theorem inputRecovered : Statement (.inputRecovered) := by simp [Statement, Instr.unitNumbers]

theorem p3v3AuxLoss : Statement (.p3v3AuxLoss) := by simp [Statement, Instr.unitNumbers]

theorem fordLinkDown : Statement (.fordLinkDown) := by simp [Statement, Instr.unitNumbers]

theorem linkUp : Statement (.linkUp) := by simp [Statement, Instr.unitNumbers]

theorem flowOkAssert : Statement (.flowOkAssert) := by simp [Statement, Instr.unitNumbers]

theorem rdmaAckReceived (qpn psn : Nat) : Statement (.rdmaAckReceived qpn psn) := by simp [Statement, Instr.unitNumbers, Instr.wf, okQpn] <;> omega

theorem rdmaReadResponse (qpn psn : Nat) (data : List Byte) : Statement (.rdmaReadResponse qpn psn data) := by simp [Statement, Instr.unitNumbers]

theorem gaugeRestartDone : Statement (.gaugeRestartDone) := by simp [Statement, Instr.unitNumbers]

end Sys2Proof.Laws.NamedUnits
end

