-- ==== Sys2Proof/Laws/State.lean ====
section
/-! SUPPORT. What each update of State leaves alone, one lemma for each field, and what it reads as afterwards. -/

namespace Sys2Proof.Laws

open Sys2Proof Sys2Proof.Machine

variable (s : State)

/-! ### arriveWeir -/

@[simp] theorem arriveWeir_pending (i : Nat) : (s.arriveWeir i).pending = s.pending := rfl
@[simp] theorem arriveWeir_freeCtr (i : Nat) : (s.arriveWeir i).freeCtr = s.freeCtr := rfl
@[simp] theorem arriveWeir_nowNs (i : Nat) : (s.arriveWeir i).nowNs = s.nowNs := rfl
@[simp] theorem arriveWeir_mem (i : Nat) : (s.arriveWeir i).mem = s.mem := rfl
@[simp] theorem arriveWeir_poison (i : Nat) : (s.arriveWeir i).poison = s.poison := rfl
@[simp] theorem arriveWeir_memKeys (i : Nat) : (s.arriveWeir i).memKeys = s.memKeys := rfl
@[simp] theorem arriveWeir_slabTurn (i : Nat) : (s.arriveWeir i).slabTurn = s.slabTurn := rfl
@[simp] theorem arriveWeir_seqs (i : Nat) : (s.arriveWeir i).seqs = s.seqs := rfl
@[simp] theorem arriveWeir_queues (i : Nat) : (s.arriveWeir i).queues = s.queues := rfl
@[simp] theorem arriveWeir_slots (i : Nat) : (s.arriveWeir i).slots = s.slots := rfl
@[simp] theorem arriveWeir_tide (i : Nat) : (s.arriveWeir i).tide = s.tide := rfl
@[simp] theorem arriveWeir_cores (i : Nat) : (s.arriveWeir i).cores = s.cores := rfl
@[simp] theorem arriveWeir_llc (i : Nat) : (s.arriveWeir i).llc = s.llc := rfl
@[simp] theorem arriveWeir_nt (i : Nat) : (s.arriveWeir i).nt = s.nt := rfl
@[simp] theorem arriveWeir_dt (i : Nat) : (s.arriveWeir i).dt = s.dt := rfl
@[simp] theorem arriveWeir_cod (i : Nat) : (s.arriveWeir i).cod = s.cod := rfl
@[simp] theorem arriveWeir_dlt (i : Nat) : (s.arriveWeir i).dlt = s.dlt := rfl
@[simp] theorem arriveWeir_train (i : Nat) : (s.arriveWeir i).train = s.train := rfl
@[simp] theorem arriveWeir_est (i : Nat) : (s.arriveWeir i).est = s.est := rfl
@[simp] theorem arriveWeir_coll (i : Nat) : (s.arriveWeir i).coll = s.coll := rfl
@[simp] theorem arriveWeir_frd (i : Nat) : (s.arriveWeir i).frd = s.frd := rfl
@[simp] theorem arriveWeir_spw (i : Nat) : (s.arriveWeir i).spw = s.spw := rfl
@[simp] theorem arriveWeir_jui (i : Nat) : (s.arriveWeir i).jui = s.jui := rfl
@[simp] theorem arriveWeir_gau (i : Nat) : (s.arriveWeir i).gau = s.gau := rfl
@[simp] theorem arriveWeir_boot (i : Nat) : (s.arriveWeir i).boot = s.boot := rfl
@[simp] theorem arriveWeir_oxb (i : Nat) : (s.arriveWeir i).oxb = s.oxb := rfl
@[simp] theorem arriveWeir_cap (i : Nat) : (s.arriveWeir i).cap = s.cap := rfl
@[simp] theorem arriveWeir_pins (i : Nat) : (s.arriveWeir i).pins = s.pins := rfl
@[simp] theorem arriveWeir_rst (i : Nat) : (s.arriveWeir i).rst = s.rst := rfl
@[simp] theorem arriveWeir_out (i : Nat) : (s.arriveWeir i).out = s.out := rfl

/-! ### closeWeirs -/

@[simp] theorem closeWeirs_pending : s.closeWeirs.pending = s.pending := rfl
@[simp] theorem closeWeirs_freeCtr : s.closeWeirs.freeCtr = s.freeCtr := rfl
@[simp] theorem closeWeirs_nowNs : s.closeWeirs.nowNs = s.nowNs := rfl
@[simp] theorem closeWeirs_mem : s.closeWeirs.mem = s.mem := rfl
@[simp] theorem closeWeirs_poison : s.closeWeirs.poison = s.poison := rfl
@[simp] theorem closeWeirs_memKeys : s.closeWeirs.memKeys = s.memKeys := rfl
@[simp] theorem closeWeirs_slabTurn : s.closeWeirs.slabTurn = s.slabTurn := rfl
@[simp] theorem closeWeirs_weirs : s.closeWeirs.weirs = s.weirs := rfl
@[simp] theorem closeWeirs_seqs : s.closeWeirs.seqs = s.seqs := rfl
@[simp] theorem closeWeirs_queues : s.closeWeirs.queues = s.queues := rfl
@[simp] theorem closeWeirs_slots : s.closeWeirs.slots = s.slots := rfl
@[simp] theorem closeWeirs_tide : s.closeWeirs.tide = s.tide := rfl
@[simp] theorem closeWeirs_cores : s.closeWeirs.cores = s.cores := rfl
@[simp] theorem closeWeirs_llc : s.closeWeirs.llc = s.llc := rfl
@[simp] theorem closeWeirs_nt : s.closeWeirs.nt = s.nt := rfl
@[simp] theorem closeWeirs_dt : s.closeWeirs.dt = s.dt := rfl
@[simp] theorem closeWeirs_cod : s.closeWeirs.cod = s.cod := rfl
@[simp] theorem closeWeirs_dlt : s.closeWeirs.dlt = s.dlt := rfl
@[simp] theorem closeWeirs_train : s.closeWeirs.train = s.train := rfl
@[simp] theorem closeWeirs_est : s.closeWeirs.est = s.est := rfl
@[simp] theorem closeWeirs_coll : s.closeWeirs.coll = s.coll := rfl
@[simp] theorem closeWeirs_frd : s.closeWeirs.frd = s.frd := rfl
@[simp] theorem closeWeirs_spw : s.closeWeirs.spw = s.spw := rfl
@[simp] theorem closeWeirs_jui : s.closeWeirs.jui = s.jui := rfl
@[simp] theorem closeWeirs_gau : s.closeWeirs.gau = s.gau := rfl
@[simp] theorem closeWeirs_boot : s.closeWeirs.boot = s.boot := rfl
@[simp] theorem closeWeirs_oxb : s.closeWeirs.oxb = s.oxb := rfl
@[simp] theorem closeWeirs_cap : s.closeWeirs.cap = s.cap := rfl
@[simp] theorem closeWeirs_pins : s.closeWeirs.pins = s.pins := rfl
@[simp] theorem closeWeirs_rst : s.closeWeirs.rst = s.rst := rfl
@[simp] theorem closeWeirs_out : s.closeWeirs.out = s.out := rfl

/-! ### armWeir -/

@[simp] theorem armWeir_pending (i t key : Nat) : (s.armWeir i t key).pending = s.pending := rfl
@[simp] theorem armWeir_freeCtr (i t key : Nat) : (s.armWeir i t key).freeCtr = s.freeCtr := rfl
@[simp] theorem armWeir_nowNs (i t key : Nat) : (s.armWeir i t key).nowNs = s.nowNs := rfl
@[simp] theorem armWeir_mem (i t key : Nat) : (s.armWeir i t key).mem = s.mem := rfl
@[simp] theorem armWeir_poison (i t key : Nat) : (s.armWeir i t key).poison = s.poison := rfl
@[simp] theorem armWeir_memKeys (i t key : Nat) : (s.armWeir i t key).memKeys = s.memKeys := rfl
@[simp] theorem armWeir_slabTurn (i t key : Nat) : (s.armWeir i t key).slabTurn = s.slabTurn := rfl
@[simp] theorem armWeir_seqs (i t key : Nat) : (s.armWeir i t key).seqs = s.seqs := rfl
@[simp] theorem armWeir_queues (i t key : Nat) : (s.armWeir i t key).queues = s.queues := rfl
@[simp] theorem armWeir_slots (i t key : Nat) : (s.armWeir i t key).slots = s.slots := rfl
@[simp] theorem armWeir_tide (i t key : Nat) : (s.armWeir i t key).tide = s.tide := rfl
@[simp] theorem armWeir_cores (i t key : Nat) : (s.armWeir i t key).cores = s.cores := rfl
@[simp] theorem armWeir_llc (i t key : Nat) : (s.armWeir i t key).llc = s.llc := rfl
@[simp] theorem armWeir_nt (i t key : Nat) : (s.armWeir i t key).nt = s.nt := rfl
@[simp] theorem armWeir_dt (i t key : Nat) : (s.armWeir i t key).dt = s.dt := rfl
@[simp] theorem armWeir_cod (i t key : Nat) : (s.armWeir i t key).cod = s.cod := rfl
@[simp] theorem armWeir_dlt (i t key : Nat) : (s.armWeir i t key).dlt = s.dlt := rfl
@[simp] theorem armWeir_train (i t key : Nat) : (s.armWeir i t key).train = s.train := rfl
@[simp] theorem armWeir_est (i t key : Nat) : (s.armWeir i t key).est = s.est := rfl
@[simp] theorem armWeir_coll (i t key : Nat) : (s.armWeir i t key).coll = s.coll := rfl
@[simp] theorem armWeir_frd (i t key : Nat) : (s.armWeir i t key).frd = s.frd := rfl
@[simp] theorem armWeir_spw (i t key : Nat) : (s.armWeir i t key).spw = s.spw := rfl
@[simp] theorem armWeir_jui (i t key : Nat) : (s.armWeir i t key).jui = s.jui := rfl
@[simp] theorem armWeir_gau (i t key : Nat) : (s.armWeir i t key).gau = s.gau := rfl
@[simp] theorem armWeir_boot (i t key : Nat) : (s.armWeir i t key).boot = s.boot := rfl
@[simp] theorem armWeir_oxb (i t key : Nat) : (s.armWeir i t key).oxb = s.oxb := rfl
@[simp] theorem armWeir_cap (i t key : Nat) : (s.armWeir i t key).cap = s.cap := rfl
@[simp] theorem armWeir_pins (i t key : Nat) : (s.armWeir i t key).pins = s.pins := rfl
@[simp] theorem armWeir_rst (i t key : Nat) : (s.armWeir i t key).rst = s.rst := rfl
@[simp] theorem armWeir_out (i t key : Nat) : (s.armWeir i t key).out = s.out := rfl

/-! ### modCore -/

@[simp] theorem modCore_pending (c : Nat) (f : CoreSt → CoreSt) : (s.modCore c f).pending = s.pending := rfl
@[simp] theorem modCore_freeCtr (c : Nat) (f : CoreSt → CoreSt) : (s.modCore c f).freeCtr = s.freeCtr := rfl
@[simp] theorem modCore_nowNs (c : Nat) (f : CoreSt → CoreSt) : (s.modCore c f).nowNs = s.nowNs := rfl
@[simp] theorem modCore_mem (c : Nat) (f : CoreSt → CoreSt) : (s.modCore c f).mem = s.mem := rfl
@[simp] theorem modCore_poison (c : Nat) (f : CoreSt → CoreSt) : (s.modCore c f).poison = s.poison := rfl
@[simp] theorem modCore_memKeys (c : Nat) (f : CoreSt → CoreSt) : (s.modCore c f).memKeys = s.memKeys := rfl
@[simp] theorem modCore_slabTurn (c : Nat) (f : CoreSt → CoreSt) : (s.modCore c f).slabTurn = s.slabTurn := rfl
@[simp] theorem modCore_weirs (c : Nat) (f : CoreSt → CoreSt) : (s.modCore c f).weirs = s.weirs := rfl
@[simp] theorem modCore_weirOps (c : Nat) (f : CoreSt → CoreSt) : (s.modCore c f).weirOps = s.weirOps := rfl
@[simp] theorem modCore_seqs (c : Nat) (f : CoreSt → CoreSt) : (s.modCore c f).seqs = s.seqs := rfl
@[simp] theorem modCore_queues (c : Nat) (f : CoreSt → CoreSt) : (s.modCore c f).queues = s.queues := rfl
@[simp] theorem modCore_slots (c : Nat) (f : CoreSt → CoreSt) : (s.modCore c f).slots = s.slots := rfl
@[simp] theorem modCore_tide (c : Nat) (f : CoreSt → CoreSt) : (s.modCore c f).tide = s.tide := rfl
@[simp] theorem modCore_llc (c : Nat) (f : CoreSt → CoreSt) : (s.modCore c f).llc = s.llc := rfl
@[simp] theorem modCore_nt (c : Nat) (f : CoreSt → CoreSt) : (s.modCore c f).nt = s.nt := rfl
@[simp] theorem modCore_dt (c : Nat) (f : CoreSt → CoreSt) : (s.modCore c f).dt = s.dt := rfl
@[simp] theorem modCore_cod (c : Nat) (f : CoreSt → CoreSt) : (s.modCore c f).cod = s.cod := rfl
@[simp] theorem modCore_dlt (c : Nat) (f : CoreSt → CoreSt) : (s.modCore c f).dlt = s.dlt := rfl
@[simp] theorem modCore_train (c : Nat) (f : CoreSt → CoreSt) : (s.modCore c f).train = s.train := rfl
@[simp] theorem modCore_est (c : Nat) (f : CoreSt → CoreSt) : (s.modCore c f).est = s.est := rfl
@[simp] theorem modCore_coll (c : Nat) (f : CoreSt → CoreSt) : (s.modCore c f).coll = s.coll := rfl
@[simp] theorem modCore_frd (c : Nat) (f : CoreSt → CoreSt) : (s.modCore c f).frd = s.frd := rfl
@[simp] theorem modCore_spw (c : Nat) (f : CoreSt → CoreSt) : (s.modCore c f).spw = s.spw := rfl
@[simp] theorem modCore_jui (c : Nat) (f : CoreSt → CoreSt) : (s.modCore c f).jui = s.jui := rfl
@[simp] theorem modCore_gau (c : Nat) (f : CoreSt → CoreSt) : (s.modCore c f).gau = s.gau := rfl
@[simp] theorem modCore_boot (c : Nat) (f : CoreSt → CoreSt) : (s.modCore c f).boot = s.boot := rfl
@[simp] theorem modCore_oxb (c : Nat) (f : CoreSt → CoreSt) : (s.modCore c f).oxb = s.oxb := rfl
@[simp] theorem modCore_cap (c : Nat) (f : CoreSt → CoreSt) : (s.modCore c f).cap = s.cap := rfl
@[simp] theorem modCore_pins (c : Nat) (f : CoreSt → CoreSt) : (s.modCore c f).pins = s.pins := rfl
@[simp] theorem modCore_rst (c : Nat) (f : CoreSt → CoreSt) : (s.modCore c f).rst = s.rst := rfl
@[simp] theorem modCore_out (c : Nat) (f : CoreSt → CoreSt) : (s.modCore c f).out = s.out := rfl

/-! ### modVec -/

@[simp] theorem modVec_pending (c : Nat) (f : VecSt → VecSt) : (s.modVec c f).pending = s.pending := rfl
@[simp] theorem modVec_freeCtr (c : Nat) (f : VecSt → VecSt) : (s.modVec c f).freeCtr = s.freeCtr := rfl
@[simp] theorem modVec_nowNs (c : Nat) (f : VecSt → VecSt) : (s.modVec c f).nowNs = s.nowNs := rfl
@[simp] theorem modVec_mem (c : Nat) (f : VecSt → VecSt) : (s.modVec c f).mem = s.mem := rfl
@[simp] theorem modVec_poison (c : Nat) (f : VecSt → VecSt) : (s.modVec c f).poison = s.poison := rfl
@[simp] theorem modVec_memKeys (c : Nat) (f : VecSt → VecSt) : (s.modVec c f).memKeys = s.memKeys := rfl
@[simp] theorem modVec_slabTurn (c : Nat) (f : VecSt → VecSt) : (s.modVec c f).slabTurn = s.slabTurn := rfl
@[simp] theorem modVec_weirs (c : Nat) (f : VecSt → VecSt) : (s.modVec c f).weirs = s.weirs := rfl
@[simp] theorem modVec_weirOps (c : Nat) (f : VecSt → VecSt) : (s.modVec c f).weirOps = s.weirOps := rfl
@[simp] theorem modVec_seqs (c : Nat) (f : VecSt → VecSt) : (s.modVec c f).seqs = s.seqs := rfl
@[simp] theorem modVec_queues (c : Nat) (f : VecSt → VecSt) : (s.modVec c f).queues = s.queues := rfl
@[simp] theorem modVec_slots (c : Nat) (f : VecSt → VecSt) : (s.modVec c f).slots = s.slots := rfl
@[simp] theorem modVec_tide (c : Nat) (f : VecSt → VecSt) : (s.modVec c f).tide = s.tide := rfl
@[simp] theorem modVec_llc (c : Nat) (f : VecSt → VecSt) : (s.modVec c f).llc = s.llc := rfl
@[simp] theorem modVec_nt (c : Nat) (f : VecSt → VecSt) : (s.modVec c f).nt = s.nt := rfl
@[simp] theorem modVec_dt (c : Nat) (f : VecSt → VecSt) : (s.modVec c f).dt = s.dt := rfl
@[simp] theorem modVec_cod (c : Nat) (f : VecSt → VecSt) : (s.modVec c f).cod = s.cod := rfl
@[simp] theorem modVec_dlt (c : Nat) (f : VecSt → VecSt) : (s.modVec c f).dlt = s.dlt := rfl
@[simp] theorem modVec_train (c : Nat) (f : VecSt → VecSt) : (s.modVec c f).train = s.train := rfl
@[simp] theorem modVec_est (c : Nat) (f : VecSt → VecSt) : (s.modVec c f).est = s.est := rfl
@[simp] theorem modVec_coll (c : Nat) (f : VecSt → VecSt) : (s.modVec c f).coll = s.coll := rfl
@[simp] theorem modVec_frd (c : Nat) (f : VecSt → VecSt) : (s.modVec c f).frd = s.frd := rfl
@[simp] theorem modVec_spw (c : Nat) (f : VecSt → VecSt) : (s.modVec c f).spw = s.spw := rfl
@[simp] theorem modVec_jui (c : Nat) (f : VecSt → VecSt) : (s.modVec c f).jui = s.jui := rfl
@[simp] theorem modVec_gau (c : Nat) (f : VecSt → VecSt) : (s.modVec c f).gau = s.gau := rfl
@[simp] theorem modVec_boot (c : Nat) (f : VecSt → VecSt) : (s.modVec c f).boot = s.boot := rfl
@[simp] theorem modVec_oxb (c : Nat) (f : VecSt → VecSt) : (s.modVec c f).oxb = s.oxb := rfl
@[simp] theorem modVec_cap (c : Nat) (f : VecSt → VecSt) : (s.modVec c f).cap = s.cap := rfl
@[simp] theorem modVec_pins (c : Nat) (f : VecSt → VecSt) : (s.modVec c f).pins = s.pins := rfl
@[simp] theorem modVec_rst (c : Nat) (f : VecSt → VecSt) : (s.modVec c f).rst = s.rst := rfl
@[simp] theorem modVec_out (c : Nat) (f : VecSt → VecSt) : (s.modVec c f).out = s.out := rfl

/-! ### modMx -/

@[simp] theorem modMx_pending (c : Nat) (f : MxSt → MxSt) : (s.modMx c f).pending = s.pending := rfl
@[simp] theorem modMx_freeCtr (c : Nat) (f : MxSt → MxSt) : (s.modMx c f).freeCtr = s.freeCtr := rfl
@[simp] theorem modMx_nowNs (c : Nat) (f : MxSt → MxSt) : (s.modMx c f).nowNs = s.nowNs := rfl
@[simp] theorem modMx_mem (c : Nat) (f : MxSt → MxSt) : (s.modMx c f).mem = s.mem := rfl
@[simp] theorem modMx_poison (c : Nat) (f : MxSt → MxSt) : (s.modMx c f).poison = s.poison := rfl
@[simp] theorem modMx_memKeys (c : Nat) (f : MxSt → MxSt) : (s.modMx c f).memKeys = s.memKeys := rfl
@[simp] theorem modMx_slabTurn (c : Nat) (f : MxSt → MxSt) : (s.modMx c f).slabTurn = s.slabTurn := rfl
@[simp] theorem modMx_weirs (c : Nat) (f : MxSt → MxSt) : (s.modMx c f).weirs = s.weirs := rfl
@[simp] theorem modMx_weirOps (c : Nat) (f : MxSt → MxSt) : (s.modMx c f).weirOps = s.weirOps := rfl
@[simp] theorem modMx_seqs (c : Nat) (f : MxSt → MxSt) : (s.modMx c f).seqs = s.seqs := rfl
@[simp] theorem modMx_queues (c : Nat) (f : MxSt → MxSt) : (s.modMx c f).queues = s.queues := rfl
@[simp] theorem modMx_slots (c : Nat) (f : MxSt → MxSt) : (s.modMx c f).slots = s.slots := rfl
@[simp] theorem modMx_tide (c : Nat) (f : MxSt → MxSt) : (s.modMx c f).tide = s.tide := rfl
@[simp] theorem modMx_llc (c : Nat) (f : MxSt → MxSt) : (s.modMx c f).llc = s.llc := rfl
@[simp] theorem modMx_nt (c : Nat) (f : MxSt → MxSt) : (s.modMx c f).nt = s.nt := rfl
@[simp] theorem modMx_dt (c : Nat) (f : MxSt → MxSt) : (s.modMx c f).dt = s.dt := rfl
@[simp] theorem modMx_cod (c : Nat) (f : MxSt → MxSt) : (s.modMx c f).cod = s.cod := rfl
@[simp] theorem modMx_dlt (c : Nat) (f : MxSt → MxSt) : (s.modMx c f).dlt = s.dlt := rfl
@[simp] theorem modMx_train (c : Nat) (f : MxSt → MxSt) : (s.modMx c f).train = s.train := rfl
@[simp] theorem modMx_est (c : Nat) (f : MxSt → MxSt) : (s.modMx c f).est = s.est := rfl
@[simp] theorem modMx_coll (c : Nat) (f : MxSt → MxSt) : (s.modMx c f).coll = s.coll := rfl
@[simp] theorem modMx_frd (c : Nat) (f : MxSt → MxSt) : (s.modMx c f).frd = s.frd := rfl
@[simp] theorem modMx_spw (c : Nat) (f : MxSt → MxSt) : (s.modMx c f).spw = s.spw := rfl
@[simp] theorem modMx_jui (c : Nat) (f : MxSt → MxSt) : (s.modMx c f).jui = s.jui := rfl
@[simp] theorem modMx_gau (c : Nat) (f : MxSt → MxSt) : (s.modMx c f).gau = s.gau := rfl
@[simp] theorem modMx_boot (c : Nat) (f : MxSt → MxSt) : (s.modMx c f).boot = s.boot := rfl
@[simp] theorem modMx_oxb (c : Nat) (f : MxSt → MxSt) : (s.modMx c f).oxb = s.oxb := rfl
@[simp] theorem modMx_cap (c : Nat) (f : MxSt → MxSt) : (s.modMx c f).cap = s.cap := rfl
@[simp] theorem modMx_pins (c : Nat) (f : MxSt → MxSt) : (s.modMx c f).pins = s.pins := rfl
@[simp] theorem modMx_rst (c : Nat) (f : MxSt → MxSt) : (s.modMx c f).rst = s.rst := rfl
@[simp] theorem modMx_out (c : Nat) (f : MxSt → MxSt) : (s.modMx c f).out = s.out := rfl

/-! ### modBsn -/

@[simp] theorem modBsn_pending (c : Nat) (f : BsnSt → BsnSt) : (s.modBsn c f).pending = s.pending := rfl
@[simp] theorem modBsn_freeCtr (c : Nat) (f : BsnSt → BsnSt) : (s.modBsn c f).freeCtr = s.freeCtr := rfl
@[simp] theorem modBsn_nowNs (c : Nat) (f : BsnSt → BsnSt) : (s.modBsn c f).nowNs = s.nowNs := rfl
@[simp] theorem modBsn_mem (c : Nat) (f : BsnSt → BsnSt) : (s.modBsn c f).mem = s.mem := rfl
@[simp] theorem modBsn_poison (c : Nat) (f : BsnSt → BsnSt) : (s.modBsn c f).poison = s.poison := rfl
@[simp] theorem modBsn_memKeys (c : Nat) (f : BsnSt → BsnSt) : (s.modBsn c f).memKeys = s.memKeys := rfl
@[simp] theorem modBsn_slabTurn (c : Nat) (f : BsnSt → BsnSt) : (s.modBsn c f).slabTurn = s.slabTurn := rfl
@[simp] theorem modBsn_weirs (c : Nat) (f : BsnSt → BsnSt) : (s.modBsn c f).weirs = s.weirs := rfl
@[simp] theorem modBsn_weirOps (c : Nat) (f : BsnSt → BsnSt) : (s.modBsn c f).weirOps = s.weirOps := rfl
@[simp] theorem modBsn_seqs (c : Nat) (f : BsnSt → BsnSt) : (s.modBsn c f).seqs = s.seqs := rfl
@[simp] theorem modBsn_queues (c : Nat) (f : BsnSt → BsnSt) : (s.modBsn c f).queues = s.queues := rfl
@[simp] theorem modBsn_slots (c : Nat) (f : BsnSt → BsnSt) : (s.modBsn c f).slots = s.slots := rfl
@[simp] theorem modBsn_tide (c : Nat) (f : BsnSt → BsnSt) : (s.modBsn c f).tide = s.tide := rfl
@[simp] theorem modBsn_llc (c : Nat) (f : BsnSt → BsnSt) : (s.modBsn c f).llc = s.llc := rfl
@[simp] theorem modBsn_nt (c : Nat) (f : BsnSt → BsnSt) : (s.modBsn c f).nt = s.nt := rfl
@[simp] theorem modBsn_dt (c : Nat) (f : BsnSt → BsnSt) : (s.modBsn c f).dt = s.dt := rfl
@[simp] theorem modBsn_cod (c : Nat) (f : BsnSt → BsnSt) : (s.modBsn c f).cod = s.cod := rfl
@[simp] theorem modBsn_dlt (c : Nat) (f : BsnSt → BsnSt) : (s.modBsn c f).dlt = s.dlt := rfl
@[simp] theorem modBsn_train (c : Nat) (f : BsnSt → BsnSt) : (s.modBsn c f).train = s.train := rfl
@[simp] theorem modBsn_est (c : Nat) (f : BsnSt → BsnSt) : (s.modBsn c f).est = s.est := rfl
@[simp] theorem modBsn_coll (c : Nat) (f : BsnSt → BsnSt) : (s.modBsn c f).coll = s.coll := rfl
@[simp] theorem modBsn_frd (c : Nat) (f : BsnSt → BsnSt) : (s.modBsn c f).frd = s.frd := rfl
@[simp] theorem modBsn_spw (c : Nat) (f : BsnSt → BsnSt) : (s.modBsn c f).spw = s.spw := rfl
@[simp] theorem modBsn_jui (c : Nat) (f : BsnSt → BsnSt) : (s.modBsn c f).jui = s.jui := rfl
@[simp] theorem modBsn_gau (c : Nat) (f : BsnSt → BsnSt) : (s.modBsn c f).gau = s.gau := rfl
@[simp] theorem modBsn_boot (c : Nat) (f : BsnSt → BsnSt) : (s.modBsn c f).boot = s.boot := rfl
@[simp] theorem modBsn_oxb (c : Nat) (f : BsnSt → BsnSt) : (s.modBsn c f).oxb = s.oxb := rfl
@[simp] theorem modBsn_cap (c : Nat) (f : BsnSt → BsnSt) : (s.modBsn c f).cap = s.cap := rfl
@[simp] theorem modBsn_pins (c : Nat) (f : BsnSt → BsnSt) : (s.modBsn c f).pins = s.pins := rfl
@[simp] theorem modBsn_rst (c : Nat) (f : BsnSt → BsnSt) : (s.modBsn c f).rst = s.rst := rfl
@[simp] theorem modBsn_out (c : Nat) (f : BsnSt → BsnSt) : (s.modBsn c f).out = s.out := rfl

/-! ### modSlc -/

@[simp] theorem modSlc_pending (c : Nat) (f : SlcSt → SlcSt) : (s.modSlc c f).pending = s.pending := rfl
@[simp] theorem modSlc_freeCtr (c : Nat) (f : SlcSt → SlcSt) : (s.modSlc c f).freeCtr = s.freeCtr := rfl
@[simp] theorem modSlc_nowNs (c : Nat) (f : SlcSt → SlcSt) : (s.modSlc c f).nowNs = s.nowNs := rfl
@[simp] theorem modSlc_mem (c : Nat) (f : SlcSt → SlcSt) : (s.modSlc c f).mem = s.mem := rfl
@[simp] theorem modSlc_poison (c : Nat) (f : SlcSt → SlcSt) : (s.modSlc c f).poison = s.poison := rfl
@[simp] theorem modSlc_memKeys (c : Nat) (f : SlcSt → SlcSt) : (s.modSlc c f).memKeys = s.memKeys := rfl
@[simp] theorem modSlc_slabTurn (c : Nat) (f : SlcSt → SlcSt) : (s.modSlc c f).slabTurn = s.slabTurn := rfl
@[simp] theorem modSlc_weirs (c : Nat) (f : SlcSt → SlcSt) : (s.modSlc c f).weirs = s.weirs := rfl
@[simp] theorem modSlc_weirOps (c : Nat) (f : SlcSt → SlcSt) : (s.modSlc c f).weirOps = s.weirOps := rfl
@[simp] theorem modSlc_seqs (c : Nat) (f : SlcSt → SlcSt) : (s.modSlc c f).seqs = s.seqs := rfl
@[simp] theorem modSlc_queues (c : Nat) (f : SlcSt → SlcSt) : (s.modSlc c f).queues = s.queues := rfl
@[simp] theorem modSlc_slots (c : Nat) (f : SlcSt → SlcSt) : (s.modSlc c f).slots = s.slots := rfl
@[simp] theorem modSlc_tide (c : Nat) (f : SlcSt → SlcSt) : (s.modSlc c f).tide = s.tide := rfl
@[simp] theorem modSlc_llc (c : Nat) (f : SlcSt → SlcSt) : (s.modSlc c f).llc = s.llc := rfl
@[simp] theorem modSlc_nt (c : Nat) (f : SlcSt → SlcSt) : (s.modSlc c f).nt = s.nt := rfl
@[simp] theorem modSlc_dt (c : Nat) (f : SlcSt → SlcSt) : (s.modSlc c f).dt = s.dt := rfl
@[simp] theorem modSlc_cod (c : Nat) (f : SlcSt → SlcSt) : (s.modSlc c f).cod = s.cod := rfl
@[simp] theorem modSlc_dlt (c : Nat) (f : SlcSt → SlcSt) : (s.modSlc c f).dlt = s.dlt := rfl
@[simp] theorem modSlc_train (c : Nat) (f : SlcSt → SlcSt) : (s.modSlc c f).train = s.train := rfl
@[simp] theorem modSlc_est (c : Nat) (f : SlcSt → SlcSt) : (s.modSlc c f).est = s.est := rfl
@[simp] theorem modSlc_coll (c : Nat) (f : SlcSt → SlcSt) : (s.modSlc c f).coll = s.coll := rfl
@[simp] theorem modSlc_frd (c : Nat) (f : SlcSt → SlcSt) : (s.modSlc c f).frd = s.frd := rfl
@[simp] theorem modSlc_spw (c : Nat) (f : SlcSt → SlcSt) : (s.modSlc c f).spw = s.spw := rfl
@[simp] theorem modSlc_jui (c : Nat) (f : SlcSt → SlcSt) : (s.modSlc c f).jui = s.jui := rfl
@[simp] theorem modSlc_gau (c : Nat) (f : SlcSt → SlcSt) : (s.modSlc c f).gau = s.gau := rfl
@[simp] theorem modSlc_boot (c : Nat) (f : SlcSt → SlcSt) : (s.modSlc c f).boot = s.boot := rfl
@[simp] theorem modSlc_oxb (c : Nat) (f : SlcSt → SlcSt) : (s.modSlc c f).oxb = s.oxb := rfl
@[simp] theorem modSlc_cap (c : Nat) (f : SlcSt → SlcSt) : (s.modSlc c f).cap = s.cap := rfl
@[simp] theorem modSlc_pins (c : Nat) (f : SlcSt → SlcSt) : (s.modSlc c f).pins = s.pins := rfl
@[simp] theorem modSlc_rst (c : Nat) (f : SlcSt → SlcSt) : (s.modSlc c f).rst = s.rst := rfl
@[simp] theorem modSlc_out (c : Nat) (f : SlcSt → SlcSt) : (s.modSlc c f).out = s.out := rfl

/-! ### modDma -/

@[simp] theorem modDma_pending (c : Nat) (f : DmaSt → DmaSt) : (s.modDma c f).pending = s.pending := rfl
@[simp] theorem modDma_freeCtr (c : Nat) (f : DmaSt → DmaSt) : (s.modDma c f).freeCtr = s.freeCtr := rfl
@[simp] theorem modDma_nowNs (c : Nat) (f : DmaSt → DmaSt) : (s.modDma c f).nowNs = s.nowNs := rfl
@[simp] theorem modDma_mem (c : Nat) (f : DmaSt → DmaSt) : (s.modDma c f).mem = s.mem := rfl
@[simp] theorem modDma_poison (c : Nat) (f : DmaSt → DmaSt) : (s.modDma c f).poison = s.poison := rfl
@[simp] theorem modDma_memKeys (c : Nat) (f : DmaSt → DmaSt) : (s.modDma c f).memKeys = s.memKeys := rfl
@[simp] theorem modDma_slabTurn (c : Nat) (f : DmaSt → DmaSt) : (s.modDma c f).slabTurn = s.slabTurn := rfl
@[simp] theorem modDma_weirs (c : Nat) (f : DmaSt → DmaSt) : (s.modDma c f).weirs = s.weirs := rfl
@[simp] theorem modDma_weirOps (c : Nat) (f : DmaSt → DmaSt) : (s.modDma c f).weirOps = s.weirOps := rfl
@[simp] theorem modDma_seqs (c : Nat) (f : DmaSt → DmaSt) : (s.modDma c f).seqs = s.seqs := rfl
@[simp] theorem modDma_queues (c : Nat) (f : DmaSt → DmaSt) : (s.modDma c f).queues = s.queues := rfl
@[simp] theorem modDma_slots (c : Nat) (f : DmaSt → DmaSt) : (s.modDma c f).slots = s.slots := rfl
@[simp] theorem modDma_tide (c : Nat) (f : DmaSt → DmaSt) : (s.modDma c f).tide = s.tide := rfl
@[simp] theorem modDma_llc (c : Nat) (f : DmaSt → DmaSt) : (s.modDma c f).llc = s.llc := rfl
@[simp] theorem modDma_nt (c : Nat) (f : DmaSt → DmaSt) : (s.modDma c f).nt = s.nt := rfl
@[simp] theorem modDma_dt (c : Nat) (f : DmaSt → DmaSt) : (s.modDma c f).dt = s.dt := rfl
@[simp] theorem modDma_cod (c : Nat) (f : DmaSt → DmaSt) : (s.modDma c f).cod = s.cod := rfl
@[simp] theorem modDma_dlt (c : Nat) (f : DmaSt → DmaSt) : (s.modDma c f).dlt = s.dlt := rfl
@[simp] theorem modDma_train (c : Nat) (f : DmaSt → DmaSt) : (s.modDma c f).train = s.train := rfl
@[simp] theorem modDma_est (c : Nat) (f : DmaSt → DmaSt) : (s.modDma c f).est = s.est := rfl
@[simp] theorem modDma_coll (c : Nat) (f : DmaSt → DmaSt) : (s.modDma c f).coll = s.coll := rfl
@[simp] theorem modDma_frd (c : Nat) (f : DmaSt → DmaSt) : (s.modDma c f).frd = s.frd := rfl
@[simp] theorem modDma_spw (c : Nat) (f : DmaSt → DmaSt) : (s.modDma c f).spw = s.spw := rfl
@[simp] theorem modDma_jui (c : Nat) (f : DmaSt → DmaSt) : (s.modDma c f).jui = s.jui := rfl
@[simp] theorem modDma_gau (c : Nat) (f : DmaSt → DmaSt) : (s.modDma c f).gau = s.gau := rfl
@[simp] theorem modDma_boot (c : Nat) (f : DmaSt → DmaSt) : (s.modDma c f).boot = s.boot := rfl
@[simp] theorem modDma_oxb (c : Nat) (f : DmaSt → DmaSt) : (s.modDma c f).oxb = s.oxb := rfl
@[simp] theorem modDma_cap (c : Nat) (f : DmaSt → DmaSt) : (s.modDma c f).cap = s.cap := rfl
@[simp] theorem modDma_pins (c : Nat) (f : DmaSt → DmaSt) : (s.modDma c f).pins = s.pins := rfl
@[simp] theorem modDma_rst (c : Nat) (f : DmaSt → DmaSt) : (s.modDma c f).rst = s.rst := rfl
@[simp] theorem modDma_out (c : Nat) (f : DmaSt → DmaSt) : (s.modDma c f).out = s.out := rfl

/-! ### modCh -/

@[simp] theorem modCh_pending (c k : Nat) (f : DmaCh → DmaCh) : (s.modCh c k f).pending = s.pending := rfl
@[simp] theorem modCh_freeCtr (c k : Nat) (f : DmaCh → DmaCh) : (s.modCh c k f).freeCtr = s.freeCtr := rfl
@[simp] theorem modCh_nowNs (c k : Nat) (f : DmaCh → DmaCh) : (s.modCh c k f).nowNs = s.nowNs := rfl
@[simp] theorem modCh_mem (c k : Nat) (f : DmaCh → DmaCh) : (s.modCh c k f).mem = s.mem := rfl
@[simp] theorem modCh_poison (c k : Nat) (f : DmaCh → DmaCh) : (s.modCh c k f).poison = s.poison := rfl
@[simp] theorem modCh_memKeys (c k : Nat) (f : DmaCh → DmaCh) : (s.modCh c k f).memKeys = s.memKeys := rfl
@[simp] theorem modCh_slabTurn (c k : Nat) (f : DmaCh → DmaCh) : (s.modCh c k f).slabTurn = s.slabTurn := rfl
@[simp] theorem modCh_weirs (c k : Nat) (f : DmaCh → DmaCh) : (s.modCh c k f).weirs = s.weirs := rfl
@[simp] theorem modCh_weirOps (c k : Nat) (f : DmaCh → DmaCh) : (s.modCh c k f).weirOps = s.weirOps := rfl
@[simp] theorem modCh_seqs (c k : Nat) (f : DmaCh → DmaCh) : (s.modCh c k f).seqs = s.seqs := rfl
@[simp] theorem modCh_queues (c k : Nat) (f : DmaCh → DmaCh) : (s.modCh c k f).queues = s.queues := rfl
@[simp] theorem modCh_slots (c k : Nat) (f : DmaCh → DmaCh) : (s.modCh c k f).slots = s.slots := rfl
@[simp] theorem modCh_tide (c k : Nat) (f : DmaCh → DmaCh) : (s.modCh c k f).tide = s.tide := rfl
@[simp] theorem modCh_llc (c k : Nat) (f : DmaCh → DmaCh) : (s.modCh c k f).llc = s.llc := rfl
@[simp] theorem modCh_nt (c k : Nat) (f : DmaCh → DmaCh) : (s.modCh c k f).nt = s.nt := rfl
@[simp] theorem modCh_dt (c k : Nat) (f : DmaCh → DmaCh) : (s.modCh c k f).dt = s.dt := rfl
@[simp] theorem modCh_cod (c k : Nat) (f : DmaCh → DmaCh) : (s.modCh c k f).cod = s.cod := rfl
@[simp] theorem modCh_dlt (c k : Nat) (f : DmaCh → DmaCh) : (s.modCh c k f).dlt = s.dlt := rfl
@[simp] theorem modCh_train (c k : Nat) (f : DmaCh → DmaCh) : (s.modCh c k f).train = s.train := rfl
@[simp] theorem modCh_est (c k : Nat) (f : DmaCh → DmaCh) : (s.modCh c k f).est = s.est := rfl
@[simp] theorem modCh_coll (c k : Nat) (f : DmaCh → DmaCh) : (s.modCh c k f).coll = s.coll := rfl
@[simp] theorem modCh_frd (c k : Nat) (f : DmaCh → DmaCh) : (s.modCh c k f).frd = s.frd := rfl
@[simp] theorem modCh_spw (c k : Nat) (f : DmaCh → DmaCh) : (s.modCh c k f).spw = s.spw := rfl
@[simp] theorem modCh_jui (c k : Nat) (f : DmaCh → DmaCh) : (s.modCh c k f).jui = s.jui := rfl
@[simp] theorem modCh_gau (c k : Nat) (f : DmaCh → DmaCh) : (s.modCh c k f).gau = s.gau := rfl
@[simp] theorem modCh_boot (c k : Nat) (f : DmaCh → DmaCh) : (s.modCh c k f).boot = s.boot := rfl
@[simp] theorem modCh_oxb (c k : Nat) (f : DmaCh → DmaCh) : (s.modCh c k f).oxb = s.oxb := rfl
@[simp] theorem modCh_cap (c k : Nat) (f : DmaCh → DmaCh) : (s.modCh c k f).cap = s.cap := rfl
@[simp] theorem modCh_pins (c k : Nat) (f : DmaCh → DmaCh) : (s.modCh c k f).pins = s.pins := rfl
@[simp] theorem modCh_rst (c k : Nat) (f : DmaCh → DmaCh) : (s.modCh c k f).rst = s.rst := rfl
@[simp] theorem modCh_out (c k : Nat) (f : DmaCh → DmaCh) : (s.modCh c k f).out = s.out := rfl

/-! ### modSeq -/

@[simp] theorem modSeq_pending (p : Nat) (f : SeqSt → SeqSt) : (s.modSeq p f).pending = s.pending := rfl
@[simp] theorem modSeq_freeCtr (p : Nat) (f : SeqSt → SeqSt) : (s.modSeq p f).freeCtr = s.freeCtr := rfl
@[simp] theorem modSeq_nowNs (p : Nat) (f : SeqSt → SeqSt) : (s.modSeq p f).nowNs = s.nowNs := rfl
@[simp] theorem modSeq_mem (p : Nat) (f : SeqSt → SeqSt) : (s.modSeq p f).mem = s.mem := rfl
@[simp] theorem modSeq_poison (p : Nat) (f : SeqSt → SeqSt) : (s.modSeq p f).poison = s.poison := rfl
@[simp] theorem modSeq_memKeys (p : Nat) (f : SeqSt → SeqSt) : (s.modSeq p f).memKeys = s.memKeys := rfl
@[simp] theorem modSeq_slabTurn (p : Nat) (f : SeqSt → SeqSt) : (s.modSeq p f).slabTurn = s.slabTurn := rfl
@[simp] theorem modSeq_weirs (p : Nat) (f : SeqSt → SeqSt) : (s.modSeq p f).weirs = s.weirs := rfl
@[simp] theorem modSeq_weirOps (p : Nat) (f : SeqSt → SeqSt) : (s.modSeq p f).weirOps = s.weirOps := rfl
@[simp] theorem modSeq_queues (p : Nat) (f : SeqSt → SeqSt) : (s.modSeq p f).queues = s.queues := rfl
@[simp] theorem modSeq_slots (p : Nat) (f : SeqSt → SeqSt) : (s.modSeq p f).slots = s.slots := rfl
@[simp] theorem modSeq_tide (p : Nat) (f : SeqSt → SeqSt) : (s.modSeq p f).tide = s.tide := rfl
@[simp] theorem modSeq_cores (p : Nat) (f : SeqSt → SeqSt) : (s.modSeq p f).cores = s.cores := rfl
@[simp] theorem modSeq_llc (p : Nat) (f : SeqSt → SeqSt) : (s.modSeq p f).llc = s.llc := rfl
@[simp] theorem modSeq_nt (p : Nat) (f : SeqSt → SeqSt) : (s.modSeq p f).nt = s.nt := rfl
@[simp] theorem modSeq_dt (p : Nat) (f : SeqSt → SeqSt) : (s.modSeq p f).dt = s.dt := rfl
@[simp] theorem modSeq_cod (p : Nat) (f : SeqSt → SeqSt) : (s.modSeq p f).cod = s.cod := rfl
@[simp] theorem modSeq_dlt (p : Nat) (f : SeqSt → SeqSt) : (s.modSeq p f).dlt = s.dlt := rfl
@[simp] theorem modSeq_train (p : Nat) (f : SeqSt → SeqSt) : (s.modSeq p f).train = s.train := rfl
@[simp] theorem modSeq_est (p : Nat) (f : SeqSt → SeqSt) : (s.modSeq p f).est = s.est := rfl
@[simp] theorem modSeq_coll (p : Nat) (f : SeqSt → SeqSt) : (s.modSeq p f).coll = s.coll := rfl
@[simp] theorem modSeq_frd (p : Nat) (f : SeqSt → SeqSt) : (s.modSeq p f).frd = s.frd := rfl
@[simp] theorem modSeq_spw (p : Nat) (f : SeqSt → SeqSt) : (s.modSeq p f).spw = s.spw := rfl
@[simp] theorem modSeq_jui (p : Nat) (f : SeqSt → SeqSt) : (s.modSeq p f).jui = s.jui := rfl
@[simp] theorem modSeq_gau (p : Nat) (f : SeqSt → SeqSt) : (s.modSeq p f).gau = s.gau := rfl
@[simp] theorem modSeq_boot (p : Nat) (f : SeqSt → SeqSt) : (s.modSeq p f).boot = s.boot := rfl
@[simp] theorem modSeq_oxb (p : Nat) (f : SeqSt → SeqSt) : (s.modSeq p f).oxb = s.oxb := rfl
@[simp] theorem modSeq_cap (p : Nat) (f : SeqSt → SeqSt) : (s.modSeq p f).cap = s.cap := rfl
@[simp] theorem modSeq_pins (p : Nat) (f : SeqSt → SeqSt) : (s.modSeq p f).pins = s.pins := rfl
@[simp] theorem modSeq_rst (p : Nat) (f : SeqSt → SeqSt) : (s.modSeq p f).rst = s.rst := rfl
@[simp] theorem modSeq_out (p : Nat) (f : SeqSt → SeqSt) : (s.modSeq p f).out = s.out := rfl

/-! ### modQueue -/

@[simp] theorem modQueue_pending (q : Nat) (f : QueueSt → QueueSt) : (s.modQueue q f).pending = s.pending := rfl
@[simp] theorem modQueue_freeCtr (q : Nat) (f : QueueSt → QueueSt) : (s.modQueue q f).freeCtr = s.freeCtr := rfl
@[simp] theorem modQueue_nowNs (q : Nat) (f : QueueSt → QueueSt) : (s.modQueue q f).nowNs = s.nowNs := rfl
@[simp] theorem modQueue_mem (q : Nat) (f : QueueSt → QueueSt) : (s.modQueue q f).mem = s.mem := rfl
@[simp] theorem modQueue_poison (q : Nat) (f : QueueSt → QueueSt) : (s.modQueue q f).poison = s.poison := rfl
@[simp] theorem modQueue_memKeys (q : Nat) (f : QueueSt → QueueSt) : (s.modQueue q f).memKeys = s.memKeys := rfl
@[simp] theorem modQueue_slabTurn (q : Nat) (f : QueueSt → QueueSt) : (s.modQueue q f).slabTurn = s.slabTurn := rfl
@[simp] theorem modQueue_weirs (q : Nat) (f : QueueSt → QueueSt) : (s.modQueue q f).weirs = s.weirs := rfl
@[simp] theorem modQueue_weirOps (q : Nat) (f : QueueSt → QueueSt) : (s.modQueue q f).weirOps = s.weirOps := rfl
@[simp] theorem modQueue_seqs (q : Nat) (f : QueueSt → QueueSt) : (s.modQueue q f).seqs = s.seqs := rfl
@[simp] theorem modQueue_slots (q : Nat) (f : QueueSt → QueueSt) : (s.modQueue q f).slots = s.slots := rfl
@[simp] theorem modQueue_tide (q : Nat) (f : QueueSt → QueueSt) : (s.modQueue q f).tide = s.tide := rfl
@[simp] theorem modQueue_cores (q : Nat) (f : QueueSt → QueueSt) : (s.modQueue q f).cores = s.cores := rfl
@[simp] theorem modQueue_llc (q : Nat) (f : QueueSt → QueueSt) : (s.modQueue q f).llc = s.llc := rfl
@[simp] theorem modQueue_nt (q : Nat) (f : QueueSt → QueueSt) : (s.modQueue q f).nt = s.nt := rfl
@[simp] theorem modQueue_dt (q : Nat) (f : QueueSt → QueueSt) : (s.modQueue q f).dt = s.dt := rfl
@[simp] theorem modQueue_cod (q : Nat) (f : QueueSt → QueueSt) : (s.modQueue q f).cod = s.cod := rfl
@[simp] theorem modQueue_dlt (q : Nat) (f : QueueSt → QueueSt) : (s.modQueue q f).dlt = s.dlt := rfl
@[simp] theorem modQueue_train (q : Nat) (f : QueueSt → QueueSt) : (s.modQueue q f).train = s.train := rfl
@[simp] theorem modQueue_est (q : Nat) (f : QueueSt → QueueSt) : (s.modQueue q f).est = s.est := rfl
@[simp] theorem modQueue_coll (q : Nat) (f : QueueSt → QueueSt) : (s.modQueue q f).coll = s.coll := rfl
@[simp] theorem modQueue_frd (q : Nat) (f : QueueSt → QueueSt) : (s.modQueue q f).frd = s.frd := rfl
@[simp] theorem modQueue_spw (q : Nat) (f : QueueSt → QueueSt) : (s.modQueue q f).spw = s.spw := rfl
@[simp] theorem modQueue_jui (q : Nat) (f : QueueSt → QueueSt) : (s.modQueue q f).jui = s.jui := rfl
@[simp] theorem modQueue_gau (q : Nat) (f : QueueSt → QueueSt) : (s.modQueue q f).gau = s.gau := rfl
@[simp] theorem modQueue_boot (q : Nat) (f : QueueSt → QueueSt) : (s.modQueue q f).boot = s.boot := rfl
@[simp] theorem modQueue_oxb (q : Nat) (f : QueueSt → QueueSt) : (s.modQueue q f).oxb = s.oxb := rfl
@[simp] theorem modQueue_cap (q : Nat) (f : QueueSt → QueueSt) : (s.modQueue q f).cap = s.cap := rfl
@[simp] theorem modQueue_pins (q : Nat) (f : QueueSt → QueueSt) : (s.modQueue q f).pins = s.pins := rfl
@[simp] theorem modQueue_rst (q : Nat) (f : QueueSt → QueueSt) : (s.modQueue q f).rst = s.rst := rfl
@[simp] theorem modQueue_out (q : Nat) (f : QueueSt → QueueSt) : (s.modQueue q f).out = s.out := rfl

/-! ### modEntry -/

@[simp] theorem modEntry_pending (q n : Nat) (f : WakeEntry → WakeEntry) : (s.modEntry q n f).pending = s.pending := rfl
@[simp] theorem modEntry_freeCtr (q n : Nat) (f : WakeEntry → WakeEntry) : (s.modEntry q n f).freeCtr = s.freeCtr := rfl
@[simp] theorem modEntry_nowNs (q n : Nat) (f : WakeEntry → WakeEntry) : (s.modEntry q n f).nowNs = s.nowNs := rfl
@[simp] theorem modEntry_mem (q n : Nat) (f : WakeEntry → WakeEntry) : (s.modEntry q n f).mem = s.mem := rfl
@[simp] theorem modEntry_poison (q n : Nat) (f : WakeEntry → WakeEntry) : (s.modEntry q n f).poison = s.poison := rfl
@[simp] theorem modEntry_memKeys (q n : Nat) (f : WakeEntry → WakeEntry) : (s.modEntry q n f).memKeys = s.memKeys := rfl
@[simp] theorem modEntry_slabTurn (q n : Nat) (f : WakeEntry → WakeEntry) : (s.modEntry q n f).slabTurn = s.slabTurn := rfl
@[simp] theorem modEntry_weirs (q n : Nat) (f : WakeEntry → WakeEntry) : (s.modEntry q n f).weirs = s.weirs := rfl
@[simp] theorem modEntry_weirOps (q n : Nat) (f : WakeEntry → WakeEntry) : (s.modEntry q n f).weirOps = s.weirOps := rfl
@[simp] theorem modEntry_queues (q n : Nat) (f : WakeEntry → WakeEntry) : (s.modEntry q n f).queues = s.queues := rfl
@[simp] theorem modEntry_slots (q n : Nat) (f : WakeEntry → WakeEntry) : (s.modEntry q n f).slots = s.slots := rfl
@[simp] theorem modEntry_tide (q n : Nat) (f : WakeEntry → WakeEntry) : (s.modEntry q n f).tide = s.tide := rfl
@[simp] theorem modEntry_cores (q n : Nat) (f : WakeEntry → WakeEntry) : (s.modEntry q n f).cores = s.cores := rfl
@[simp] theorem modEntry_llc (q n : Nat) (f : WakeEntry → WakeEntry) : (s.modEntry q n f).llc = s.llc := rfl
@[simp] theorem modEntry_nt (q n : Nat) (f : WakeEntry → WakeEntry) : (s.modEntry q n f).nt = s.nt := rfl
@[simp] theorem modEntry_dt (q n : Nat) (f : WakeEntry → WakeEntry) : (s.modEntry q n f).dt = s.dt := rfl
@[simp] theorem modEntry_cod (q n : Nat) (f : WakeEntry → WakeEntry) : (s.modEntry q n f).cod = s.cod := rfl
@[simp] theorem modEntry_dlt (q n : Nat) (f : WakeEntry → WakeEntry) : (s.modEntry q n f).dlt = s.dlt := rfl
@[simp] theorem modEntry_train (q n : Nat) (f : WakeEntry → WakeEntry) : (s.modEntry q n f).train = s.train := rfl
@[simp] theorem modEntry_est (q n : Nat) (f : WakeEntry → WakeEntry) : (s.modEntry q n f).est = s.est := rfl
@[simp] theorem modEntry_coll (q n : Nat) (f : WakeEntry → WakeEntry) : (s.modEntry q n f).coll = s.coll := rfl
@[simp] theorem modEntry_frd (q n : Nat) (f : WakeEntry → WakeEntry) : (s.modEntry q n f).frd = s.frd := rfl
@[simp] theorem modEntry_spw (q n : Nat) (f : WakeEntry → WakeEntry) : (s.modEntry q n f).spw = s.spw := rfl
@[simp] theorem modEntry_jui (q n : Nat) (f : WakeEntry → WakeEntry) : (s.modEntry q n f).jui = s.jui := rfl
@[simp] theorem modEntry_gau (q n : Nat) (f : WakeEntry → WakeEntry) : (s.modEntry q n f).gau = s.gau := rfl
@[simp] theorem modEntry_boot (q n : Nat) (f : WakeEntry → WakeEntry) : (s.modEntry q n f).boot = s.boot := rfl
@[simp] theorem modEntry_oxb (q n : Nat) (f : WakeEntry → WakeEntry) : (s.modEntry q n f).oxb = s.oxb := rfl
@[simp] theorem modEntry_cap (q n : Nat) (f : WakeEntry → WakeEntry) : (s.modEntry q n f).cap = s.cap := rfl
@[simp] theorem modEntry_pins (q n : Nat) (f : WakeEntry → WakeEntry) : (s.modEntry q n f).pins = s.pins := rfl
@[simp] theorem modEntry_rst (q n : Nat) (f : WakeEntry → WakeEntry) : (s.modEntry q n f).rst = s.rst := rfl
@[simp] theorem modEntry_out (q n : Nat) (f : WakeEntry → WakeEntry) : (s.modEntry q n f).out = s.out := rfl

/-! ### ran -/

@[simp] theorem ran_pending (q n code : Nat) (r : List Byte) (es : List RowEffect) : (s.ran q n code r es).pending = s.pending := rfl
@[simp] theorem ran_freeCtr (q n code : Nat) (r : List Byte) (es : List RowEffect) : (s.ran q n code r es).freeCtr = s.freeCtr := rfl
@[simp] theorem ran_nowNs (q n code : Nat) (r : List Byte) (es : List RowEffect) : (s.ran q n code r es).nowNs = s.nowNs := rfl
@[simp] theorem ran_mem (q n code : Nat) (r : List Byte) (es : List RowEffect) : (s.ran q n code r es).mem = s.mem := rfl
@[simp] theorem ran_poison (q n code : Nat) (r : List Byte) (es : List RowEffect) : (s.ran q n code r es).poison = s.poison := rfl
@[simp] theorem ran_memKeys (q n code : Nat) (r : List Byte) (es : List RowEffect) : (s.ran q n code r es).memKeys = s.memKeys := rfl
@[simp] theorem ran_slabTurn (q n code : Nat) (r : List Byte) (es : List RowEffect) : (s.ran q n code r es).slabTurn = s.slabTurn := rfl
@[simp] theorem ran_weirs (q n code : Nat) (r : List Byte) (es : List RowEffect) : (s.ran q n code r es).weirs = s.weirs := rfl
@[simp] theorem ran_weirOps (q n code : Nat) (r : List Byte) (es : List RowEffect) : (s.ran q n code r es).weirOps = s.weirOps := rfl
@[simp] theorem ran_queues (q n code : Nat) (r : List Byte) (es : List RowEffect) : (s.ran q n code r es).queues = s.queues := rfl
@[simp] theorem ran_slots (q n code : Nat) (r : List Byte) (es : List RowEffect) : (s.ran q n code r es).slots = s.slots := rfl
@[simp] theorem ran_tide (q n code : Nat) (r : List Byte) (es : List RowEffect) : (s.ran q n code r es).tide = s.tide := rfl
@[simp] theorem ran_cores (q n code : Nat) (r : List Byte) (es : List RowEffect) : (s.ran q n code r es).cores = s.cores := rfl
@[simp] theorem ran_llc (q n code : Nat) (r : List Byte) (es : List RowEffect) : (s.ran q n code r es).llc = s.llc := rfl
@[simp] theorem ran_nt (q n code : Nat) (r : List Byte) (es : List RowEffect) : (s.ran q n code r es).nt = s.nt := rfl
@[simp] theorem ran_dt (q n code : Nat) (r : List Byte) (es : List RowEffect) : (s.ran q n code r es).dt = s.dt := rfl
@[simp] theorem ran_cod (q n code : Nat) (r : List Byte) (es : List RowEffect) : (s.ran q n code r es).cod = s.cod := rfl
@[simp] theorem ran_dlt (q n code : Nat) (r : List Byte) (es : List RowEffect) : (s.ran q n code r es).dlt = s.dlt := rfl
@[simp] theorem ran_train (q n code : Nat) (r : List Byte) (es : List RowEffect) : (s.ran q n code r es).train = s.train := rfl
@[simp] theorem ran_est (q n code : Nat) (r : List Byte) (es : List RowEffect) : (s.ran q n code r es).est = s.est := rfl
@[simp] theorem ran_coll (q n code : Nat) (r : List Byte) (es : List RowEffect) : (s.ran q n code r es).coll = s.coll := rfl
@[simp] theorem ran_frd (q n code : Nat) (r : List Byte) (es : List RowEffect) : (s.ran q n code r es).frd = s.frd := rfl
@[simp] theorem ran_spw (q n code : Nat) (r : List Byte) (es : List RowEffect) : (s.ran q n code r es).spw = s.spw := rfl
@[simp] theorem ran_jui (q n code : Nat) (r : List Byte) (es : List RowEffect) : (s.ran q n code r es).jui = s.jui := rfl
@[simp] theorem ran_gau (q n code : Nat) (r : List Byte) (es : List RowEffect) : (s.ran q n code r es).gau = s.gau := rfl
@[simp] theorem ran_boot (q n code : Nat) (r : List Byte) (es : List RowEffect) : (s.ran q n code r es).boot = s.boot := rfl
@[simp] theorem ran_oxb (q n code : Nat) (r : List Byte) (es : List RowEffect) : (s.ran q n code r es).oxb = s.oxb := rfl
@[simp] theorem ran_cap (q n code : Nat) (r : List Byte) (es : List RowEffect) : (s.ran q n code r es).cap = s.cap := rfl
@[simp] theorem ran_pins (q n code : Nat) (r : List Byte) (es : List RowEffect) : (s.ran q n code r es).pins = s.pins := rfl
@[simp] theorem ran_rst (q n code : Nat) (r : List Byte) (es : List RowEffect) : (s.ran q n code r es).rst = s.rst := rfl
@[simp] theorem ran_out (q n code : Nat) (r : List Byte) (es : List RowEffect) : (s.ran q n code r es).out = s.out := rfl

/-! ### modRow -/

@[simp] theorem modRow_pending (r : Nat) (f : NormRow → NormRow) : (s.modRow r f).pending = s.pending := rfl
@[simp] theorem modRow_freeCtr (r : Nat) (f : NormRow → NormRow) : (s.modRow r f).freeCtr = s.freeCtr := rfl
@[simp] theorem modRow_nowNs (r : Nat) (f : NormRow → NormRow) : (s.modRow r f).nowNs = s.nowNs := rfl
@[simp] theorem modRow_mem (r : Nat) (f : NormRow → NormRow) : (s.modRow r f).mem = s.mem := rfl
@[simp] theorem modRow_poison (r : Nat) (f : NormRow → NormRow) : (s.modRow r f).poison = s.poison := rfl
@[simp] theorem modRow_memKeys (r : Nat) (f : NormRow → NormRow) : (s.modRow r f).memKeys = s.memKeys := rfl
@[simp] theorem modRow_slabTurn (r : Nat) (f : NormRow → NormRow) : (s.modRow r f).slabTurn = s.slabTurn := rfl
@[simp] theorem modRow_weirs (r : Nat) (f : NormRow → NormRow) : (s.modRow r f).weirs = s.weirs := rfl
@[simp] theorem modRow_weirOps (r : Nat) (f : NormRow → NormRow) : (s.modRow r f).weirOps = s.weirOps := rfl
@[simp] theorem modRow_seqs (r : Nat) (f : NormRow → NormRow) : (s.modRow r f).seqs = s.seqs := rfl
@[simp] theorem modRow_queues (r : Nat) (f : NormRow → NormRow) : (s.modRow r f).queues = s.queues := rfl
@[simp] theorem modRow_slots (r : Nat) (f : NormRow → NormRow) : (s.modRow r f).slots = s.slots := rfl
@[simp] theorem modRow_tide (r : Nat) (f : NormRow → NormRow) : (s.modRow r f).tide = s.tide := rfl
@[simp] theorem modRow_cores (r : Nat) (f : NormRow → NormRow) : (s.modRow r f).cores = s.cores := rfl
@[simp] theorem modRow_llc (r : Nat) (f : NormRow → NormRow) : (s.modRow r f).llc = s.llc := rfl
@[simp] theorem modRow_nt (r : Nat) (f : NormRow → NormRow) : (s.modRow r f).nt = s.nt := rfl
@[simp] theorem modRow_dt (r : Nat) (f : NormRow → NormRow) : (s.modRow r f).dt = s.dt := rfl
@[simp] theorem modRow_cod (r : Nat) (f : NormRow → NormRow) : (s.modRow r f).cod = s.cod := rfl
@[simp] theorem modRow_dlt (r : Nat) (f : NormRow → NormRow) : (s.modRow r f).dlt = s.dlt := rfl
@[simp] theorem modRow_est (r : Nat) (f : NormRow → NormRow) : (s.modRow r f).est = s.est := rfl
@[simp] theorem modRow_coll (r : Nat) (f : NormRow → NormRow) : (s.modRow r f).coll = s.coll := rfl
@[simp] theorem modRow_frd (r : Nat) (f : NormRow → NormRow) : (s.modRow r f).frd = s.frd := rfl
@[simp] theorem modRow_spw (r : Nat) (f : NormRow → NormRow) : (s.modRow r f).spw = s.spw := rfl
@[simp] theorem modRow_jui (r : Nat) (f : NormRow → NormRow) : (s.modRow r f).jui = s.jui := rfl
@[simp] theorem modRow_gau (r : Nat) (f : NormRow → NormRow) : (s.modRow r f).gau = s.gau := rfl
@[simp] theorem modRow_boot (r : Nat) (f : NormRow → NormRow) : (s.modRow r f).boot = s.boot := rfl
@[simp] theorem modRow_oxb (r : Nat) (f : NormRow → NormRow) : (s.modRow r f).oxb = s.oxb := rfl
@[simp] theorem modRow_cap (r : Nat) (f : NormRow → NormRow) : (s.modRow r f).cap = s.cap := rfl
@[simp] theorem modRow_pins (r : Nat) (f : NormRow → NormRow) : (s.modRow r f).pins = s.pins := rfl
@[simp] theorem modRow_rst (r : Nat) (f : NormRow → NormRow) : (s.modRow r f).rst = s.rst := rfl
@[simp] theorem modRow_out (r : Nat) (f : NormRow → NormRow) : (s.modRow r f).out = s.out := rfl

/-! ### modUpd -/

@[simp] theorem modUpd_pending (p : Nat) (f : UpdSt → UpdSt) : (s.modUpd p f).pending = s.pending := rfl
@[simp] theorem modUpd_freeCtr (p : Nat) (f : UpdSt → UpdSt) : (s.modUpd p f).freeCtr = s.freeCtr := rfl
@[simp] theorem modUpd_nowNs (p : Nat) (f : UpdSt → UpdSt) : (s.modUpd p f).nowNs = s.nowNs := rfl
@[simp] theorem modUpd_mem (p : Nat) (f : UpdSt → UpdSt) : (s.modUpd p f).mem = s.mem := rfl
@[simp] theorem modUpd_poison (p : Nat) (f : UpdSt → UpdSt) : (s.modUpd p f).poison = s.poison := rfl
@[simp] theorem modUpd_memKeys (p : Nat) (f : UpdSt → UpdSt) : (s.modUpd p f).memKeys = s.memKeys := rfl
@[simp] theorem modUpd_slabTurn (p : Nat) (f : UpdSt → UpdSt) : (s.modUpd p f).slabTurn = s.slabTurn := rfl
@[simp] theorem modUpd_weirs (p : Nat) (f : UpdSt → UpdSt) : (s.modUpd p f).weirs = s.weirs := rfl
@[simp] theorem modUpd_weirOps (p : Nat) (f : UpdSt → UpdSt) : (s.modUpd p f).weirOps = s.weirOps := rfl
@[simp] theorem modUpd_seqs (p : Nat) (f : UpdSt → UpdSt) : (s.modUpd p f).seqs = s.seqs := rfl
@[simp] theorem modUpd_queues (p : Nat) (f : UpdSt → UpdSt) : (s.modUpd p f).queues = s.queues := rfl
@[simp] theorem modUpd_slots (p : Nat) (f : UpdSt → UpdSt) : (s.modUpd p f).slots = s.slots := rfl
@[simp] theorem modUpd_tide (p : Nat) (f : UpdSt → UpdSt) : (s.modUpd p f).tide = s.tide := rfl
@[simp] theorem modUpd_cores (p : Nat) (f : UpdSt → UpdSt) : (s.modUpd p f).cores = s.cores := rfl
@[simp] theorem modUpd_llc (p : Nat) (f : UpdSt → UpdSt) : (s.modUpd p f).llc = s.llc := rfl
@[simp] theorem modUpd_nt (p : Nat) (f : UpdSt → UpdSt) : (s.modUpd p f).nt = s.nt := rfl
@[simp] theorem modUpd_dt (p : Nat) (f : UpdSt → UpdSt) : (s.modUpd p f).dt = s.dt := rfl
@[simp] theorem modUpd_cod (p : Nat) (f : UpdSt → UpdSt) : (s.modUpd p f).cod = s.cod := rfl
@[simp] theorem modUpd_dlt (p : Nat) (f : UpdSt → UpdSt) : (s.modUpd p f).dlt = s.dlt := rfl
@[simp] theorem modUpd_est (p : Nat) (f : UpdSt → UpdSt) : (s.modUpd p f).est = s.est := rfl
@[simp] theorem modUpd_coll (p : Nat) (f : UpdSt → UpdSt) : (s.modUpd p f).coll = s.coll := rfl
@[simp] theorem modUpd_frd (p : Nat) (f : UpdSt → UpdSt) : (s.modUpd p f).frd = s.frd := rfl
@[simp] theorem modUpd_spw (p : Nat) (f : UpdSt → UpdSt) : (s.modUpd p f).spw = s.spw := rfl
@[simp] theorem modUpd_jui (p : Nat) (f : UpdSt → UpdSt) : (s.modUpd p f).jui = s.jui := rfl
@[simp] theorem modUpd_gau (p : Nat) (f : UpdSt → UpdSt) : (s.modUpd p f).gau = s.gau := rfl
@[simp] theorem modUpd_boot (p : Nat) (f : UpdSt → UpdSt) : (s.modUpd p f).boot = s.boot := rfl
@[simp] theorem modUpd_oxb (p : Nat) (f : UpdSt → UpdSt) : (s.modUpd p f).oxb = s.oxb := rfl
@[simp] theorem modUpd_cap (p : Nat) (f : UpdSt → UpdSt) : (s.modUpd p f).cap = s.cap := rfl
@[simp] theorem modUpd_pins (p : Nat) (f : UpdSt → UpdSt) : (s.modUpd p f).pins = s.pins := rfl
@[simp] theorem modUpd_rst (p : Nat) (f : UpdSt → UpdSt) : (s.modUpd p f).rst = s.rst := rfl
@[simp] theorem modUpd_out (p : Nat) (f : UpdSt → UpdSt) : (s.modUpd p f).out = s.out := rfl

/-! ### send -/

@[simp] theorem send_pending (m : OutMsg) : (s.send m).pending = s.pending := rfl
@[simp] theorem send_freeCtr (m : OutMsg) : (s.send m).freeCtr = s.freeCtr := rfl
@[simp] theorem send_nowNs (m : OutMsg) : (s.send m).nowNs = s.nowNs := rfl
@[simp] theorem send_mem (m : OutMsg) : (s.send m).mem = s.mem := rfl
@[simp] theorem send_poison (m : OutMsg) : (s.send m).poison = s.poison := rfl
@[simp] theorem send_memKeys (m : OutMsg) : (s.send m).memKeys = s.memKeys := rfl
@[simp] theorem send_slabTurn (m : OutMsg) : (s.send m).slabTurn = s.slabTurn := rfl
@[simp] theorem send_weirs (m : OutMsg) : (s.send m).weirs = s.weirs := rfl
@[simp] theorem send_weirOps (m : OutMsg) : (s.send m).weirOps = s.weirOps := rfl
@[simp] theorem send_seqs (m : OutMsg) : (s.send m).seqs = s.seqs := rfl
@[simp] theorem send_queues (m : OutMsg) : (s.send m).queues = s.queues := rfl
@[simp] theorem send_slots (m : OutMsg) : (s.send m).slots = s.slots := rfl
@[simp] theorem send_tide (m : OutMsg) : (s.send m).tide = s.tide := rfl
@[simp] theorem send_cores (m : OutMsg) : (s.send m).cores = s.cores := rfl
@[simp] theorem send_llc (m : OutMsg) : (s.send m).llc = s.llc := rfl
@[simp] theorem send_nt (m : OutMsg) : (s.send m).nt = s.nt := rfl
@[simp] theorem send_dt (m : OutMsg) : (s.send m).dt = s.dt := rfl
@[simp] theorem send_cod (m : OutMsg) : (s.send m).cod = s.cod := rfl
@[simp] theorem send_dlt (m : OutMsg) : (s.send m).dlt = s.dlt := rfl
@[simp] theorem send_train (m : OutMsg) : (s.send m).train = s.train := rfl
@[simp] theorem send_est (m : OutMsg) : (s.send m).est = s.est := rfl
@[simp] theorem send_coll (m : OutMsg) : (s.send m).coll = s.coll := rfl
@[simp] theorem send_frd (m : OutMsg) : (s.send m).frd = s.frd := rfl
@[simp] theorem send_spw (m : OutMsg) : (s.send m).spw = s.spw := rfl
@[simp] theorem send_jui (m : OutMsg) : (s.send m).jui = s.jui := rfl
@[simp] theorem send_gau (m : OutMsg) : (s.send m).gau = s.gau := rfl
@[simp] theorem send_boot (m : OutMsg) : (s.send m).boot = s.boot := rfl
@[simp] theorem send_oxb (m : OutMsg) : (s.send m).oxb = s.oxb := rfl
@[simp] theorem send_cap (m : OutMsg) : (s.send m).cap = s.cap := rfl
@[simp] theorem send_pins (m : OutMsg) : (s.send m).pins = s.pins := rfl
@[simp] theorem send_rst (m : OutMsg) : (s.send m).rst = s.rst := rfl

/-! ### book -/

@[simp] theorem book_pending (q id cls n : Nat) : (s.book q id cls n).pending = s.pending := rfl
@[simp] theorem book_freeCtr (q id cls n : Nat) : (s.book q id cls n).freeCtr = s.freeCtr := rfl
@[simp] theorem book_nowNs (q id cls n : Nat) : (s.book q id cls n).nowNs = s.nowNs := rfl
@[simp] theorem book_mem (q id cls n : Nat) : (s.book q id cls n).mem = s.mem := rfl
@[simp] theorem book_poison (q id cls n : Nat) : (s.book q id cls n).poison = s.poison := rfl
@[simp] theorem book_memKeys (q id cls n : Nat) : (s.book q id cls n).memKeys = s.memKeys := rfl
@[simp] theorem book_slabTurn (q id cls n : Nat) : (s.book q id cls n).slabTurn = s.slabTurn := rfl
@[simp] theorem book_weirs (q id cls n : Nat) : (s.book q id cls n).weirs = s.weirs := rfl
@[simp] theorem book_weirOps (q id cls n : Nat) : (s.book q id cls n).weirOps = s.weirOps := rfl
@[simp] theorem book_seqs (q id cls n : Nat) : (s.book q id cls n).seqs = s.seqs := rfl
@[simp] theorem book_queues (q id cls n : Nat) : (s.book q id cls n).queues = s.queues := rfl
@[simp] theorem book_slots (q id cls n : Nat) : (s.book q id cls n).slots = s.slots := rfl
@[simp] theorem book_tide (q id cls n : Nat) : (s.book q id cls n).tide = s.tide := rfl
@[simp] theorem book_cores (q id cls n : Nat) : (s.book q id cls n).cores = s.cores := rfl
@[simp] theorem book_llc (q id cls n : Nat) : (s.book q id cls n).llc = s.llc := rfl
@[simp] theorem book_nt (q id cls n : Nat) : (s.book q id cls n).nt = s.nt := rfl
@[simp] theorem book_dt (q id cls n : Nat) : (s.book q id cls n).dt = s.dt := rfl
@[simp] theorem book_cod (q id cls n : Nat) : (s.book q id cls n).cod = s.cod := rfl
@[simp] theorem book_dlt (q id cls n : Nat) : (s.book q id cls n).dlt = s.dlt := rfl
@[simp] theorem book_train (q id cls n : Nat) : (s.book q id cls n).train = s.train := rfl
@[simp] theorem book_est (q id cls n : Nat) : (s.book q id cls n).est = s.est := rfl
@[simp] theorem book_coll (q id cls n : Nat) : (s.book q id cls n).coll = s.coll := rfl
@[simp] theorem book_frd (q id cls n : Nat) : (s.book q id cls n).frd = s.frd := rfl
@[simp] theorem book_spw (q id cls n : Nat) : (s.book q id cls n).spw = s.spw := rfl
@[simp] theorem book_gau (q id cls n : Nat) : (s.book q id cls n).gau = s.gau := rfl
@[simp] theorem book_boot (q id cls n : Nat) : (s.book q id cls n).boot = s.boot := rfl
@[simp] theorem book_oxb (q id cls n : Nat) : (s.book q id cls n).oxb = s.oxb := rfl
@[simp] theorem book_cap (q id cls n : Nat) : (s.book q id cls n).cap = s.cap := rfl
@[simp] theorem book_pins (q id cls n : Nat) : (s.book q id cls n).pins = s.pins := rfl
@[simp] theorem book_rst (q id cls n : Nat) : (s.book q id cls n).rst = s.rst := rfl
@[simp] theorem book_out (q id cls n : Nat) : (s.book q id cls n).out = s.out := rfl

/-! ### bookCmd -/

@[simp] theorem bookCmd_pending (c : Cmd) (cls n : Nat) : (s.bookCmd c cls n).pending = s.pending := rfl
@[simp] theorem bookCmd_freeCtr (c : Cmd) (cls n : Nat) : (s.bookCmd c cls n).freeCtr = s.freeCtr := rfl
@[simp] theorem bookCmd_nowNs (c : Cmd) (cls n : Nat) : (s.bookCmd c cls n).nowNs = s.nowNs := rfl
@[simp] theorem bookCmd_mem (c : Cmd) (cls n : Nat) : (s.bookCmd c cls n).mem = s.mem := rfl
@[simp] theorem bookCmd_poison (c : Cmd) (cls n : Nat) : (s.bookCmd c cls n).poison = s.poison := rfl
@[simp] theorem bookCmd_memKeys (c : Cmd) (cls n : Nat) : (s.bookCmd c cls n).memKeys = s.memKeys := rfl
@[simp] theorem bookCmd_slabTurn (c : Cmd) (cls n : Nat) : (s.bookCmd c cls n).slabTurn = s.slabTurn := rfl
@[simp] theorem bookCmd_weirs (c : Cmd) (cls n : Nat) : (s.bookCmd c cls n).weirs = s.weirs := rfl
@[simp] theorem bookCmd_weirOps (c : Cmd) (cls n : Nat) : (s.bookCmd c cls n).weirOps = s.weirOps := rfl
@[simp] theorem bookCmd_seqs (c : Cmd) (cls n : Nat) : (s.bookCmd c cls n).seqs = s.seqs := rfl
@[simp] theorem bookCmd_queues (c : Cmd) (cls n : Nat) : (s.bookCmd c cls n).queues = s.queues := rfl
@[simp] theorem bookCmd_slots (c : Cmd) (cls n : Nat) : (s.bookCmd c cls n).slots = s.slots := rfl
@[simp] theorem bookCmd_tide (c : Cmd) (cls n : Nat) : (s.bookCmd c cls n).tide = s.tide := rfl
@[simp] theorem bookCmd_cores (c : Cmd) (cls n : Nat) : (s.bookCmd c cls n).cores = s.cores := rfl
@[simp] theorem bookCmd_llc (c : Cmd) (cls n : Nat) : (s.bookCmd c cls n).llc = s.llc := rfl
@[simp] theorem bookCmd_nt (c : Cmd) (cls n : Nat) : (s.bookCmd c cls n).nt = s.nt := rfl
@[simp] theorem bookCmd_dt (c : Cmd) (cls n : Nat) : (s.bookCmd c cls n).dt = s.dt := rfl
@[simp] theorem bookCmd_cod (c : Cmd) (cls n : Nat) : (s.bookCmd c cls n).cod = s.cod := rfl
@[simp] theorem bookCmd_dlt (c : Cmd) (cls n : Nat) : (s.bookCmd c cls n).dlt = s.dlt := rfl
@[simp] theorem bookCmd_train (c : Cmd) (cls n : Nat) : (s.bookCmd c cls n).train = s.train := rfl
@[simp] theorem bookCmd_est (c : Cmd) (cls n : Nat) : (s.bookCmd c cls n).est = s.est := rfl
@[simp] theorem bookCmd_coll (c : Cmd) (cls n : Nat) : (s.bookCmd c cls n).coll = s.coll := rfl
@[simp] theorem bookCmd_frd (c : Cmd) (cls n : Nat) : (s.bookCmd c cls n).frd = s.frd := rfl
@[simp] theorem bookCmd_spw (c : Cmd) (cls n : Nat) : (s.bookCmd c cls n).spw = s.spw := rfl
@[simp] theorem bookCmd_gau (c : Cmd) (cls n : Nat) : (s.bookCmd c cls n).gau = s.gau := rfl
@[simp] theorem bookCmd_boot (c : Cmd) (cls n : Nat) : (s.bookCmd c cls n).boot = s.boot := rfl
@[simp] theorem bookCmd_oxb (c : Cmd) (cls n : Nat) : (s.bookCmd c cls n).oxb = s.oxb := rfl
@[simp] theorem bookCmd_cap (c : Cmd) (cls n : Nat) : (s.bookCmd c cls n).cap = s.cap := rfl
@[simp] theorem bookCmd_pins (c : Cmd) (cls n : Nat) : (s.bookCmd c cls n).pins = s.pins := rfl
@[simp] theorem bookCmd_rst (c : Cmd) (cls n : Nat) : (s.bookCmd c cls n).rst = s.rst := rfl
@[simp] theorem bookCmd_out (c : Cmd) (cls n : Nat) : (s.bookCmd c cls n).out = s.out := rfl

/-! ### bookOcc -/

@[simp] theorem bookOcc_pending (q id n : Nat) : (s.bookOcc q id n).pending = s.pending := rfl
@[simp] theorem bookOcc_freeCtr (q id n : Nat) : (s.bookOcc q id n).freeCtr = s.freeCtr := rfl
@[simp] theorem bookOcc_nowNs (q id n : Nat) : (s.bookOcc q id n).nowNs = s.nowNs := rfl
@[simp] theorem bookOcc_mem (q id n : Nat) : (s.bookOcc q id n).mem = s.mem := rfl
@[simp] theorem bookOcc_poison (q id n : Nat) : (s.bookOcc q id n).poison = s.poison := rfl
@[simp] theorem bookOcc_memKeys (q id n : Nat) : (s.bookOcc q id n).memKeys = s.memKeys := rfl
@[simp] theorem bookOcc_slabTurn (q id n : Nat) : (s.bookOcc q id n).slabTurn = s.slabTurn := rfl
@[simp] theorem bookOcc_weirs (q id n : Nat) : (s.bookOcc q id n).weirs = s.weirs := rfl
@[simp] theorem bookOcc_weirOps (q id n : Nat) : (s.bookOcc q id n).weirOps = s.weirOps := rfl
@[simp] theorem bookOcc_seqs (q id n : Nat) : (s.bookOcc q id n).seqs = s.seqs := rfl
@[simp] theorem bookOcc_queues (q id n : Nat) : (s.bookOcc q id n).queues = s.queues := rfl
@[simp] theorem bookOcc_slots (q id n : Nat) : (s.bookOcc q id n).slots = s.slots := rfl
@[simp] theorem bookOcc_tide (q id n : Nat) : (s.bookOcc q id n).tide = s.tide := rfl
@[simp] theorem bookOcc_cores (q id n : Nat) : (s.bookOcc q id n).cores = s.cores := rfl
@[simp] theorem bookOcc_llc (q id n : Nat) : (s.bookOcc q id n).llc = s.llc := rfl
@[simp] theorem bookOcc_nt (q id n : Nat) : (s.bookOcc q id n).nt = s.nt := rfl
@[simp] theorem bookOcc_dt (q id n : Nat) : (s.bookOcc q id n).dt = s.dt := rfl
@[simp] theorem bookOcc_cod (q id n : Nat) : (s.bookOcc q id n).cod = s.cod := rfl
@[simp] theorem bookOcc_dlt (q id n : Nat) : (s.bookOcc q id n).dlt = s.dlt := rfl
@[simp] theorem bookOcc_train (q id n : Nat) : (s.bookOcc q id n).train = s.train := rfl
@[simp] theorem bookOcc_est (q id n : Nat) : (s.bookOcc q id n).est = s.est := rfl
@[simp] theorem bookOcc_coll (q id n : Nat) : (s.bookOcc q id n).coll = s.coll := rfl
@[simp] theorem bookOcc_frd (q id n : Nat) : (s.bookOcc q id n).frd = s.frd := rfl
@[simp] theorem bookOcc_spw (q id n : Nat) : (s.bookOcc q id n).spw = s.spw := rfl
@[simp] theorem bookOcc_gau (q id n : Nat) : (s.bookOcc q id n).gau = s.gau := rfl
@[simp] theorem bookOcc_boot (q id n : Nat) : (s.bookOcc q id n).boot = s.boot := rfl
@[simp] theorem bookOcc_oxb (q id n : Nat) : (s.bookOcc q id n).oxb = s.oxb := rfl
@[simp] theorem bookOcc_cap (q id n : Nat) : (s.bookOcc q id n).cap = s.cap := rfl
@[simp] theorem bookOcc_pins (q id n : Nat) : (s.bookOcc q id n).pins = s.pins := rfl
@[simp] theorem bookOcc_rst (q id n : Nat) : (s.bookOcc q id n).rst = s.rst := rfl
@[simp] theorem bookOcc_out (q id n : Nat) : (s.bookOcc q id n).out = s.out := rfl

/-! ### addLog -/

@[simp] theorem addLog_pending (k : Nat) (r : List Byte) : (s.addLog k r).pending = s.pending := rfl
@[simp] theorem addLog_freeCtr (k : Nat) (r : List Byte) : (s.addLog k r).freeCtr = s.freeCtr := rfl
@[simp] theorem addLog_nowNs (k : Nat) (r : List Byte) : (s.addLog k r).nowNs = s.nowNs := rfl
@[simp] theorem addLog_mem (k : Nat) (r : List Byte) : (s.addLog k r).mem = s.mem := rfl
@[simp] theorem addLog_poison (k : Nat) (r : List Byte) : (s.addLog k r).poison = s.poison := rfl
@[simp] theorem addLog_memKeys (k : Nat) (r : List Byte) : (s.addLog k r).memKeys = s.memKeys := rfl
@[simp] theorem addLog_slabTurn (k : Nat) (r : List Byte) : (s.addLog k r).slabTurn = s.slabTurn := rfl
@[simp] theorem addLog_weirs (k : Nat) (r : List Byte) : (s.addLog k r).weirs = s.weirs := rfl
@[simp] theorem addLog_weirOps (k : Nat) (r : List Byte) : (s.addLog k r).weirOps = s.weirOps := rfl
@[simp] theorem addLog_seqs (k : Nat) (r : List Byte) : (s.addLog k r).seqs = s.seqs := rfl
@[simp] theorem addLog_queues (k : Nat) (r : List Byte) : (s.addLog k r).queues = s.queues := rfl
@[simp] theorem addLog_slots (k : Nat) (r : List Byte) : (s.addLog k r).slots = s.slots := rfl
@[simp] theorem addLog_tide (k : Nat) (r : List Byte) : (s.addLog k r).tide = s.tide := rfl
@[simp] theorem addLog_cores (k : Nat) (r : List Byte) : (s.addLog k r).cores = s.cores := rfl
@[simp] theorem addLog_llc (k : Nat) (r : List Byte) : (s.addLog k r).llc = s.llc := rfl
@[simp] theorem addLog_nt (k : Nat) (r : List Byte) : (s.addLog k r).nt = s.nt := rfl
@[simp] theorem addLog_dt (k : Nat) (r : List Byte) : (s.addLog k r).dt = s.dt := rfl
@[simp] theorem addLog_cod (k : Nat) (r : List Byte) : (s.addLog k r).cod = s.cod := rfl
@[simp] theorem addLog_dlt (k : Nat) (r : List Byte) : (s.addLog k r).dlt = s.dlt := rfl
@[simp] theorem addLog_train (k : Nat) (r : List Byte) : (s.addLog k r).train = s.train := rfl
@[simp] theorem addLog_est (k : Nat) (r : List Byte) : (s.addLog k r).est = s.est := rfl
@[simp] theorem addLog_coll (k : Nat) (r : List Byte) : (s.addLog k r).coll = s.coll := rfl
@[simp] theorem addLog_frd (k : Nat) (r : List Byte) : (s.addLog k r).frd = s.frd := rfl
@[simp] theorem addLog_spw (k : Nat) (r : List Byte) : (s.addLog k r).spw = s.spw := rfl
@[simp] theorem addLog_jui (k : Nat) (r : List Byte) : (s.addLog k r).jui = s.jui := rfl
@[simp] theorem addLog_boot (k : Nat) (r : List Byte) : (s.addLog k r).boot = s.boot := rfl
@[simp] theorem addLog_oxb (k : Nat) (r : List Byte) : (s.addLog k r).oxb = s.oxb := rfl
@[simp] theorem addLog_cap (k : Nat) (r : List Byte) : (s.addLog k r).cap = s.cap := rfl
@[simp] theorem addLog_pins (k : Nat) (r : List Byte) : (s.addLog k r).pins = s.pins := rfl
@[simp] theorem addLog_rst (k : Nat) (r : List Byte) : (s.addLog k r).rst = s.rst := rfl
@[simp] theorem addLog_out (k : Nat) (r : List Byte) : (s.addLog k r).out = s.out := rfl

/-! ### gaugeEvent -/

@[simp] theorem gaugeEvent_pending (k : Nat) (r : List Byte) : (s.gaugeEvent k r).pending = s.pending := rfl
@[simp] theorem gaugeEvent_freeCtr (k : Nat) (r : List Byte) : (s.gaugeEvent k r).freeCtr = s.freeCtr := rfl
@[simp] theorem gaugeEvent_nowNs (k : Nat) (r : List Byte) : (s.gaugeEvent k r).nowNs = s.nowNs := rfl
@[simp] theorem gaugeEvent_mem (k : Nat) (r : List Byte) : (s.gaugeEvent k r).mem = s.mem := rfl
@[simp] theorem gaugeEvent_poison (k : Nat) (r : List Byte) : (s.gaugeEvent k r).poison = s.poison := rfl
@[simp] theorem gaugeEvent_memKeys (k : Nat) (r : List Byte) : (s.gaugeEvent k r).memKeys = s.memKeys := rfl
@[simp] theorem gaugeEvent_slabTurn (k : Nat) (r : List Byte) : (s.gaugeEvent k r).slabTurn = s.slabTurn := rfl
@[simp] theorem gaugeEvent_weirs (k : Nat) (r : List Byte) : (s.gaugeEvent k r).weirs = s.weirs := rfl
@[simp] theorem gaugeEvent_weirOps (k : Nat) (r : List Byte) : (s.gaugeEvent k r).weirOps = s.weirOps := rfl
@[simp] theorem gaugeEvent_seqs (k : Nat) (r : List Byte) : (s.gaugeEvent k r).seqs = s.seqs := rfl
@[simp] theorem gaugeEvent_queues (k : Nat) (r : List Byte) : (s.gaugeEvent k r).queues = s.queues := rfl
@[simp] theorem gaugeEvent_slots (k : Nat) (r : List Byte) : (s.gaugeEvent k r).slots = s.slots := rfl
@[simp] theorem gaugeEvent_tide (k : Nat) (r : List Byte) : (s.gaugeEvent k r).tide = s.tide := rfl
@[simp] theorem gaugeEvent_cores (k : Nat) (r : List Byte) : (s.gaugeEvent k r).cores = s.cores := rfl
@[simp] theorem gaugeEvent_llc (k : Nat) (r : List Byte) : (s.gaugeEvent k r).llc = s.llc := rfl
@[simp] theorem gaugeEvent_nt (k : Nat) (r : List Byte) : (s.gaugeEvent k r).nt = s.nt := rfl
@[simp] theorem gaugeEvent_dt (k : Nat) (r : List Byte) : (s.gaugeEvent k r).dt = s.dt := rfl
@[simp] theorem gaugeEvent_cod (k : Nat) (r : List Byte) : (s.gaugeEvent k r).cod = s.cod := rfl
@[simp] theorem gaugeEvent_dlt (k : Nat) (r : List Byte) : (s.gaugeEvent k r).dlt = s.dlt := rfl
@[simp] theorem gaugeEvent_train (k : Nat) (r : List Byte) : (s.gaugeEvent k r).train = s.train := rfl
@[simp] theorem gaugeEvent_est (k : Nat) (r : List Byte) : (s.gaugeEvent k r).est = s.est := rfl
@[simp] theorem gaugeEvent_coll (k : Nat) (r : List Byte) : (s.gaugeEvent k r).coll = s.coll := rfl
@[simp] theorem gaugeEvent_frd (k : Nat) (r : List Byte) : (s.gaugeEvent k r).frd = s.frd := rfl
@[simp] theorem gaugeEvent_spw (k : Nat) (r : List Byte) : (s.gaugeEvent k r).spw = s.spw := rfl
@[simp] theorem gaugeEvent_jui (k : Nat) (r : List Byte) : (s.gaugeEvent k r).jui = s.jui := rfl
@[simp] theorem gaugeEvent_boot (k : Nat) (r : List Byte) : (s.gaugeEvent k r).boot = s.boot := rfl
@[simp] theorem gaugeEvent_oxb (k : Nat) (r : List Byte) : (s.gaugeEvent k r).oxb = s.oxb := rfl
@[simp] theorem gaugeEvent_cap (k : Nat) (r : List Byte) : (s.gaugeEvent k r).cap = s.cap := rfl
@[simp] theorem gaugeEvent_pins (k : Nat) (r : List Byte) : (s.gaugeEvent k r).pins = s.pins := rfl
@[simp] theorem gaugeEvent_rst (k : Nat) (r : List Byte) : (s.gaugeEvent k r).rst = s.rst := rfl
@[simp] theorem gaugeEvent_out (k : Nat) (r : List Byte) : (s.gaugeEvent k r).out = s.out := rfl

/-! ### memSet -/

@[simp] theorem memSet_pending (a : Nat) (b : Byte) : (s.memSet a b).pending = s.pending := rfl
@[simp] theorem memSet_freeCtr (a : Nat) (b : Byte) : (s.memSet a b).freeCtr = s.freeCtr := rfl
@[simp] theorem memSet_nowNs (a : Nat) (b : Byte) : (s.memSet a b).nowNs = s.nowNs := rfl
@[simp] theorem memSet_poison (a : Nat) (b : Byte) : (s.memSet a b).poison = s.poison := rfl
@[simp] theorem memSet_memKeys (a : Nat) (b : Byte) : (s.memSet a b).memKeys = s.memKeys := rfl
@[simp] theorem memSet_slabTurn (a : Nat) (b : Byte) : (s.memSet a b).slabTurn = s.slabTurn := rfl
@[simp] theorem memSet_weirs (a : Nat) (b : Byte) : (s.memSet a b).weirs = s.weirs := rfl
@[simp] theorem memSet_weirOps (a : Nat) (b : Byte) : (s.memSet a b).weirOps = s.weirOps := rfl
@[simp] theorem memSet_seqs (a : Nat) (b : Byte) : (s.memSet a b).seqs = s.seqs := rfl
@[simp] theorem memSet_queues (a : Nat) (b : Byte) : (s.memSet a b).queues = s.queues := rfl
@[simp] theorem memSet_slots (a : Nat) (b : Byte) : (s.memSet a b).slots = s.slots := rfl
@[simp] theorem memSet_tide (a : Nat) (b : Byte) : (s.memSet a b).tide = s.tide := rfl
@[simp] theorem memSet_cores (a : Nat) (b : Byte) : (s.memSet a b).cores = s.cores := rfl
@[simp] theorem memSet_llc (a : Nat) (b : Byte) : (s.memSet a b).llc = s.llc := rfl
@[simp] theorem memSet_nt (a : Nat) (b : Byte) : (s.memSet a b).nt = s.nt := rfl
@[simp] theorem memSet_dt (a : Nat) (b : Byte) : (s.memSet a b).dt = s.dt := rfl
@[simp] theorem memSet_cod (a : Nat) (b : Byte) : (s.memSet a b).cod = s.cod := rfl
@[simp] theorem memSet_dlt (a : Nat) (b : Byte) : (s.memSet a b).dlt = s.dlt := rfl
@[simp] theorem memSet_train (a : Nat) (b : Byte) : (s.memSet a b).train = s.train := rfl
@[simp] theorem memSet_est (a : Nat) (b : Byte) : (s.memSet a b).est = s.est := rfl
@[simp] theorem memSet_coll (a : Nat) (b : Byte) : (s.memSet a b).coll = s.coll := rfl
@[simp] theorem memSet_frd (a : Nat) (b : Byte) : (s.memSet a b).frd = s.frd := rfl
@[simp] theorem memSet_spw (a : Nat) (b : Byte) : (s.memSet a b).spw = s.spw := rfl
@[simp] theorem memSet_jui (a : Nat) (b : Byte) : (s.memSet a b).jui = s.jui := rfl
@[simp] theorem memSet_gau (a : Nat) (b : Byte) : (s.memSet a b).gau = s.gau := rfl
@[simp] theorem memSet_boot (a : Nat) (b : Byte) : (s.memSet a b).boot = s.boot := rfl
@[simp] theorem memSet_oxb (a : Nat) (b : Byte) : (s.memSet a b).oxb = s.oxb := rfl
@[simp] theorem memSet_cap (a : Nat) (b : Byte) : (s.memSet a b).cap = s.cap := rfl
@[simp] theorem memSet_pins (a : Nat) (b : Byte) : (s.memSet a b).pins = s.pins := rfl
@[simp] theorem memSet_rst (a : Nat) (b : Byte) : (s.memSet a b).rst = s.rst := rfl
@[simp] theorem memSet_out (a : Nat) (b : Byte) : (s.memSet a b).out = s.out := rfl

/-! ### setPoison -/

@[simp] theorem setPoison_pending (k : Nat) (on : Bool) : (s.setPoison k on).pending = s.pending := rfl
@[simp] theorem setPoison_freeCtr (k : Nat) (on : Bool) : (s.setPoison k on).freeCtr = s.freeCtr := rfl
@[simp] theorem setPoison_nowNs (k : Nat) (on : Bool) : (s.setPoison k on).nowNs = s.nowNs := rfl
@[simp] theorem setPoison_mem (k : Nat) (on : Bool) : (s.setPoison k on).mem = s.mem := rfl
@[simp] theorem setPoison_memKeys (k : Nat) (on : Bool) : (s.setPoison k on).memKeys = s.memKeys := rfl
@[simp] theorem setPoison_slabTurn (k : Nat) (on : Bool) : (s.setPoison k on).slabTurn = s.slabTurn := rfl
@[simp] theorem setPoison_weirs (k : Nat) (on : Bool) : (s.setPoison k on).weirs = s.weirs := rfl
@[simp] theorem setPoison_weirOps (k : Nat) (on : Bool) : (s.setPoison k on).weirOps = s.weirOps := rfl
@[simp] theorem setPoison_seqs (k : Nat) (on : Bool) : (s.setPoison k on).seqs = s.seqs := rfl
@[simp] theorem setPoison_queues (k : Nat) (on : Bool) : (s.setPoison k on).queues = s.queues := rfl
@[simp] theorem setPoison_slots (k : Nat) (on : Bool) : (s.setPoison k on).slots = s.slots := rfl
@[simp] theorem setPoison_tide (k : Nat) (on : Bool) : (s.setPoison k on).tide = s.tide := rfl
@[simp] theorem setPoison_cores (k : Nat) (on : Bool) : (s.setPoison k on).cores = s.cores := rfl
@[simp] theorem setPoison_llc (k : Nat) (on : Bool) : (s.setPoison k on).llc = s.llc := rfl
@[simp] theorem setPoison_nt (k : Nat) (on : Bool) : (s.setPoison k on).nt = s.nt := rfl
@[simp] theorem setPoison_dt (k : Nat) (on : Bool) : (s.setPoison k on).dt = s.dt := rfl
@[simp] theorem setPoison_cod (k : Nat) (on : Bool) : (s.setPoison k on).cod = s.cod := rfl
@[simp] theorem setPoison_dlt (k : Nat) (on : Bool) : (s.setPoison k on).dlt = s.dlt := rfl
@[simp] theorem setPoison_train (k : Nat) (on : Bool) : (s.setPoison k on).train = s.train := rfl
@[simp] theorem setPoison_est (k : Nat) (on : Bool) : (s.setPoison k on).est = s.est := rfl
@[simp] theorem setPoison_coll (k : Nat) (on : Bool) : (s.setPoison k on).coll = s.coll := rfl
@[simp] theorem setPoison_frd (k : Nat) (on : Bool) : (s.setPoison k on).frd = s.frd := rfl
@[simp] theorem setPoison_spw (k : Nat) (on : Bool) : (s.setPoison k on).spw = s.spw := rfl
@[simp] theorem setPoison_jui (k : Nat) (on : Bool) : (s.setPoison k on).jui = s.jui := rfl
@[simp] theorem setPoison_gau (k : Nat) (on : Bool) : (s.setPoison k on).gau = s.gau := rfl
@[simp] theorem setPoison_boot (k : Nat) (on : Bool) : (s.setPoison k on).boot = s.boot := rfl
@[simp] theorem setPoison_oxb (k : Nat) (on : Bool) : (s.setPoison k on).oxb = s.oxb := rfl
@[simp] theorem setPoison_cap (k : Nat) (on : Bool) : (s.setPoison k on).cap = s.cap := rfl
@[simp] theorem setPoison_pins (k : Nat) (on : Bool) : (s.setPoison k on).pins = s.pins := rfl
@[simp] theorem setPoison_rst (k : Nat) (on : Bool) : (s.setPoison k on).rst = s.rst := rfl
@[simp] theorem setPoison_out (k : Nat) (on : Bool) : (s.setPoison k on).out = s.out := rfl

/-! ### modSlice -/

@[simp] theorem modSlice_pending (i : Nat) (f : SliceSt → SliceSt) : (s.modSlice i f).pending = s.pending := rfl
@[simp] theorem modSlice_freeCtr (i : Nat) (f : SliceSt → SliceSt) : (s.modSlice i f).freeCtr = s.freeCtr := rfl
@[simp] theorem modSlice_nowNs (i : Nat) (f : SliceSt → SliceSt) : (s.modSlice i f).nowNs = s.nowNs := rfl
@[simp] theorem modSlice_mem (i : Nat) (f : SliceSt → SliceSt) : (s.modSlice i f).mem = s.mem := rfl
@[simp] theorem modSlice_poison (i : Nat) (f : SliceSt → SliceSt) : (s.modSlice i f).poison = s.poison := rfl
@[simp] theorem modSlice_memKeys (i : Nat) (f : SliceSt → SliceSt) : (s.modSlice i f).memKeys = s.memKeys := rfl
@[simp] theorem modSlice_slabTurn (i : Nat) (f : SliceSt → SliceSt) : (s.modSlice i f).slabTurn = s.slabTurn := rfl
@[simp] theorem modSlice_weirs (i : Nat) (f : SliceSt → SliceSt) : (s.modSlice i f).weirs = s.weirs := rfl
@[simp] theorem modSlice_weirOps (i : Nat) (f : SliceSt → SliceSt) : (s.modSlice i f).weirOps = s.weirOps := rfl
@[simp] theorem modSlice_seqs (i : Nat) (f : SliceSt → SliceSt) : (s.modSlice i f).seqs = s.seqs := rfl
@[simp] theorem modSlice_queues (i : Nat) (f : SliceSt → SliceSt) : (s.modSlice i f).queues = s.queues := rfl
@[simp] theorem modSlice_slots (i : Nat) (f : SliceSt → SliceSt) : (s.modSlice i f).slots = s.slots := rfl
@[simp] theorem modSlice_tide (i : Nat) (f : SliceSt → SliceSt) : (s.modSlice i f).tide = s.tide := rfl
@[simp] theorem modSlice_cores (i : Nat) (f : SliceSt → SliceSt) : (s.modSlice i f).cores = s.cores := rfl
@[simp] theorem modSlice_nt (i : Nat) (f : SliceSt → SliceSt) : (s.modSlice i f).nt = s.nt := rfl
@[simp] theorem modSlice_dt (i : Nat) (f : SliceSt → SliceSt) : (s.modSlice i f).dt = s.dt := rfl
@[simp] theorem modSlice_cod (i : Nat) (f : SliceSt → SliceSt) : (s.modSlice i f).cod = s.cod := rfl
@[simp] theorem modSlice_dlt (i : Nat) (f : SliceSt → SliceSt) : (s.modSlice i f).dlt = s.dlt := rfl
@[simp] theorem modSlice_train (i : Nat) (f : SliceSt → SliceSt) : (s.modSlice i f).train = s.train := rfl
@[simp] theorem modSlice_est (i : Nat) (f : SliceSt → SliceSt) : (s.modSlice i f).est = s.est := rfl
@[simp] theorem modSlice_coll (i : Nat) (f : SliceSt → SliceSt) : (s.modSlice i f).coll = s.coll := rfl
@[simp] theorem modSlice_frd (i : Nat) (f : SliceSt → SliceSt) : (s.modSlice i f).frd = s.frd := rfl
@[simp] theorem modSlice_spw (i : Nat) (f : SliceSt → SliceSt) : (s.modSlice i f).spw = s.spw := rfl
@[simp] theorem modSlice_jui (i : Nat) (f : SliceSt → SliceSt) : (s.modSlice i f).jui = s.jui := rfl
@[simp] theorem modSlice_gau (i : Nat) (f : SliceSt → SliceSt) : (s.modSlice i f).gau = s.gau := rfl
@[simp] theorem modSlice_boot (i : Nat) (f : SliceSt → SliceSt) : (s.modSlice i f).boot = s.boot := rfl
@[simp] theorem modSlice_oxb (i : Nat) (f : SliceSt → SliceSt) : (s.modSlice i f).oxb = s.oxb := rfl
@[simp] theorem modSlice_cap (i : Nat) (f : SliceSt → SliceSt) : (s.modSlice i f).cap = s.cap := rfl
@[simp] theorem modSlice_pins (i : Nat) (f : SliceSt → SliceSt) : (s.modSlice i f).pins = s.pins := rfl
@[simp] theorem modSlice_rst (i : Nat) (f : SliceSt → SliceSt) : (s.modSlice i f).rst = s.rst := rfl
@[simp] theorem modSlice_out (i : Nat) (f : SliceSt → SliceSt) : (s.modSlice i f).out = s.out := rfl

/-! ### setLine -/

@[simp] theorem setLine_pending (p : Nat) (x : LLine) : (s.setLine p x).pending = s.pending := rfl
@[simp] theorem setLine_freeCtr (p : Nat) (x : LLine) : (s.setLine p x).freeCtr = s.freeCtr := rfl
@[simp] theorem setLine_nowNs (p : Nat) (x : LLine) : (s.setLine p x).nowNs = s.nowNs := rfl
@[simp] theorem setLine_mem (p : Nat) (x : LLine) : (s.setLine p x).mem = s.mem := rfl
@[simp] theorem setLine_poison (p : Nat) (x : LLine) : (s.setLine p x).poison = s.poison := rfl
@[simp] theorem setLine_memKeys (p : Nat) (x : LLine) : (s.setLine p x).memKeys = s.memKeys := rfl
@[simp] theorem setLine_slabTurn (p : Nat) (x : LLine) : (s.setLine p x).slabTurn = s.slabTurn := rfl
@[simp] theorem setLine_weirs (p : Nat) (x : LLine) : (s.setLine p x).weirs = s.weirs := rfl
@[simp] theorem setLine_weirOps (p : Nat) (x : LLine) : (s.setLine p x).weirOps = s.weirOps := rfl
@[simp] theorem setLine_seqs (p : Nat) (x : LLine) : (s.setLine p x).seqs = s.seqs := rfl
@[simp] theorem setLine_queues (p : Nat) (x : LLine) : (s.setLine p x).queues = s.queues := rfl
@[simp] theorem setLine_slots (p : Nat) (x : LLine) : (s.setLine p x).slots = s.slots := rfl
@[simp] theorem setLine_tide (p : Nat) (x : LLine) : (s.setLine p x).tide = s.tide := rfl
@[simp] theorem setLine_cores (p : Nat) (x : LLine) : (s.setLine p x).cores = s.cores := rfl
@[simp] theorem setLine_nt (p : Nat) (x : LLine) : (s.setLine p x).nt = s.nt := rfl
@[simp] theorem setLine_dt (p : Nat) (x : LLine) : (s.setLine p x).dt = s.dt := rfl
@[simp] theorem setLine_cod (p : Nat) (x : LLine) : (s.setLine p x).cod = s.cod := rfl
@[simp] theorem setLine_dlt (p : Nat) (x : LLine) : (s.setLine p x).dlt = s.dlt := rfl
@[simp] theorem setLine_train (p : Nat) (x : LLine) : (s.setLine p x).train = s.train := rfl
@[simp] theorem setLine_est (p : Nat) (x : LLine) : (s.setLine p x).est = s.est := rfl
@[simp] theorem setLine_coll (p : Nat) (x : LLine) : (s.setLine p x).coll = s.coll := rfl
@[simp] theorem setLine_frd (p : Nat) (x : LLine) : (s.setLine p x).frd = s.frd := rfl
@[simp] theorem setLine_spw (p : Nat) (x : LLine) : (s.setLine p x).spw = s.spw := rfl
@[simp] theorem setLine_jui (p : Nat) (x : LLine) : (s.setLine p x).jui = s.jui := rfl
@[simp] theorem setLine_gau (p : Nat) (x : LLine) : (s.setLine p x).gau = s.gau := rfl
@[simp] theorem setLine_boot (p : Nat) (x : LLine) : (s.setLine p x).boot = s.boot := rfl
@[simp] theorem setLine_oxb (p : Nat) (x : LLine) : (s.setLine p x).oxb = s.oxb := rfl
@[simp] theorem setLine_cap (p : Nat) (x : LLine) : (s.setLine p x).cap = s.cap := rfl
@[simp] theorem setLine_pins (p : Nat) (x : LLine) : (s.setLine p x).pins = s.pins := rfl
@[simp] theorem setLine_rst (p : Nat) (x : LLine) : (s.setLine p x).rst = s.rst := rfl
@[simp] theorem setLine_out (p : Nat) (x : LLine) : (s.setLine p x).out = s.out := rfl

/-! ### modLine -/

@[simp] theorem modLine_pending (p : Nat) (f : LLine → LLine) : (s.modLine p f).pending = s.pending := rfl
@[simp] theorem modLine_freeCtr (p : Nat) (f : LLine → LLine) : (s.modLine p f).freeCtr = s.freeCtr := rfl
@[simp] theorem modLine_nowNs (p : Nat) (f : LLine → LLine) : (s.modLine p f).nowNs = s.nowNs := rfl
@[simp] theorem modLine_mem (p : Nat) (f : LLine → LLine) : (s.modLine p f).mem = s.mem := rfl
@[simp] theorem modLine_poison (p : Nat) (f : LLine → LLine) : (s.modLine p f).poison = s.poison := rfl
@[simp] theorem modLine_memKeys (p : Nat) (f : LLine → LLine) : (s.modLine p f).memKeys = s.memKeys := rfl
@[simp] theorem modLine_slabTurn (p : Nat) (f : LLine → LLine) : (s.modLine p f).slabTurn = s.slabTurn := rfl
@[simp] theorem modLine_weirs (p : Nat) (f : LLine → LLine) : (s.modLine p f).weirs = s.weirs := rfl
@[simp] theorem modLine_weirOps (p : Nat) (f : LLine → LLine) : (s.modLine p f).weirOps = s.weirOps := rfl
@[simp] theorem modLine_seqs (p : Nat) (f : LLine → LLine) : (s.modLine p f).seqs = s.seqs := rfl
@[simp] theorem modLine_queues (p : Nat) (f : LLine → LLine) : (s.modLine p f).queues = s.queues := rfl
@[simp] theorem modLine_slots (p : Nat) (f : LLine → LLine) : (s.modLine p f).slots = s.slots := rfl
@[simp] theorem modLine_tide (p : Nat) (f : LLine → LLine) : (s.modLine p f).tide = s.tide := rfl
@[simp] theorem modLine_cores (p : Nat) (f : LLine → LLine) : (s.modLine p f).cores = s.cores := rfl
@[simp] theorem modLine_nt (p : Nat) (f : LLine → LLine) : (s.modLine p f).nt = s.nt := rfl
@[simp] theorem modLine_dt (p : Nat) (f : LLine → LLine) : (s.modLine p f).dt = s.dt := rfl
@[simp] theorem modLine_cod (p : Nat) (f : LLine → LLine) : (s.modLine p f).cod = s.cod := rfl
@[simp] theorem modLine_dlt (p : Nat) (f : LLine → LLine) : (s.modLine p f).dlt = s.dlt := rfl
@[simp] theorem modLine_train (p : Nat) (f : LLine → LLine) : (s.modLine p f).train = s.train := rfl
@[simp] theorem modLine_est (p : Nat) (f : LLine → LLine) : (s.modLine p f).est = s.est := rfl
@[simp] theorem modLine_coll (p : Nat) (f : LLine → LLine) : (s.modLine p f).coll = s.coll := rfl
@[simp] theorem modLine_frd (p : Nat) (f : LLine → LLine) : (s.modLine p f).frd = s.frd := rfl
@[simp] theorem modLine_spw (p : Nat) (f : LLine → LLine) : (s.modLine p f).spw = s.spw := rfl
@[simp] theorem modLine_jui (p : Nat) (f : LLine → LLine) : (s.modLine p f).jui = s.jui := rfl
@[simp] theorem modLine_gau (p : Nat) (f : LLine → LLine) : (s.modLine p f).gau = s.gau := rfl
@[simp] theorem modLine_boot (p : Nat) (f : LLine → LLine) : (s.modLine p f).boot = s.boot := rfl
@[simp] theorem modLine_oxb (p : Nat) (f : LLine → LLine) : (s.modLine p f).oxb = s.oxb := rfl
@[simp] theorem modLine_cap (p : Nat) (f : LLine → LLine) : (s.modLine p f).cap = s.cap := rfl
@[simp] theorem modLine_pins (p : Nat) (f : LLine → LLine) : (s.modLine p f).pins = s.pins := rfl
@[simp] theorem modLine_rst (p : Nat) (f : LLine → LLine) : (s.modLine p f).rst = s.rst := rfl
@[simp] theorem modLine_out (p : Nat) (f : LLine → LLine) : (s.modLine p f).out = s.out := rfl

/-! ### modEst -/

@[simp] theorem modEst_pending (f : EstCtr → EstCtr) : (s.modEst f).pending = s.pending := rfl
@[simp] theorem modEst_freeCtr (f : EstCtr → EstCtr) : (s.modEst f).freeCtr = s.freeCtr := rfl
@[simp] theorem modEst_nowNs (f : EstCtr → EstCtr) : (s.modEst f).nowNs = s.nowNs := rfl
@[simp] theorem modEst_mem (f : EstCtr → EstCtr) : (s.modEst f).mem = s.mem := rfl
@[simp] theorem modEst_poison (f : EstCtr → EstCtr) : (s.modEst f).poison = s.poison := rfl
@[simp] theorem modEst_memKeys (f : EstCtr → EstCtr) : (s.modEst f).memKeys = s.memKeys := rfl
@[simp] theorem modEst_slabTurn (f : EstCtr → EstCtr) : (s.modEst f).slabTurn = s.slabTurn := rfl
@[simp] theorem modEst_weirs (f : EstCtr → EstCtr) : (s.modEst f).weirs = s.weirs := rfl
@[simp] theorem modEst_weirOps (f : EstCtr → EstCtr) : (s.modEst f).weirOps = s.weirOps := rfl
@[simp] theorem modEst_seqs (f : EstCtr → EstCtr) : (s.modEst f).seqs = s.seqs := rfl
@[simp] theorem modEst_queues (f : EstCtr → EstCtr) : (s.modEst f).queues = s.queues := rfl
@[simp] theorem modEst_slots (f : EstCtr → EstCtr) : (s.modEst f).slots = s.slots := rfl
@[simp] theorem modEst_tide (f : EstCtr → EstCtr) : (s.modEst f).tide = s.tide := rfl
@[simp] theorem modEst_cores (f : EstCtr → EstCtr) : (s.modEst f).cores = s.cores := rfl
@[simp] theorem modEst_llc (f : EstCtr → EstCtr) : (s.modEst f).llc = s.llc := rfl
@[simp] theorem modEst_nt (f : EstCtr → EstCtr) : (s.modEst f).nt = s.nt := rfl
@[simp] theorem modEst_dt (f : EstCtr → EstCtr) : (s.modEst f).dt = s.dt := rfl
@[simp] theorem modEst_cod (f : EstCtr → EstCtr) : (s.modEst f).cod = s.cod := rfl
@[simp] theorem modEst_dlt (f : EstCtr → EstCtr) : (s.modEst f).dlt = s.dlt := rfl
@[simp] theorem modEst_train (f : EstCtr → EstCtr) : (s.modEst f).train = s.train := rfl
@[simp] theorem modEst_coll (f : EstCtr → EstCtr) : (s.modEst f).coll = s.coll := rfl
@[simp] theorem modEst_frd (f : EstCtr → EstCtr) : (s.modEst f).frd = s.frd := rfl
@[simp] theorem modEst_spw (f : EstCtr → EstCtr) : (s.modEst f).spw = s.spw := rfl
@[simp] theorem modEst_jui (f : EstCtr → EstCtr) : (s.modEst f).jui = s.jui := rfl
@[simp] theorem modEst_gau (f : EstCtr → EstCtr) : (s.modEst f).gau = s.gau := rfl
@[simp] theorem modEst_boot (f : EstCtr → EstCtr) : (s.modEst f).boot = s.boot := rfl
@[simp] theorem modEst_oxb (f : EstCtr → EstCtr) : (s.modEst f).oxb = s.oxb := rfl
@[simp] theorem modEst_cap (f : EstCtr → EstCtr) : (s.modEst f).cap = s.cap := rfl
@[simp] theorem modEst_pins (f : EstCtr → EstCtr) : (s.modEst f).pins = s.pins := rfl
@[simp] theorem modEst_rst (f : EstCtr → EstCtr) : (s.modEst f).rst = s.rst := rfl
@[simp] theorem modEst_out (f : EstCtr → EstCtr) : (s.modEst f).out = s.out := rfl

/-! ### modQp -/

@[simp] theorem modQp_pending (n : Nat) (f : Qp → Qp) : (s.modQp n f).pending = s.pending := rfl
@[simp] theorem modQp_freeCtr (n : Nat) (f : Qp → Qp) : (s.modQp n f).freeCtr = s.freeCtr := rfl
@[simp] theorem modQp_nowNs (n : Nat) (f : Qp → Qp) : (s.modQp n f).nowNs = s.nowNs := rfl
@[simp] theorem modQp_mem (n : Nat) (f : Qp → Qp) : (s.modQp n f).mem = s.mem := rfl
@[simp] theorem modQp_poison (n : Nat) (f : Qp → Qp) : (s.modQp n f).poison = s.poison := rfl
@[simp] theorem modQp_memKeys (n : Nat) (f : Qp → Qp) : (s.modQp n f).memKeys = s.memKeys := rfl
@[simp] theorem modQp_slabTurn (n : Nat) (f : Qp → Qp) : (s.modQp n f).slabTurn = s.slabTurn := rfl
@[simp] theorem modQp_weirs (n : Nat) (f : Qp → Qp) : (s.modQp n f).weirs = s.weirs := rfl
@[simp] theorem modQp_weirOps (n : Nat) (f : Qp → Qp) : (s.modQp n f).weirOps = s.weirOps := rfl
@[simp] theorem modQp_seqs (n : Nat) (f : Qp → Qp) : (s.modQp n f).seqs = s.seqs := rfl
@[simp] theorem modQp_queues (n : Nat) (f : Qp → Qp) : (s.modQp n f).queues = s.queues := rfl
@[simp] theorem modQp_slots (n : Nat) (f : Qp → Qp) : (s.modQp n f).slots = s.slots := rfl
@[simp] theorem modQp_tide (n : Nat) (f : Qp → Qp) : (s.modQp n f).tide = s.tide := rfl
@[simp] theorem modQp_cores (n : Nat) (f : Qp → Qp) : (s.modQp n f).cores = s.cores := rfl
@[simp] theorem modQp_llc (n : Nat) (f : Qp → Qp) : (s.modQp n f).llc = s.llc := rfl
@[simp] theorem modQp_nt (n : Nat) (f : Qp → Qp) : (s.modQp n f).nt = s.nt := rfl
@[simp] theorem modQp_dt (n : Nat) (f : Qp → Qp) : (s.modQp n f).dt = s.dt := rfl
@[simp] theorem modQp_cod (n : Nat) (f : Qp → Qp) : (s.modQp n f).cod = s.cod := rfl
@[simp] theorem modQp_dlt (n : Nat) (f : Qp → Qp) : (s.modQp n f).dlt = s.dlt := rfl
@[simp] theorem modQp_train (n : Nat) (f : Qp → Qp) : (s.modQp n f).train = s.train := rfl
@[simp] theorem modQp_coll (n : Nat) (f : Qp → Qp) : (s.modQp n f).coll = s.coll := rfl
@[simp] theorem modQp_frd (n : Nat) (f : Qp → Qp) : (s.modQp n f).frd = s.frd := rfl
@[simp] theorem modQp_spw (n : Nat) (f : Qp → Qp) : (s.modQp n f).spw = s.spw := rfl
@[simp] theorem modQp_jui (n : Nat) (f : Qp → Qp) : (s.modQp n f).jui = s.jui := rfl
@[simp] theorem modQp_gau (n : Nat) (f : Qp → Qp) : (s.modQp n f).gau = s.gau := rfl
@[simp] theorem modQp_boot (n : Nat) (f : Qp → Qp) : (s.modQp n f).boot = s.boot := rfl
@[simp] theorem modQp_oxb (n : Nat) (f : Qp → Qp) : (s.modQp n f).oxb = s.oxb := rfl
@[simp] theorem modQp_cap (n : Nat) (f : Qp → Qp) : (s.modQp n f).cap = s.cap := rfl
@[simp] theorem modQp_pins (n : Nat) (f : Qp → Qp) : (s.modQp n f).pins = s.pins := rfl
@[simp] theorem modQp_rst (n : Nat) (f : Qp → Qp) : (s.modQp n f).rst = s.rst := rfl
@[simp] theorem modQp_out (n : Nat) (f : Qp → Qp) : (s.modQp n f).out = s.out := rfl

/-! ### modColl -/

@[simp] theorem modColl_pending (g n : Nat) (f : CollSt → CollSt) : (s.modColl g n f).pending = s.pending := rfl
@[simp] theorem modColl_freeCtr (g n : Nat) (f : CollSt → CollSt) : (s.modColl g n f).freeCtr = s.freeCtr := rfl
@[simp] theorem modColl_nowNs (g n : Nat) (f : CollSt → CollSt) : (s.modColl g n f).nowNs = s.nowNs := rfl
@[simp] theorem modColl_mem (g n : Nat) (f : CollSt → CollSt) : (s.modColl g n f).mem = s.mem := rfl
@[simp] theorem modColl_poison (g n : Nat) (f : CollSt → CollSt) : (s.modColl g n f).poison = s.poison := rfl
@[simp] theorem modColl_memKeys (g n : Nat) (f : CollSt → CollSt) : (s.modColl g n f).memKeys = s.memKeys := rfl
@[simp] theorem modColl_slabTurn (g n : Nat) (f : CollSt → CollSt) : (s.modColl g n f).slabTurn = s.slabTurn := rfl
@[simp] theorem modColl_weirs (g n : Nat) (f : CollSt → CollSt) : (s.modColl g n f).weirs = s.weirs := rfl
@[simp] theorem modColl_weirOps (g n : Nat) (f : CollSt → CollSt) : (s.modColl g n f).weirOps = s.weirOps := rfl
@[simp] theorem modColl_seqs (g n : Nat) (f : CollSt → CollSt) : (s.modColl g n f).seqs = s.seqs := rfl
@[simp] theorem modColl_queues (g n : Nat) (f : CollSt → CollSt) : (s.modColl g n f).queues = s.queues := rfl
@[simp] theorem modColl_slots (g n : Nat) (f : CollSt → CollSt) : (s.modColl g n f).slots = s.slots := rfl
@[simp] theorem modColl_tide (g n : Nat) (f : CollSt → CollSt) : (s.modColl g n f).tide = s.tide := rfl
@[simp] theorem modColl_cores (g n : Nat) (f : CollSt → CollSt) : (s.modColl g n f).cores = s.cores := rfl
@[simp] theorem modColl_llc (g n : Nat) (f : CollSt → CollSt) : (s.modColl g n f).llc = s.llc := rfl
@[simp] theorem modColl_nt (g n : Nat) (f : CollSt → CollSt) : (s.modColl g n f).nt = s.nt := rfl
@[simp] theorem modColl_dt (g n : Nat) (f : CollSt → CollSt) : (s.modColl g n f).dt = s.dt := rfl
@[simp] theorem modColl_cod (g n : Nat) (f : CollSt → CollSt) : (s.modColl g n f).cod = s.cod := rfl
@[simp] theorem modColl_dlt (g n : Nat) (f : CollSt → CollSt) : (s.modColl g n f).dlt = s.dlt := rfl
@[simp] theorem modColl_train (g n : Nat) (f : CollSt → CollSt) : (s.modColl g n f).train = s.train := rfl
@[simp] theorem modColl_est (g n : Nat) (f : CollSt → CollSt) : (s.modColl g n f).est = s.est := rfl
@[simp] theorem modColl_frd (g n : Nat) (f : CollSt → CollSt) : (s.modColl g n f).frd = s.frd := rfl
@[simp] theorem modColl_spw (g n : Nat) (f : CollSt → CollSt) : (s.modColl g n f).spw = s.spw := rfl
@[simp] theorem modColl_jui (g n : Nat) (f : CollSt → CollSt) : (s.modColl g n f).jui = s.jui := rfl
@[simp] theorem modColl_gau (g n : Nat) (f : CollSt → CollSt) : (s.modColl g n f).gau = s.gau := rfl
@[simp] theorem modColl_boot (g n : Nat) (f : CollSt → CollSt) : (s.modColl g n f).boot = s.boot := rfl
@[simp] theorem modColl_oxb (g n : Nat) (f : CollSt → CollSt) : (s.modColl g n f).oxb = s.oxb := rfl
@[simp] theorem modColl_cap (g n : Nat) (f : CollSt → CollSt) : (s.modColl g n f).cap = s.cap := rfl
@[simp] theorem modColl_pins (g n : Nat) (f : CollSt → CollSt) : (s.modColl g n f).pins = s.pins := rfl
@[simp] theorem modColl_rst (g n : Nat) (f : CollSt → CollSt) : (s.modColl g n f).rst = s.rst := rfl
@[simp] theorem modColl_out (g n : Nat) (f : CollSt → CollSt) : (s.modColl g n f).out = s.out := rfl

/-! ### modFrd -/

@[simp] theorem modFrd_pending (f : FrdSt → FrdSt) : (s.modFrd f).pending = s.pending := rfl
@[simp] theorem modFrd_freeCtr (f : FrdSt → FrdSt) : (s.modFrd f).freeCtr = s.freeCtr := rfl
@[simp] theorem modFrd_nowNs (f : FrdSt → FrdSt) : (s.modFrd f).nowNs = s.nowNs := rfl
@[simp] theorem modFrd_mem (f : FrdSt → FrdSt) : (s.modFrd f).mem = s.mem := rfl
@[simp] theorem modFrd_poison (f : FrdSt → FrdSt) : (s.modFrd f).poison = s.poison := rfl
@[simp] theorem modFrd_memKeys (f : FrdSt → FrdSt) : (s.modFrd f).memKeys = s.memKeys := rfl
@[simp] theorem modFrd_slabTurn (f : FrdSt → FrdSt) : (s.modFrd f).slabTurn = s.slabTurn := rfl
@[simp] theorem modFrd_weirs (f : FrdSt → FrdSt) : (s.modFrd f).weirs = s.weirs := rfl
@[simp] theorem modFrd_weirOps (f : FrdSt → FrdSt) : (s.modFrd f).weirOps = s.weirOps := rfl
@[simp] theorem modFrd_seqs (f : FrdSt → FrdSt) : (s.modFrd f).seqs = s.seqs := rfl
@[simp] theorem modFrd_queues (f : FrdSt → FrdSt) : (s.modFrd f).queues = s.queues := rfl
@[simp] theorem modFrd_slots (f : FrdSt → FrdSt) : (s.modFrd f).slots = s.slots := rfl
@[simp] theorem modFrd_tide (f : FrdSt → FrdSt) : (s.modFrd f).tide = s.tide := rfl
@[simp] theorem modFrd_cores (f : FrdSt → FrdSt) : (s.modFrd f).cores = s.cores := rfl
@[simp] theorem modFrd_llc (f : FrdSt → FrdSt) : (s.modFrd f).llc = s.llc := rfl
@[simp] theorem modFrd_nt (f : FrdSt → FrdSt) : (s.modFrd f).nt = s.nt := rfl
@[simp] theorem modFrd_dt (f : FrdSt → FrdSt) : (s.modFrd f).dt = s.dt := rfl
@[simp] theorem modFrd_cod (f : FrdSt → FrdSt) : (s.modFrd f).cod = s.cod := rfl
@[simp] theorem modFrd_dlt (f : FrdSt → FrdSt) : (s.modFrd f).dlt = s.dlt := rfl
@[simp] theorem modFrd_train (f : FrdSt → FrdSt) : (s.modFrd f).train = s.train := rfl
@[simp] theorem modFrd_est (f : FrdSt → FrdSt) : (s.modFrd f).est = s.est := rfl
@[simp] theorem modFrd_coll (f : FrdSt → FrdSt) : (s.modFrd f).coll = s.coll := rfl
@[simp] theorem modFrd_spw (f : FrdSt → FrdSt) : (s.modFrd f).spw = s.spw := rfl
@[simp] theorem modFrd_jui (f : FrdSt → FrdSt) : (s.modFrd f).jui = s.jui := rfl
@[simp] theorem modFrd_gau (f : FrdSt → FrdSt) : (s.modFrd f).gau = s.gau := rfl
@[simp] theorem modFrd_boot (f : FrdSt → FrdSt) : (s.modFrd f).boot = s.boot := rfl
@[simp] theorem modFrd_oxb (f : FrdSt → FrdSt) : (s.modFrd f).oxb = s.oxb := rfl
@[simp] theorem modFrd_cap (f : FrdSt → FrdSt) : (s.modFrd f).cap = s.cap := rfl
@[simp] theorem modFrd_pins (f : FrdSt → FrdSt) : (s.modFrd f).pins = s.pins := rfl
@[simp] theorem modFrd_rst (f : FrdSt → FrdSt) : (s.modFrd f).rst = s.rst := rfl
@[simp] theorem modFrd_out (f : FrdSt → FrdSt) : (s.modFrd f).out = s.out := rfl

/-! ### modGau -/

@[simp] theorem modGau_pending (f : GauSt → GauSt) : (s.modGau f).pending = s.pending := rfl
@[simp] theorem modGau_freeCtr (f : GauSt → GauSt) : (s.modGau f).freeCtr = s.freeCtr := rfl
@[simp] theorem modGau_nowNs (f : GauSt → GauSt) : (s.modGau f).nowNs = s.nowNs := rfl
@[simp] theorem modGau_mem (f : GauSt → GauSt) : (s.modGau f).mem = s.mem := rfl
@[simp] theorem modGau_poison (f : GauSt → GauSt) : (s.modGau f).poison = s.poison := rfl
@[simp] theorem modGau_memKeys (f : GauSt → GauSt) : (s.modGau f).memKeys = s.memKeys := rfl
@[simp] theorem modGau_slabTurn (f : GauSt → GauSt) : (s.modGau f).slabTurn = s.slabTurn := rfl
@[simp] theorem modGau_weirs (f : GauSt → GauSt) : (s.modGau f).weirs = s.weirs := rfl
@[simp] theorem modGau_weirOps (f : GauSt → GauSt) : (s.modGau f).weirOps = s.weirOps := rfl
@[simp] theorem modGau_seqs (f : GauSt → GauSt) : (s.modGau f).seqs = s.seqs := rfl
@[simp] theorem modGau_queues (f : GauSt → GauSt) : (s.modGau f).queues = s.queues := rfl
@[simp] theorem modGau_slots (f : GauSt → GauSt) : (s.modGau f).slots = s.slots := rfl
@[simp] theorem modGau_tide (f : GauSt → GauSt) : (s.modGau f).tide = s.tide := rfl
@[simp] theorem modGau_cores (f : GauSt → GauSt) : (s.modGau f).cores = s.cores := rfl
@[simp] theorem modGau_llc (f : GauSt → GauSt) : (s.modGau f).llc = s.llc := rfl
@[simp] theorem modGau_nt (f : GauSt → GauSt) : (s.modGau f).nt = s.nt := rfl
@[simp] theorem modGau_dt (f : GauSt → GauSt) : (s.modGau f).dt = s.dt := rfl
@[simp] theorem modGau_cod (f : GauSt → GauSt) : (s.modGau f).cod = s.cod := rfl
@[simp] theorem modGau_dlt (f : GauSt → GauSt) : (s.modGau f).dlt = s.dlt := rfl
@[simp] theorem modGau_train (f : GauSt → GauSt) : (s.modGau f).train = s.train := rfl
@[simp] theorem modGau_est (f : GauSt → GauSt) : (s.modGau f).est = s.est := rfl
@[simp] theorem modGau_coll (f : GauSt → GauSt) : (s.modGau f).coll = s.coll := rfl
@[simp] theorem modGau_frd (f : GauSt → GauSt) : (s.modGau f).frd = s.frd := rfl
@[simp] theorem modGau_spw (f : GauSt → GauSt) : (s.modGau f).spw = s.spw := rfl
@[simp] theorem modGau_jui (f : GauSt → GauSt) : (s.modGau f).jui = s.jui := rfl
@[simp] theorem modGau_boot (f : GauSt → GauSt) : (s.modGau f).boot = s.boot := rfl
@[simp] theorem modGau_oxb (f : GauSt → GauSt) : (s.modGau f).oxb = s.oxb := rfl
@[simp] theorem modGau_cap (f : GauSt → GauSt) : (s.modGau f).cap = s.cap := rfl
@[simp] theorem modGau_pins (f : GauSt → GauSt) : (s.modGau f).pins = s.pins := rfl
@[simp] theorem modGau_rst (f : GauSt → GauSt) : (s.modGau f).rst = s.rst := rfl
@[simp] theorem modGau_out (f : GauSt → GauSt) : (s.modGau f).out = s.out := rfl

/-! ### modJui -/

@[simp] theorem modJui_pending (f : JuiSt → JuiSt) : (s.modJui f).pending = s.pending := rfl
@[simp] theorem modJui_freeCtr (f : JuiSt → JuiSt) : (s.modJui f).freeCtr = s.freeCtr := rfl
@[simp] theorem modJui_nowNs (f : JuiSt → JuiSt) : (s.modJui f).nowNs = s.nowNs := rfl
@[simp] theorem modJui_mem (f : JuiSt → JuiSt) : (s.modJui f).mem = s.mem := rfl
@[simp] theorem modJui_poison (f : JuiSt → JuiSt) : (s.modJui f).poison = s.poison := rfl
@[simp] theorem modJui_memKeys (f : JuiSt → JuiSt) : (s.modJui f).memKeys = s.memKeys := rfl
@[simp] theorem modJui_slabTurn (f : JuiSt → JuiSt) : (s.modJui f).slabTurn = s.slabTurn := rfl
@[simp] theorem modJui_weirs (f : JuiSt → JuiSt) : (s.modJui f).weirs = s.weirs := rfl
@[simp] theorem modJui_weirOps (f : JuiSt → JuiSt) : (s.modJui f).weirOps = s.weirOps := rfl
@[simp] theorem modJui_seqs (f : JuiSt → JuiSt) : (s.modJui f).seqs = s.seqs := rfl
@[simp] theorem modJui_queues (f : JuiSt → JuiSt) : (s.modJui f).queues = s.queues := rfl
@[simp] theorem modJui_slots (f : JuiSt → JuiSt) : (s.modJui f).slots = s.slots := rfl
@[simp] theorem modJui_tide (f : JuiSt → JuiSt) : (s.modJui f).tide = s.tide := rfl
@[simp] theorem modJui_cores (f : JuiSt → JuiSt) : (s.modJui f).cores = s.cores := rfl
@[simp] theorem modJui_llc (f : JuiSt → JuiSt) : (s.modJui f).llc = s.llc := rfl
@[simp] theorem modJui_nt (f : JuiSt → JuiSt) : (s.modJui f).nt = s.nt := rfl
@[simp] theorem modJui_dt (f : JuiSt → JuiSt) : (s.modJui f).dt = s.dt := rfl
@[simp] theorem modJui_cod (f : JuiSt → JuiSt) : (s.modJui f).cod = s.cod := rfl
@[simp] theorem modJui_dlt (f : JuiSt → JuiSt) : (s.modJui f).dlt = s.dlt := rfl
@[simp] theorem modJui_train (f : JuiSt → JuiSt) : (s.modJui f).train = s.train := rfl
@[simp] theorem modJui_est (f : JuiSt → JuiSt) : (s.modJui f).est = s.est := rfl
@[simp] theorem modJui_coll (f : JuiSt → JuiSt) : (s.modJui f).coll = s.coll := rfl
@[simp] theorem modJui_frd (f : JuiSt → JuiSt) : (s.modJui f).frd = s.frd := rfl
@[simp] theorem modJui_spw (f : JuiSt → JuiSt) : (s.modJui f).spw = s.spw := rfl
@[simp] theorem modJui_gau (f : JuiSt → JuiSt) : (s.modJui f).gau = s.gau := rfl
@[simp] theorem modJui_boot (f : JuiSt → JuiSt) : (s.modJui f).boot = s.boot := rfl
@[simp] theorem modJui_oxb (f : JuiSt → JuiSt) : (s.modJui f).oxb = s.oxb := rfl
@[simp] theorem modJui_cap (f : JuiSt → JuiSt) : (s.modJui f).cap = s.cap := rfl
@[simp] theorem modJui_pins (f : JuiSt → JuiSt) : (s.modJui f).pins = s.pins := rfl
@[simp] theorem modJui_rst (f : JuiSt → JuiSt) : (s.modJui f).rst = s.rst := rfl
@[simp] theorem modJui_out (f : JuiSt → JuiSt) : (s.modJui f).out = s.out := rfl

/-! ### modSpw -/

@[simp] theorem modSpw_pending (f : SpwSt → SpwSt) : (s.modSpw f).pending = s.pending := rfl
@[simp] theorem modSpw_freeCtr (f : SpwSt → SpwSt) : (s.modSpw f).freeCtr = s.freeCtr := rfl
@[simp] theorem modSpw_nowNs (f : SpwSt → SpwSt) : (s.modSpw f).nowNs = s.nowNs := rfl
@[simp] theorem modSpw_mem (f : SpwSt → SpwSt) : (s.modSpw f).mem = s.mem := rfl
@[simp] theorem modSpw_poison (f : SpwSt → SpwSt) : (s.modSpw f).poison = s.poison := rfl
@[simp] theorem modSpw_memKeys (f : SpwSt → SpwSt) : (s.modSpw f).memKeys = s.memKeys := rfl
@[simp] theorem modSpw_slabTurn (f : SpwSt → SpwSt) : (s.modSpw f).slabTurn = s.slabTurn := rfl
@[simp] theorem modSpw_weirs (f : SpwSt → SpwSt) : (s.modSpw f).weirs = s.weirs := rfl
@[simp] theorem modSpw_weirOps (f : SpwSt → SpwSt) : (s.modSpw f).weirOps = s.weirOps := rfl
@[simp] theorem modSpw_seqs (f : SpwSt → SpwSt) : (s.modSpw f).seqs = s.seqs := rfl
@[simp] theorem modSpw_queues (f : SpwSt → SpwSt) : (s.modSpw f).queues = s.queues := rfl
@[simp] theorem modSpw_slots (f : SpwSt → SpwSt) : (s.modSpw f).slots = s.slots := rfl
@[simp] theorem modSpw_tide (f : SpwSt → SpwSt) : (s.modSpw f).tide = s.tide := rfl
@[simp] theorem modSpw_cores (f : SpwSt → SpwSt) : (s.modSpw f).cores = s.cores := rfl
@[simp] theorem modSpw_llc (f : SpwSt → SpwSt) : (s.modSpw f).llc = s.llc := rfl
@[simp] theorem modSpw_nt (f : SpwSt → SpwSt) : (s.modSpw f).nt = s.nt := rfl
@[simp] theorem modSpw_dt (f : SpwSt → SpwSt) : (s.modSpw f).dt = s.dt := rfl
@[simp] theorem modSpw_cod (f : SpwSt → SpwSt) : (s.modSpw f).cod = s.cod := rfl
@[simp] theorem modSpw_dlt (f : SpwSt → SpwSt) : (s.modSpw f).dlt = s.dlt := rfl
@[simp] theorem modSpw_train (f : SpwSt → SpwSt) : (s.modSpw f).train = s.train := rfl
@[simp] theorem modSpw_est (f : SpwSt → SpwSt) : (s.modSpw f).est = s.est := rfl
@[simp] theorem modSpw_coll (f : SpwSt → SpwSt) : (s.modSpw f).coll = s.coll := rfl
@[simp] theorem modSpw_frd (f : SpwSt → SpwSt) : (s.modSpw f).frd = s.frd := rfl
@[simp] theorem modSpw_jui (f : SpwSt → SpwSt) : (s.modSpw f).jui = s.jui := rfl
@[simp] theorem modSpw_gau (f : SpwSt → SpwSt) : (s.modSpw f).gau = s.gau := rfl
@[simp] theorem modSpw_boot (f : SpwSt → SpwSt) : (s.modSpw f).boot = s.boot := rfl
@[simp] theorem modSpw_oxb (f : SpwSt → SpwSt) : (s.modSpw f).oxb = s.oxb := rfl
@[simp] theorem modSpw_cap (f : SpwSt → SpwSt) : (s.modSpw f).cap = s.cap := rfl
@[simp] theorem modSpw_pins (f : SpwSt → SpwSt) : (s.modSpw f).pins = s.pins := rfl
@[simp] theorem modSpw_rst (f : SpwSt → SpwSt) : (s.modSpw f).rst = s.rst := rfl
@[simp] theorem modSpw_out (f : SpwSt → SpwSt) : (s.modSpw f).out = s.out := rfl

/-! ### modTide -/

@[simp] theorem modTide_pending (f : TideSt → TideSt) : (s.modTide f).pending = s.pending := rfl
@[simp] theorem modTide_freeCtr (f : TideSt → TideSt) : (s.modTide f).freeCtr = s.freeCtr := rfl
@[simp] theorem modTide_nowNs (f : TideSt → TideSt) : (s.modTide f).nowNs = s.nowNs := rfl
@[simp] theorem modTide_mem (f : TideSt → TideSt) : (s.modTide f).mem = s.mem := rfl
@[simp] theorem modTide_poison (f : TideSt → TideSt) : (s.modTide f).poison = s.poison := rfl
@[simp] theorem modTide_memKeys (f : TideSt → TideSt) : (s.modTide f).memKeys = s.memKeys := rfl
@[simp] theorem modTide_slabTurn (f : TideSt → TideSt) : (s.modTide f).slabTurn = s.slabTurn := rfl
@[simp] theorem modTide_weirs (f : TideSt → TideSt) : (s.modTide f).weirs = s.weirs := rfl
@[simp] theorem modTide_weirOps (f : TideSt → TideSt) : (s.modTide f).weirOps = s.weirOps := rfl
@[simp] theorem modTide_seqs (f : TideSt → TideSt) : (s.modTide f).seqs = s.seqs := rfl
@[simp] theorem modTide_queues (f : TideSt → TideSt) : (s.modTide f).queues = s.queues := rfl
@[simp] theorem modTide_slots (f : TideSt → TideSt) : (s.modTide f).slots = s.slots := rfl
@[simp] theorem modTide_cores (f : TideSt → TideSt) : (s.modTide f).cores = s.cores := rfl
@[simp] theorem modTide_llc (f : TideSt → TideSt) : (s.modTide f).llc = s.llc := rfl
@[simp] theorem modTide_nt (f : TideSt → TideSt) : (s.modTide f).nt = s.nt := rfl
@[simp] theorem modTide_dt (f : TideSt → TideSt) : (s.modTide f).dt = s.dt := rfl
@[simp] theorem modTide_cod (f : TideSt → TideSt) : (s.modTide f).cod = s.cod := rfl
@[simp] theorem modTide_dlt (f : TideSt → TideSt) : (s.modTide f).dlt = s.dlt := rfl
@[simp] theorem modTide_train (f : TideSt → TideSt) : (s.modTide f).train = s.train := rfl
@[simp] theorem modTide_est (f : TideSt → TideSt) : (s.modTide f).est = s.est := rfl
@[simp] theorem modTide_coll (f : TideSt → TideSt) : (s.modTide f).coll = s.coll := rfl
@[simp] theorem modTide_frd (f : TideSt → TideSt) : (s.modTide f).frd = s.frd := rfl
@[simp] theorem modTide_spw (f : TideSt → TideSt) : (s.modTide f).spw = s.spw := rfl
@[simp] theorem modTide_jui (f : TideSt → TideSt) : (s.modTide f).jui = s.jui := rfl
@[simp] theorem modTide_gau (f : TideSt → TideSt) : (s.modTide f).gau = s.gau := rfl
@[simp] theorem modTide_boot (f : TideSt → TideSt) : (s.modTide f).boot = s.boot := rfl
@[simp] theorem modTide_oxb (f : TideSt → TideSt) : (s.modTide f).oxb = s.oxb := rfl
@[simp] theorem modTide_cap (f : TideSt → TideSt) : (s.modTide f).cap = s.cap := rfl
@[simp] theorem modTide_pins (f : TideSt → TideSt) : (s.modTide f).pins = s.pins := rfl
@[simp] theorem modTide_rst (f : TideSt → TideSt) : (s.modTide f).rst = s.rst := rfl
@[simp] theorem modTide_out (f : TideSt → TideSt) : (s.modTide f).out = s.out := rfl

/-! ### modBoot -/

@[simp] theorem modBoot_pending (f : BootSt → BootSt) : (s.modBoot f).pending = s.pending := rfl
@[simp] theorem modBoot_freeCtr (f : BootSt → BootSt) : (s.modBoot f).freeCtr = s.freeCtr := rfl
@[simp] theorem modBoot_nowNs (f : BootSt → BootSt) : (s.modBoot f).nowNs = s.nowNs := rfl
@[simp] theorem modBoot_mem (f : BootSt → BootSt) : (s.modBoot f).mem = s.mem := rfl
@[simp] theorem modBoot_poison (f : BootSt → BootSt) : (s.modBoot f).poison = s.poison := rfl
@[simp] theorem modBoot_memKeys (f : BootSt → BootSt) : (s.modBoot f).memKeys = s.memKeys := rfl
@[simp] theorem modBoot_slabTurn (f : BootSt → BootSt) : (s.modBoot f).slabTurn = s.slabTurn := rfl
@[simp] theorem modBoot_weirs (f : BootSt → BootSt) : (s.modBoot f).weirs = s.weirs := rfl
@[simp] theorem modBoot_weirOps (f : BootSt → BootSt) : (s.modBoot f).weirOps = s.weirOps := rfl
@[simp] theorem modBoot_seqs (f : BootSt → BootSt) : (s.modBoot f).seqs = s.seqs := rfl
@[simp] theorem modBoot_queues (f : BootSt → BootSt) : (s.modBoot f).queues = s.queues := rfl
@[simp] theorem modBoot_slots (f : BootSt → BootSt) : (s.modBoot f).slots = s.slots := rfl
@[simp] theorem modBoot_tide (f : BootSt → BootSt) : (s.modBoot f).tide = s.tide := rfl
@[simp] theorem modBoot_cores (f : BootSt → BootSt) : (s.modBoot f).cores = s.cores := rfl
@[simp] theorem modBoot_llc (f : BootSt → BootSt) : (s.modBoot f).llc = s.llc := rfl
@[simp] theorem modBoot_nt (f : BootSt → BootSt) : (s.modBoot f).nt = s.nt := rfl
@[simp] theorem modBoot_dt (f : BootSt → BootSt) : (s.modBoot f).dt = s.dt := rfl
@[simp] theorem modBoot_cod (f : BootSt → BootSt) : (s.modBoot f).cod = s.cod := rfl
@[simp] theorem modBoot_dlt (f : BootSt → BootSt) : (s.modBoot f).dlt = s.dlt := rfl
@[simp] theorem modBoot_train (f : BootSt → BootSt) : (s.modBoot f).train = s.train := rfl
@[simp] theorem modBoot_est (f : BootSt → BootSt) : (s.modBoot f).est = s.est := rfl
@[simp] theorem modBoot_coll (f : BootSt → BootSt) : (s.modBoot f).coll = s.coll := rfl
@[simp] theorem modBoot_frd (f : BootSt → BootSt) : (s.modBoot f).frd = s.frd := rfl
@[simp] theorem modBoot_spw (f : BootSt → BootSt) : (s.modBoot f).spw = s.spw := rfl
@[simp] theorem modBoot_jui (f : BootSt → BootSt) : (s.modBoot f).jui = s.jui := rfl
@[simp] theorem modBoot_gau (f : BootSt → BootSt) : (s.modBoot f).gau = s.gau := rfl
@[simp] theorem modBoot_oxb (f : BootSt → BootSt) : (s.modBoot f).oxb = s.oxb := rfl
@[simp] theorem modBoot_cap (f : BootSt → BootSt) : (s.modBoot f).cap = s.cap := rfl
@[simp] theorem modBoot_pins (f : BootSt → BootSt) : (s.modBoot f).pins = s.pins := rfl
@[simp] theorem modBoot_rst (f : BootSt → BootSt) : (s.modBoot f).rst = s.rst := rfl
@[simp] theorem modBoot_out (f : BootSt → BootSt) : (s.modBoot f).out = s.out := rfl

/-! ### modPins -/

@[simp] theorem modPins_pending (f : PinSt → PinSt) : (s.modPins f).pending = s.pending := rfl
@[simp] theorem modPins_freeCtr (f : PinSt → PinSt) : (s.modPins f).freeCtr = s.freeCtr := rfl
@[simp] theorem modPins_nowNs (f : PinSt → PinSt) : (s.modPins f).nowNs = s.nowNs := rfl
@[simp] theorem modPins_mem (f : PinSt → PinSt) : (s.modPins f).mem = s.mem := rfl
@[simp] theorem modPins_poison (f : PinSt → PinSt) : (s.modPins f).poison = s.poison := rfl
@[simp] theorem modPins_memKeys (f : PinSt → PinSt) : (s.modPins f).memKeys = s.memKeys := rfl
@[simp] theorem modPins_slabTurn (f : PinSt → PinSt) : (s.modPins f).slabTurn = s.slabTurn := rfl
@[simp] theorem modPins_weirs (f : PinSt → PinSt) : (s.modPins f).weirs = s.weirs := rfl
@[simp] theorem modPins_weirOps (f : PinSt → PinSt) : (s.modPins f).weirOps = s.weirOps := rfl
@[simp] theorem modPins_seqs (f : PinSt → PinSt) : (s.modPins f).seqs = s.seqs := rfl
@[simp] theorem modPins_queues (f : PinSt → PinSt) : (s.modPins f).queues = s.queues := rfl
@[simp] theorem modPins_slots (f : PinSt → PinSt) : (s.modPins f).slots = s.slots := rfl
@[simp] theorem modPins_tide (f : PinSt → PinSt) : (s.modPins f).tide = s.tide := rfl
@[simp] theorem modPins_cores (f : PinSt → PinSt) : (s.modPins f).cores = s.cores := rfl
@[simp] theorem modPins_llc (f : PinSt → PinSt) : (s.modPins f).llc = s.llc := rfl
@[simp] theorem modPins_nt (f : PinSt → PinSt) : (s.modPins f).nt = s.nt := rfl
@[simp] theorem modPins_dt (f : PinSt → PinSt) : (s.modPins f).dt = s.dt := rfl
@[simp] theorem modPins_cod (f : PinSt → PinSt) : (s.modPins f).cod = s.cod := rfl
@[simp] theorem modPins_dlt (f : PinSt → PinSt) : (s.modPins f).dlt = s.dlt := rfl
@[simp] theorem modPins_train (f : PinSt → PinSt) : (s.modPins f).train = s.train := rfl
@[simp] theorem modPins_est (f : PinSt → PinSt) : (s.modPins f).est = s.est := rfl
@[simp] theorem modPins_coll (f : PinSt → PinSt) : (s.modPins f).coll = s.coll := rfl
@[simp] theorem modPins_frd (f : PinSt → PinSt) : (s.modPins f).frd = s.frd := rfl
@[simp] theorem modPins_spw (f : PinSt → PinSt) : (s.modPins f).spw = s.spw := rfl
@[simp] theorem modPins_jui (f : PinSt → PinSt) : (s.modPins f).jui = s.jui := rfl
@[simp] theorem modPins_gau (f : PinSt → PinSt) : (s.modPins f).gau = s.gau := rfl
@[simp] theorem modPins_boot (f : PinSt → PinSt) : (s.modPins f).boot = s.boot := rfl
@[simp] theorem modPins_oxb (f : PinSt → PinSt) : (s.modPins f).oxb = s.oxb := rfl
@[simp] theorem modPins_cap (f : PinSt → PinSt) : (s.modPins f).cap = s.cap := rfl
@[simp] theorem modPins_rst (f : PinSt → PinSt) : (s.modPins f).rst = s.rst := rfl
@[simp] theorem modPins_out (f : PinSt → PinSt) : (s.modPins f).out = s.out := rfl

/-! ### fresh -/

@[simp] theorem fresh_pending : s.fresh.2.pending = s.pending := rfl
@[simp] theorem fresh_nowNs : s.fresh.2.nowNs = s.nowNs := rfl
@[simp] theorem fresh_mem : s.fresh.2.mem = s.mem := rfl
@[simp] theorem fresh_poison : s.fresh.2.poison = s.poison := rfl
@[simp] theorem fresh_memKeys : s.fresh.2.memKeys = s.memKeys := rfl
@[simp] theorem fresh_slabTurn : s.fresh.2.slabTurn = s.slabTurn := rfl
@[simp] theorem fresh_weirs : s.fresh.2.weirs = s.weirs := rfl
@[simp] theorem fresh_weirOps : s.fresh.2.weirOps = s.weirOps := rfl
@[simp] theorem fresh_seqs : s.fresh.2.seqs = s.seqs := rfl
@[simp] theorem fresh_queues : s.fresh.2.queues = s.queues := rfl
@[simp] theorem fresh_slots : s.fresh.2.slots = s.slots := rfl
@[simp] theorem fresh_tide : s.fresh.2.tide = s.tide := rfl
@[simp] theorem fresh_cores : s.fresh.2.cores = s.cores := rfl
@[simp] theorem fresh_llc : s.fresh.2.llc = s.llc := rfl
@[simp] theorem fresh_nt : s.fresh.2.nt = s.nt := rfl
@[simp] theorem fresh_dt : s.fresh.2.dt = s.dt := rfl
@[simp] theorem fresh_cod : s.fresh.2.cod = s.cod := rfl
@[simp] theorem fresh_dlt : s.fresh.2.dlt = s.dlt := rfl
@[simp] theorem fresh_train : s.fresh.2.train = s.train := rfl
@[simp] theorem fresh_est : s.fresh.2.est = s.est := rfl
@[simp] theorem fresh_coll : s.fresh.2.coll = s.coll := rfl
@[simp] theorem fresh_frd : s.fresh.2.frd = s.frd := rfl
@[simp] theorem fresh_spw : s.fresh.2.spw = s.spw := rfl
@[simp] theorem fresh_jui : s.fresh.2.jui = s.jui := rfl
@[simp] theorem fresh_gau : s.fresh.2.gau = s.gau := rfl
@[simp] theorem fresh_boot : s.fresh.2.boot = s.boot := rfl
@[simp] theorem fresh_oxb : s.fresh.2.oxb = s.oxb := rfl
@[simp] theorem fresh_cap : s.fresh.2.cap = s.cap := rfl
@[simp] theorem fresh_pins : s.fresh.2.pins = s.pins := rfl
@[simp] theorem fresh_rst : s.fresh.2.rst = s.rst := rfl
@[simp] theorem fresh_out : s.fresh.2.out = s.out := rfl

/-! ### freshWord -/

@[simp] theorem freshWord_pending : s.freshWord.2.pending = s.pending := rfl
@[simp] theorem freshWord_nowNs : s.freshWord.2.nowNs = s.nowNs := rfl
@[simp] theorem freshWord_mem : s.freshWord.2.mem = s.mem := rfl
@[simp] theorem freshWord_poison : s.freshWord.2.poison = s.poison := rfl
@[simp] theorem freshWord_memKeys : s.freshWord.2.memKeys = s.memKeys := rfl
@[simp] theorem freshWord_slabTurn : s.freshWord.2.slabTurn = s.slabTurn := rfl
@[simp] theorem freshWord_weirs : s.freshWord.2.weirs = s.weirs := rfl
@[simp] theorem freshWord_weirOps : s.freshWord.2.weirOps = s.weirOps := rfl
@[simp] theorem freshWord_seqs : s.freshWord.2.seqs = s.seqs := rfl
@[simp] theorem freshWord_queues : s.freshWord.2.queues = s.queues := rfl
@[simp] theorem freshWord_slots : s.freshWord.2.slots = s.slots := rfl
@[simp] theorem freshWord_tide : s.freshWord.2.tide = s.tide := rfl
@[simp] theorem freshWord_cores : s.freshWord.2.cores = s.cores := rfl
@[simp] theorem freshWord_llc : s.freshWord.2.llc = s.llc := rfl
@[simp] theorem freshWord_nt : s.freshWord.2.nt = s.nt := rfl
@[simp] theorem freshWord_dt : s.freshWord.2.dt = s.dt := rfl
@[simp] theorem freshWord_cod : s.freshWord.2.cod = s.cod := rfl
@[simp] theorem freshWord_dlt : s.freshWord.2.dlt = s.dlt := rfl
@[simp] theorem freshWord_train : s.freshWord.2.train = s.train := rfl
@[simp] theorem freshWord_est : s.freshWord.2.est = s.est := rfl
@[simp] theorem freshWord_coll : s.freshWord.2.coll = s.coll := rfl
@[simp] theorem freshWord_frd : s.freshWord.2.frd = s.frd := rfl
@[simp] theorem freshWord_spw : s.freshWord.2.spw = s.spw := rfl
@[simp] theorem freshWord_jui : s.freshWord.2.jui = s.jui := rfl
@[simp] theorem freshWord_gau : s.freshWord.2.gau = s.gau := rfl
@[simp] theorem freshWord_boot : s.freshWord.2.boot = s.boot := rfl
@[simp] theorem freshWord_oxb : s.freshWord.2.oxb = s.oxb := rfl
@[simp] theorem freshWord_cap : s.freshWord.2.cap = s.cap := rfl
@[simp] theorem freshWord_pins : s.freshWord.2.pins = s.pins := rfl
@[simp] theorem freshWord_rst : s.freshWord.2.rst = s.rst := rfl
@[simp] theorem freshWord_out : s.freshWord.2.out = s.out := rfl

@[simp] theorem modEst_ctr (f : EstCtr → EstCtr) : (s.modEst f).est.ctr = f s.est.ctr := rfl
@[simp] theorem modFrd_frd (f : FrdSt → FrdSt) : (s.modFrd f).frd = f s.frd := rfl
@[simp] theorem modGau_gau (f : GauSt → GauSt) : (s.modGau f).gau = f s.gau := rfl
@[simp] theorem modJui_jui (f : JuiSt → JuiSt) : (s.modJui f).jui = f s.jui := rfl
@[simp] theorem modSpw_spw (f : SpwSt → SpwSt) : (s.modSpw f).spw = f s.spw := rfl
@[simp] theorem modTide_tide (f : TideSt → TideSt) : (s.modTide f).tide = f s.tide := rfl
@[simp] theorem modBoot_boot (f : BootSt → BootSt) : (s.modBoot f).boot = f s.boot := rfl
@[simp] theorem modPins_pins (f : PinSt → PinSt) : (s.modPins f).pins = f s.pins := rfl
@[simp] theorem send_out (m : OutMsg) : (s.send m).out = s.out ++ [m] := rfl

@[simp] theorem fresh_freeCtr : s.fresh.2.freeCtr = s.freeCtr + 1 := rfl

/-! ### Numbered things read after an update -/

@[simp] theorem core_modCore (c k : Nat) (f : CoreSt → CoreSt) : (s.modCore c f).core k = if k = c then f (s.core c) else s.core k := by
  simp only [State.core, State.modCore, tmod, tget_tset]

@[simp] theorem core_modVec (c k : Nat) (f : VecSt → VecSt) :
    (s.modVec c f).core k = if k = c then { s.core c with vec := f (s.core c).vec } else s.core k := core_modCore s c k _

@[simp] theorem core_modMx (c k : Nat) (f : MxSt → MxSt) :
    (s.modMx c f).core k = if k = c then { s.core c with mx := f (s.core c).mx } else s.core k := core_modCore s c k _

@[simp] theorem core_modBsn (c k : Nat) (f : BsnSt → BsnSt) :
    (s.modBsn c f).core k = if k = c then { s.core c with bsn := f (s.core c).bsn } else s.core k := core_modCore s c k _

@[simp] theorem core_modSlc (c k : Nat) (f : SlcSt → SlcSt) :
    (s.modSlc c f).core k = if k = c then { s.core c with slc := f (s.core c).slc } else s.core k := core_modCore s c k _

@[simp] theorem core_modDma (c k : Nat) (f : DmaSt → DmaSt) :
    (s.modDma c f).core k = if k = c then { s.core c with dma := f (s.core c).dma } else s.core k := core_modCore s c k _

@[simp] theorem weir_arriveWeir (i k : Nat) : (s.arriveWeir i).weir k = if k = i then (s.weir i).arrive else s.weir k := by
  simp only [State.weir, State.arriveWeir, tmod, tget_tset]

@[simp] theorem weir_armWeir (i t key k : Nat) : (s.armWeir i t key).weir k =
    if k = i then { s.weirCycle i with arms := armInsert key t (s.weirCycle i).arms }.result else s.weir k := by
  simp only [State.weir, State.armWeir, tget_tset]

/-- Armed first in its cycle, a weir has had its arm alone (R50, R52). -/
theorem weir_armWeir_first (i t key : Nat) (h : (tget WeirOps.zero s.weirOps i).at' ≠ s.nowNs + 1) :
    (s.armWeir i t key).weir i = (s.weir i).arm t := by
  have e : s.weirCycle i = { WeirOps.zero with at' := s.nowNs + 1, was := s.weir i } := if_neg h
  rw [weir_armWeir, if_pos rfl, e]
  rfl

@[simp] theorem seqr_modSeq (p k : Nat) (f : SeqSt → SeqSt) : (s.modSeq p f).seqr k = if k = p then f (s.seqr p) else s.seqr k := by
  simp only [State.seqr, State.modSeq, tmod, tget_tset]

@[simp] theorem queue_modQueue (q k : Nat) (f : QueueSt → QueueSt) : (s.modQueue q f).queue k = if k = q then f (s.queue q) else s.queue k := by
  simp only [State.queue, State.modQueue, tmod, tget_tset]

@[simp] theorem row_modRow (r k : Nat) (f : NormRow → NormRow) : (s.modRow r f).row k = if k = r then f (s.row r) else s.row k := by
  simp only [State.row, State.modRow, tmod, tget_tset]

@[simp] theorem slice_modSlice (i k : Nat) (f : SliceSt → SliceSt) : (s.modSlice i f).slice k = if k = i then f (s.slice i) else s.slice k := by
  simp only [State.slice, State.modSlice, tmod, tget_tset]

@[simp] theorem line_setLine (p k : Nat) (x : LLine) : (s.setLine p x).line k = if k = p then x else s.line k := by
  simp only [State.line, State.setLine, tget_tset]

@[simp] theorem qp_modQp (n k : Nat) (f : Qp → Qp) : (s.modQp n f).qp k = if k = n then f (s.qp n) else s.qp k := by
  simp only [State.qp, State.modQp, tmod, tget_tset]

@[simp] theorem qp_modEst (f : EstCtr → EstCtr) (k : Nat) : (s.modEst f).qp k = s.qp k := rfl

@[simp] theorem upd_modUpd (p k : Nat) (f : UpdSt → UpdSt) : (s.modUpd p f).upd k = if k = p then f (s.upd p) else s.upd k := by
  simp only [State.upd, State.modUpd, tmod, tget_tset]

/-! ### Entries of the wake log -/

/-- A command found in the wake log is the one asked for. -/
theorem entry_isFor {s : State} {q n : Nat} {e : WakeEntry} (h : s.entry q n = some e) : e.isFor q n = true := by
  have aux : ∀ l : List WakeEntry, findFirst (fun e => e.isFor q n) l = some e → e.isFor q n = true := by
    intro l
    induction l with
    | nil => intro h; cases h
    | cons a t ih =>
      intro h
      simp only [findFirst] at h
      split at h
      · injection h with h; rw [← h]; assumption
      · exact ih h
  exact aux _ h

/-- Its queue and number. -/
theorem entry_cmd {s : State} {q n : Nat} {e : WakeEntry} (h : s.entry q n = some e) : e.cmd.queue = q ∧ e.cmd.seq = n := by
  have := entry_isFor h
  simpa [WakeEntry.isFor] using this

/-- The first entry of a list after the entries of a command are changed. -/
theorem findFirst_map_isFor (l : List WakeEntry) (q n : Nat) (f : WakeEntry → WakeEntry) (hf : ∀ e, (f e).cmd = e.cmd) :
    findFirst (fun e => e.isFor q n) (l.map (fun e => if e.isFor q n then f e else e)) = (findFirst (fun e => e.isFor q n) l).map f := by
  induction l with
  | nil => rfl
  | cons a t ih =>
    by_cases h : a.isFor q n
    · have : (f a).isFor q n = true := by rw [WakeEntry.isFor, hf]; exact h
      simp [findFirst, h, this]
    · simpa [findFirst, h] using ih

/-- An entry after a change of its command's entry. -/
theorem entry_modEntry (q n : Nat) (f : WakeEntry → WakeEntry) (hf : ∀ e, (f e).cmd = e.cmd) :
    (s.modEntry q n f).entry q n = (s.entry q n).map f := by
  simp only [State.entry, State.modEntry, seqr_modSeq, if_pos]
  exact findFirst_map_isFor _ q n f hf

/-- The entry of a command whose work is done. -/
theorem entry_ran (q n code : Nat) (r : List Byte) (es : List RowEffect) :
    (s.ran q n code r es).entry q n = (s.entry q n).map (fun e =>
      { e with started := true, ran := true, phase := 1, code := code, result := r, effects := e.effects ++ es }) :=
  entry_modEntry s q n _ (fun _ => rfl)

/-- A command found ready has its entry in the wake log, of its opcode, neither started nor ended. -/
theorem ready_entry {s : State} {q n op : Nat} {e : WakeEntry} (h : s.ready q n op = some e) :
    s.entry q n = some e ∧ e.cmd.opcode = op ∧ e.started = false ∧ e.ended = false := by
  unfold State.ready at h
  split at h
  · cases h
  · split at h
    · rename_i h1 h2
      injection h with h
      subst h
      exact ⟨h1, h2⟩
    · cases h

/-- When the work of a command leaves the wake log's commands alone, an entry stays one of the same command. -/
theorem work_entry {r s : State} (h : Work r s) {q n : Nat} {e : WakeEntry} (he : r.entry q n = some e) :
    ∃ x, s.entry q n = some x ∧ x.cmd = e.cmd := by
  have aux : ∀ l m : List WakeEntry, m.map (fun e => e.cmd) = l.map (fun e => e.cmd) → findFirst (fun e => e.isFor q n) l = some e →
      ∃ x, findFirst (fun e => e.isFor q n) m = some x ∧ x.cmd = e.cmd := by
    intro l
    induction l with
    | nil => intro m _ h; cases h
    | cons a t ih =>
      intro m hm hl
      cases m with
      | nil => simp at hm
      | cons b m =>
        simp only [List.map_cons, List.cons.injEq] at hm
        have hb : b.isFor q n = a.isFor q n := by simp only [WakeEntry.isFor, hm.1]
        simp only [findFirst, hb] at hl ⊢
        split
        · rename_i hh
          rw [if_pos hh] at hl
          injection hl with hl
          exact ⟨b, rfl, by rw [hm.1, hl]⟩
        · rename_i hh
          rw [if_neg hh] at hl
          exact ih m hm.2 hl
  exact aux _ _ (h.wake (q / 64)) he

end Sys2Proof.Laws
end

