-- ==== Sys2Proof/Laws/Work.lean ====
section
/-! SUPPORT. What the work of a command leaves alone (`Work`): the ways it composes, and the operations that touch the wake log. -/

set_option Elab.async false

namespace Sys2Proof.Laws

open Sys2Proof Sys2Proof.Machine

theorem work_refl (s : State) : Work s s :=
  ⟨rfl, rfl, rfl, rfl, fun q => ⟨(s.queue q).arrived, List.Sublist.refl _, rfl⟩, rfl, rfl, rfl, rfl, rfl, rfl, rfl, rfl, rfl, rfl, rfl, rfl, rfl,
   fun _ => rfl⟩

theorem work_trans {r s t : State} (h : Work r s) (k : Work s t) : Work r t :=
  ⟨k.memKeys.trans h.memKeys, k.slabTurn.trans h.slabTurn, k.weirs.trans h.weirs, k.weirOps.trans h.weirOps,
   fun q => by
     obtain ⟨l, hl, el⟩ := h.queues q
     obtain ⟨m, hm, em⟩ := k.queues q
     refine ⟨m, ?_, by rw [em, el]⟩
     rw [el] at hm
     exact List.Sublist.trans hm hl,
   k.slots.trans h.slots, k.tide.trans h.tide, k.coll.trans h.coll, k.frd.trans h.frd, k.spw.trans h.spw, k.boot.trans h.boot,
   k.oxb.trans h.oxb, k.cap.trans h.cap, k.pins.trans h.pins, k.rst.trans h.rst, k.out.trans h.out, by rw [k.est, h.est],
   by rw [k.train, h.train], fun p => (k.wake p).trans (h.wake p)⟩

/-- `Work` holds when the queues stand, and everything else that it names. -/
theorem work_of {r s : State} (h1 : s.memKeys = r.memKeys) (h2 : s.slabTurn = r.slabTurn) (h3 : s.weirs = r.weirs) (h4 : s.weirOps = r.weirOps)
    (h5 : s.queues = r.queues) (h6 : s.slots = r.slots) (h7 : s.tide = r.tide) (h8 : s.coll = r.coll) (h9 : s.frd = r.frd) (h10 : s.spw = r.spw)
    (h11 : s.boot = r.boot) (h12 : s.oxb = r.oxb) (h13 : s.cap = r.cap) (h14 : s.pins = r.pins) (h15 : s.rst = r.rst) (h16 : s.out = r.out)
    (h17 : s.est = { r.est with ctr := s.est.ctr }) (h18 : s.train = { r.train with engines := s.train.engines })
    (h19 : ∀ p, (s.seqr p).wake.map (fun e => e.cmd) = (r.seqr p).wake.map (fun e => e.cmd)) : Work r s :=
  ⟨h1, h2, h3, h4, fun q => ⟨(r.queue q).arrived, List.Sublist.refl _, by rw [State.queue, h5]; rfl⟩, h6, h7, h8, h9, h10, h11, h12, h13, h14, h15,
   h16, h17, h18, h19⟩

/-- A record update of other fields; the form in which an update appears. -/
theorem work_mk {r s : State} {x_pending : List Instr} {x_freeCtr : Nat} {x_nowNs : Nat} {x_mem : List Host.Cell} {x_poison : List Nat}
    {x_cores : Tbl CoreSt} {x_llc : LlcSt} {x_nt : Tbl MemCtl} {x_dt : Tbl MemCtl} {x_cod : CodSt} {x_dlt : DltSt} {x_engines : Tbl UpdSt}
    {x_ctr : EstCtr} {x_jui : JuiSt} {x_gau : GauSt} (h : Work r s) : Work r (State.mk x_pending x_freeCtr x_nowNs x_mem x_poison s.memKeys
    s.slabTurn s.weirs s.weirOps s.seqs s.queues s.slots s.tide x_cores x_llc x_nt x_dt x_cod x_dlt (TrainSt.mk s.train.rows s.train.step s.train.seed
    s.train.checkEn s.train.token s.train.vote s.train.lastOutcome s.train.lastMark s.train.commits s.train.voteFailed s.train.noVote
    x_engines s.train.headroom s.train.kmax) (EstSt.mk s.est.linkUp s.est.lanesTrained s.est.lanesInUse s.est.attempts s.est.badLanes
    s.est.attemptCount s.est.cfg x_ctr s.est.qps s.est.retrainDue) s.coll s.frd s.spw x_jui x_gau s.boot s.oxb s.cap s.pins s.rst s.out) :=
  work_trans h (work_of rfl rfl rfl rfl rfl rfl rfl rfl rfl rfl rfl rfl rfl rfl rfl rfl rfl rfl (fun _ => rfl))

theorem work_fst {α : Type} {r a : State} {b : α} {p : State × α} (e : p = (a, b)) (h : Work r p.1) : Work r a := by rw [e] at h; exact h

theorem work_snd {α : Type} {r a : State} {b : α} {p : α × State} (e : p = (b, a)) (h : Work r p.2) : Work r a := by rw [e] at h; exact h

theorem work_foldl {α : Type} {r s : State} {l : List α} {f : State → α → State} (hf : ∀ q x, Work q (f q x)) (h : Work r s) :
    Work r (l.foldl f s) := by
  induction l generalizing s with
  | nil => exact h
  | cons a t ih => exact ih (work_trans h (hf s a))

theorem work_foldl_fst {α β : Type} {r : State} {p : State × β} {l : List α} {f : State × β → α → State × β}
    (hf : ∀ q x, Work q.1 (f q x).1) (h : Work r p.1) : Work r (l.foldl f p).1 := by
  induction l generalizing p with
  | nil => exact h
  | cons a t ih => exact ih (work_trans h (hf p a))

theorem work_foldl_snd {α β : Type} {r : State} {p : β × State} {l : List α} {f : β × State → α → β × State}
    (hf : ∀ q x, Work q.2 (f q x).2) (h : Work r p.2) : Work r (l.foldl f p).2 := by
  induction l generalizing p with
  | nil => exact h
  | cons a t ih => exact ih (work_trans h (hf p a))

/-- A sequencer changed without its commands. -/
theorem work_modSeq {r s : State} (p : Nat) (f : SeqSt → SeqSt) (hf : ∀ x, (f x).wake.map (fun e => e.cmd) = x.wake.map (fun e => e.cmd))
    (h : Work r s) : Work r (s.modSeq p f) := by
  refine work_trans h (work_of rfl rfl rfl rfl rfl rfl rfl rfl rfl rfl rfl rfl rfl rfl rfl rfl rfl rfl (fun i => ?_))
  simp only [State.seqr, State.modSeq, tmod, tget_tset]
  split
  · rename_i hi; rw [hi]; exact hf _
  · rfl

/-- An entry changed without its command. -/
theorem work_modEntry {r s : State} (q n : Nat) (f : WakeEntry → WakeEntry) (hf : ∀ e, (f e).cmd = e.cmd) (h : Work r s) :
    Work r (s.modEntry q n f) := by
  refine work_modSeq _ _ (fun x => ?_) h
  simp only [List.map_map]
  congr 1
  funext e
  simp only [Function.comp]
  split
  · exact hf e
  · rfl

/-- What an entry remembers of its stores leaves its command alone. -/
theorem noteStored_cmd (e : WakeEntry) (t : TDesc) (us : List (Nat × Nat × Nat)) : (e.noteStored t us).cmd = e.cmd := by
  unfold WakeEntry.noteStored
  split <;> rfl

/-- Of the queues, waiting frames alone are lost (R306). -/
theorem work_noticeRings {r s : State} (s0 : State) (a n : Nat) (h : Work r s) : Work r (s0.noticeRings s a n) := by
  unfold State.noticeRings
  split
  · exact h
  · refine work_trans h ⟨rfl, rfl, rfl, rfl, fun q => ?_, rfl, rfl, rfl, rfl, rfl, rfl, rfl, rfl, rfl, rfl, rfl, rfl, rfl, fun _ => rfl⟩
    simp only [State.queue]
    rcases tget_tmapAll QueueSt.zero (fun q x => if x.arrived.all (s0.entryStands s q x.expected) then x
        else { x with arrived := x.arrived.filter (s0.entryStands s q x.expected) }) s.queues q with e | ⟨e, e'⟩
    · rw [e]
      split
      · exact ⟨_, List.Sublist.refl _, rfl⟩
      · exact ⟨_, List.filter_sublist, rfl⟩
    · rw [e, e']
      exact ⟨_, List.Sublist.refl _, rfl⟩

/-- Descriptors found late are only counted (R45). -/
theorem work_noticeDescs {r s : State} (s0 : State) (a n : Nat) (h : Work r s) : Work r (s0.noticeDescs s a n) := by
  unfold State.noticeDescs
  refine work_foldl ?_ h
  intro q p
  dsimp only
  split
  · exact work_refl _
  · exact work_modSeq p (fun x => { x with descLate := x.descLate + ((distinct (s0.watched p)).filter (fun (r : Nat × Nat) =>
      decide (r.1 < a + n) && decide (a < r.1 + r.2) && !s0.sameBytes s r.1 r.2)).length }) (fun _ => rfl) (work_refl q)

theorem work_countRa {r s : State} (q : Nat) (used : Bool) (h : Work r s) : Work r (s.countRa q used) :=
  work_modSeq (q / 64) (fun c => if used then { c with raUsed := c.raUsed + 1 } else { c with raDiscarded := c.raDiscarded + 1 })
    (fun x => by split <;> rfl) h

theorem work_memSet {r s : State} (a : Nat) (b : Byte) (h : Work r s) : Work r (s.memSet a b) := work_mk h

theorem work_setPoison {r s : State} (k : Nat) (on : Bool) (h : Work r s) : Work r (s.setPoison k on) := work_mk h

theorem work_fresh {r s : State} (h : Work r s) : Work r s.fresh.2 := work_mk h

theorem work_freshWord {r s : State} (h : Work r s) : Work r s.freshWord.2 := work_mk h

theorem work_ran {r s : State} (q n code : Nat) (res : List Byte) (eff : List RowEffect) (h : Work r s) : Work r (s.ran q n code res eff) :=
  work_modEntry q n _ (fun _ => rfl) h

end Sys2Proof.Laws
end

