-- ==== Sys2Proof/Laws/Stored.lean ====
section
/-! SUPPORT. What a write to memory leaves alone (`Stored`): the ways it composes. -/

set_option Elab.async false

namespace Sys2Proof.Laws

open Sys2Proof Sys2Proof.Machine

theorem stored_refl (s : State) : Stored s s := ⟨work_refl s, rfl, rfl, rfl, rfl, rfl, rfl, rfl, rfl, rfl⟩

theorem stored_trans {r s t : State} (h : Stored r s) (k : Stored s t) : Stored r t :=
  ⟨work_trans h.work k.work, k.pending.trans h.pending, k.nowNs.trans h.nowNs, k.freeCtr.trans h.freeCtr, k.cores.trans h.cores,
   k.jui.trans h.jui, by rw [k.dlt, h.dlt], k.cod.trans h.cod, k.train.trans h.train, k.gau.trans h.gau⟩

/-- A record update of other fields; the form in which an update appears. -/
theorem stored_mk {r s : State} {x_mem : List Host.Cell} {x_poison : List Nat} {x_llc : LlcSt} {x_nt : Tbl MemCtl} {x_dt : Tbl MemCtl}
    {x_lost : Nat} {x_ctr : EstCtr} (h : Stored r s) : Stored r (State.mk s.pending s.freeCtr s.nowNs x_mem x_poison s.memKeys s.slabTurn s.weirs
    s.weirOps s.seqs s.queues s.slots s.tide s.cores x_llc x_nt x_dt s.cod (DltSt.mk s.dlt.pfEn s.dlt.pfBudgetMib s.dlt.history s.dlt.busyQueue
    s.dlt.pfActive s.dlt.lastExperts s.dlt.lastTopk s.dlt.lastLayer s.dlt.lastImbalance s.dlt.routes s.dlt.choices s.dlt.dropped s.dlt.moved
    s.dlt.spilled s.dlt.pfPredicted s.dlt.pfHits s.dlt.pfWrong s.dlt.pfUnpredicted s.dlt.pfLines x_lost s.dlt.pfBudgetCut s.dlt.badEntries
    s.dlt.nonfinite s.dlt.owned s.dlt.ending) s.train (EstSt.mk s.est.linkUp s.est.lanesTrained s.est.lanesInUse
    s.est.attempts s.est.badLanes s.est.attemptCount s.est.cfg x_ctr s.est.qps s.est.retrainDue) s.coll s.frd s.spw s.jui s.gau s.boot s.oxb
    s.cap s.pins s.rst s.out) :=
  stored_trans h ⟨work_mk (work_refl s), rfl, rfl, rfl, rfl, rfl, rfl, rfl, rfl, rfl⟩

theorem stored_fst {α : Type} {r a : State} {b : α} {p : State × α} (e : p = (a, b)) (h : Stored r p.1) : Stored r a := by rw [e] at h; exact h

theorem stored_snd {α : Type} {r a : State} {b : α} {p : α × State} (e : p = (b, a)) (h : Stored r p.2) : Stored r a := by rw [e] at h; exact h

theorem stored_foldl {α : Type} {r s : State} {l : List α} {f : State → α → State} (hf : ∀ q x, Stored q (f q x)) (h : Stored r s) :
    Stored r (l.foldl f s) := by
  induction l generalizing s with
  | nil => exact h
  | cons a t ih => exact ih (stored_trans h (hf s a))

theorem stored_foldl_fst {α β : Type} {r : State} {p : State × β} {l : List α} {f : State × β → α → State × β}
    (hf : ∀ q x, Stored q.1 (f q x).1) (h : Stored r p.1) : Stored r (l.foldl f p).1 := by
  induction l generalizing p with
  | nil => exact h
  | cons a t ih => exact ih (stored_trans h (hf p a))

theorem stored_foldl_snd {α β : Type} {r : State} {p : β × State} {l : List α} {f : β × State → α → β × State}
    (hf : ∀ q x, Stored q.2 (f q x).2) (h : Stored r p.2) : Stored r (l.foldl f p).2 := by
  induction l generalizing p with
  | nil => exact h
  | cons a t ih => exact ih (stored_trans h (hf p a))

theorem stored_noticeRings {r s : State} (s0 : State) (a n : Nat) (h : Stored r s) : Stored r (s0.noticeRings s a n) := by
  refine stored_trans h ⟨work_noticeRings s0 a n (work_refl s), ?_, ?_, ?_, ?_, ?_, ?_, ?_, ?_, ?_⟩ <;>
    unfold State.noticeRings <;> split <;> rfl

theorem stored_noticeDescs {r s : State} (s0 : State) (a n : Nat) (h : Stored r s) : Stored r (s0.noticeDescs s a n) := by
  unfold State.noticeDescs
  refine stored_foldl ?_ h
  intro q p
  dsimp only
  split
  · exact stored_refl _
  · exact ⟨work_modSeq p (fun x => { x with descLate := x.descLate + ((distinct (s0.watched p)).filter (fun (r : Nat × Nat) =>
      decide (r.1 < a + n) && decide (a < r.1 + r.2) && !s0.sameBytes s r.1 r.2)).length }) (fun _ => rfl) (work_refl q),
      rfl, rfl, rfl, rfl, rfl, rfl, rfl, rfl, rfl⟩

theorem stored_countRa {r s : State} (q : Nat) (used : Bool) (h : Stored r s) : Stored r (s.countRa q used) :=
  stored_trans h ⟨work_countRa q used (work_refl s), rfl, rfl, rfl, rfl, rfl, rfl, rfl, rfl, rfl⟩

theorem stored_memSet {r s : State} (a : Nat) (b : Byte) (h : Stored r s) : Stored r (s.memSet a b) := stored_mk h

theorem stored_setPoison {r s : State} (k : Nat) (on : Bool) (h : Stored r s) : Stored r (s.setPoison k on) := stored_mk h

end Sys2Proof.Laws
end

