-- ==== Sys2Proof/Laws/StoredOps.lean ====
section
/-! SUPPORT. What the operations on memory leave alone (`Stored`), one lemma per operation: memory, the cache and tensors. -/

namespace Sys2Proof.Laws

open Sys2Proof Sys2Proof.Machine

/-! ### Mem -/

theorem stored_modSlice {org s : State} (i : Nat) (f : SliceSt → SliceSt) (hk : Stored org s) : Stored org (State.modSlice s i f) := by
  unfold State.modSlice
  repeat' (with_reducible first
      | assumption | exact stored_refl _ | dsimp only | (apply stored_mk))

theorem stored_setLine {org s : State} (p : Nat) (x : LLine) (hk : Stored org s) : Stored org (State.setLine s p x) := by
  unfold State.setLine
  repeat' (with_reducible first
      | assumption | exact stored_refl _ | dsimp only | (apply stored_mk))

theorem stored_modLine {org s : State} (p : Nat) (f : LLine → LLine) (hk : Stored org s) : Stored org (State.modLine s p f) := by
  unfold State.modLine
  repeat' (with_reducible first
      | assumption | exact stored_refl _ | dsimp only | apply stored_setLine)

theorem stored_modCtl {org s : State} (a : Nat) (f : MemCtl → MemCtl) (hk : Stored org s) : Stored org (State.modCtl s a f) := by
  unfold State.modCtl
  repeat' (with_reducible first
      | assumption | exact stored_refl _ | dsimp only | split | (refine stored_fst (by assumption) ?_)
      | (refine stored_snd (by assumption) ?_) | (apply stored_mk))

theorem stored_memStore {org s : State} (x0 : Nat) (x1 : List Byte) (hk : Stored org s) : Stored org (State.memStore s x0 x1) := by
  induction x1 generalizing x0 s with
  | nil => exact hk
  | cons b t ih =>
    unfold State.memStore
    repeat' (with_reducible first
      | assumption | (apply ih) | exact stored_refl _ | dsimp only | apply stored_memSet)

theorem stored_burstWrite {org s : State} (a : Nat) (mask : Nat → Bool) (vals : Nat → Byte) (poisoned : Bool) (hk : Stored org s) : Stored
    org (State.burstWrite s a mask vals poisoned) := by
  unfold State.burstWrite
  repeat' (with_reducible first
      | assumption | exact stored_refl _ | (intro _ _) | (intro _) | dsimp only | apply stored_memSet | apply stored_modCtl
      | apply stored_setPoison | (refine stored_foldl ?_ ?_) | (refine stored_foldl_fst ?_ ?_) | split
      | (refine stored_fst (by assumption) ?_) | (refine stored_snd (by assumption) ?_) | (apply stored_mk))

theorem stored_writeBack {org s : State} (p : Nat) (hk : Stored org s) : Stored org (State.writeBack s p) := by
  unfold State.writeBack
  repeat' (with_reducible first
      | assumption | exact stored_refl _ | (intro _ _) | (intro _) | dsimp only | apply stored_burstWrite | apply stored_modSlice
      | split | (apply stored_mk))

theorem stored_touch {org s : State} (p : Nat) (hk : Stored org s) : Stored org (State.touch s p) := by
  unfold State.touch
  repeat' (with_reducible first
      | assumption | exact stored_refl _ | dsimp only | (apply stored_mk))

theorem stored_pinPlace {org s : State} (p : Nat) (hk : Stored org s) : Stored org (State.pinPlace s p) := by
  unfold State.pinPlace
  repeat' (with_reducible first
      | assumption | exact stored_refl _ | (intro _ _) | (intro _) | dsimp only | apply stored_setLine | apply stored_modSlice | split
      | (apply stored_mk))

theorem stored_dropProv {org s : State} (p : Nat) (hk : Stored org s) : Stored org (State.dropProv s p) := by
  unfold State.dropProv
  repeat' (with_reducible first
      | assumption | exact stored_refl _ | dsimp only | apply stored_setLine | apply stored_countRa | split
      | (refine stored_fst (by assumption) ?_) | (refine stored_snd (by assumption) ?_) | (apply stored_mk))

theorem stored_allocate {org s : State} (l : Nat) (hk : Stored org s) : Stored org (State.allocate s l).1 := by
  unfold State.allocate
  repeat' (with_reducible first
      | assumption | exact stored_refl _ | dsimp only | apply stored_writeBack | apply stored_setLine | split
      | (refine stored_fst (by assumption) ?_) | (refine stored_snd (by assumption) ?_) | (apply stored_mk))

theorem stored_lineWrite {org s : State} (a : Nat) (bs : List Byte) (on : Bool) (pin : Bool) (hk : Stored org s) : Stored org
    (State.lineWrite s a bs on pin) := by
  unfold State.lineWrite
  repeat' (with_reducible first
      | assumption | exact stored_refl _ | (intro _ _) | (intro _) | dsimp only | apply stored_modSlice | apply stored_burstWrite
      | apply stored_modLine | apply stored_touch | apply stored_pinPlace | apply stored_dropProv | apply stored_allocate | split
      | (refine stored_fst (by assumption) ?_) | (refine stored_snd (by assumption) ?_) | (apply stored_mk))

theorem stored_slabWrite {org s : State} (a : Nat) (bs : List Byte) (on : Bool) (hk : Stored org s) : Stored org (State.slabWrite s a bs
    on) := by
  unfold State.slabWrite
  repeat' (with_reducible first
      | assumption | exact stored_refl _ | (intro _ _) | dsimp only | apply stored_memStore | apply stored_setPoison
      | (refine stored_foldl ?_ ?_) | (refine stored_foldl_fst ?_ ?_) | split)

theorem stored_pokeP {org s : State} (a : Nat) (bs : List Byte) (on : Bool) (pin : Bool) (hk : Stored org s) : Stored org (State.pokeP s a
    bs on pin) := by
  unfold State.pokeP
  repeat' (with_reducible first
      | assumption | exact stored_refl _ | (intro _ _) | dsimp only | apply stored_lineWrite | apply stored_slabWrite
      | (refine stored_foldl ?_ ?_) | (refine stored_foldl_fst ?_ ?_) | split)

theorem stored_noticed {org s : State} (s0 : State) (a : Nat) (n : Nat) (hk : Stored org s) : Stored org (State.noticed s0 s a n) := by
  unfold State.noticed
  repeat' (with_reducible first
      | assumption | exact stored_refl _ | dsimp only | apply stored_noticeRings | apply stored_noticeDescs)

theorem stored_store {org s : State} (a : Nat) (bs : List Byte) (on : Bool) (pin : Bool) (hk : Stored org s) : Stored org (State.store s a
    bs on pin) := by
  unfold State.store
  repeat' (with_reducible first
      | assumption | exact stored_refl _ | (intro _ _) | (intro _) | dsimp only | apply stored_writePart | apply stored_pokeP
      | apply stored_noticed | (refine stored_foldl ?_ ?_) | (refine stored_foldl_fst ?_ ?_) | split | (apply stored_mk))

theorem stored_poke {org s : State} (a : Nat) (bs : List Byte) (hk : Stored org s) : Stored org (State.poke s a bs) := by
  unfold State.poke
  repeat' (with_reducible first
      | assumption | exact stored_refl _ | dsimp only | apply stored_store)

theorem stored_pinRange {org s : State} (lo : Nat) (hi : Nat) (hk : Stored org s) : Stored org (State.pinRange s lo hi) := by
  unfold State.pinRange
  repeat' (with_reducible first
      | assumption | exact stored_refl _ | (intro _ _) | dsimp only | apply stored_pinPlace | (refine stored_foldl ?_ ?_)
      | (refine stored_foldl_fst ?_ ?_) | split)

theorem stored_clearCache {org s : State}  (hk : Stored org s) : Stored org (State.clearCache s) := by
  unfold State.clearCache
  repeat' (with_reducible first
      | assumption | exact stored_refl _ | (intro _ _) | dsimp only | apply stored_writeBack | (refine stored_foldl ?_ ?_)
      | (refine stored_foldl_fst ?_ ?_) | (apply stored_mk))

/-! ### Tensor -/

theorem stored_TDesc_zbSet {org s : State} (t : TDesc) (r : Nat) (j : Nat) (z : Bool) (hk : Stored org s) : Stored org (TDesc.zbSet t s r
    j z) := by
  unfold TDesc.zbSet
  repeat' (with_reducible first
      | assumption | exact stored_refl _ | dsimp only | apply stored_store | split)

theorem stored_TDesc_zbRefresh {org s : State} (t : TDesc) (r : Nat) (j : Nat) (hk : Stored org s) : Stored org (TDesc.zbRefresh t s r j)
    := by
  unfold TDesc.zbRefresh
  repeat' (with_reducible first
      | assumption | exact stored_refl _ | (intro _ _) | (intro _) | dsimp only | apply stored_TDesc_zbSet | split)

theorem stored_TDesc_storeBelow {org s : State} (t : TDesc) (r : Nat) (ws : List (Nat × Nat × Nat)) (a : Nat) (bs : List Byte) (on : Bool)
    (hk : Stored org s) : Stored org (TDesc.storeBelow t s r ws a bs on) := by
  unfold TDesc.storeBelow
  repeat' (with_reducible first
      | assumption | exact stored_refl _ | (intro _ _) | (intro _) | dsimp only | apply stored_store | (refine stored_foldl ?_ ?_)
      | (refine stored_foldl_fst ?_ ?_) | split)

theorem stored_TDesc_writeRow {org s : State} (t : TDesc) (r : Nat) (i0 : Nat) (bits : List Nat) (on : Bool) (ws : List (Nat × Nat × Nat))
    (hk : Stored org s) : Stored org (TDesc.writeRow t s r i0 bits on ws) := by
  unfold TDesc.writeRow
  repeat' (with_reducible first
      | assumption | exact stored_refl _ | (intro _ _) | (intro _) | dsimp only | apply stored_TDesc_storeBelow | split)

theorem stored_TDesc_writeScale {org s : State} (t : TDesc) (r : Nat) (i0 : Nat) (b : Nat) (on : Bool) (hk : Stored org s) : Stored org
    (TDesc.writeScale t s r i0 b on) := by
  unfold TDesc.writeScale
  repeat' (with_reducible first
      | assumption | exact stored_refl _ | dsimp only | apply stored_store | split)

/-! ### LlcFam -/

theorem stored_countFillReads {org s : State} (l : Nat) (hk : Stored org s) : Stored org (State.countFillReads s l) := by
  unfold State.countFillReads
  repeat' (with_reducible first
      | assumption | exact stored_refl _ | (intro _ _) | (intro _) | dsimp only | apply stored_modCtl | (apply stored_mk))

theorem stored_countUnpinned {org s : State} (si : Nat) (miss : Bool) (hk : Stored org s) : Stored org (State.countUnpinned s si miss) := by
  unfold State.countUnpinned
  repeat' (with_reducible first
      | assumption | exact stored_refl _ | (intro _ _) | (intro _) | dsimp only | apply stored_modSlice | (apply stored_mk))

theorem stored_keepWriteCounts {org s : State} (s0 : State) (hk : Stored org s) : Stored org (State.keepWriteCounts s0 s) := by
  unfold State.keepWriteCounts
  repeat' (with_reducible first
      | assumption | exact stored_refl _ | (intro _ _) | (intro _) | dsimp only | (apply stored_mk))

theorem stored_poisonAt {org s : State} (level : Nat) (a : Nat) (hk : Stored org s) : Stored org (State.poisonAt s level a) := by
  unfold State.poisonAt
  repeat' (with_reducible first
      | assumption | exact stored_refl _ | (intro _ _) | (intro _) | dsimp only | apply stored_setPoison | apply stored_modLine | split
      | (refine stored_fst (by assumption) ?_) | (refine stored_snd (by assumption) ?_) | (apply stored_mk))

theorem stored_readMiss {org s : State} (src : Requester) (l : Nat) (alone : Bool) (errs : ReadErrs) (hk : Stored org s) : Stored org
    (State.readMiss s src l alone errs) := by
  unfold State.readMiss
  repeat' (with_reducible first
      | assumption | exact stored_refl _ | (intro _ _) | (intro _) | dsimp only | apply stored_modSlice | (apply stored_mk))

theorem stored_fillLine {org s : State} (l : Nat) (hk : Stored org s) : Stored org (State.fillLine s l) := by
  unfold State.fillLine
  repeat' (with_reducible first
      | assumption | exact stored_refl _ | dsimp only | apply stored_setLine | split | (refine stored_fst (by assumption) ?_)
      | (refine stored_snd (by assumption) ?_) | (apply stored_mk))

theorem stored_discardProv {org s : State} (cond : Nat → State → Nat → Bool) (hk : Stored org s) : Stored org (State.discardProv s cond).1
    := by
  unfold State.discardProv
  repeat' (with_reducible first
      | assumption | exact stored_refl _ | (intro _ _) | dsimp only | apply stored_dropProv | (refine stored_foldl ?_ ?_)
      | (refine stored_foldl_fst ?_ ?_) | split | (refine stored_fst (by assumption) ?_) | (refine stored_snd (by assumption) ?_)
      | (apply stored_mk))

theorem stored_queueRange {org s : State} (op : Nat) (line : Nat) (count : Nat) (hk : Stored org s) : Stored org (State.queueRange s op
    line count) := by
  unfold State.queueRange
  repeat' (with_reducible first
      | assumption | exact stored_refl _ | dsimp only | split | (apply stored_mk))

theorem stored_rangeAt {org s : State} (o : RangeOp) (p : Nat) (hk : Stored org s) : Stored org (State.rangeAt s o p) := by
  unfold State.rangeAt
  repeat' (with_reducible first
      | assumption | exact stored_refl _ | (intro _ _) | (intro _) | dsimp only | apply stored_pinPlace | apply stored_setLine
      | apply stored_modSlice | apply stored_writeBack | apply stored_modLine | split | (apply stored_mk))

theorem stored_applyRange {org s : State} (o : RangeOp) (hk : Stored org s) : Stored org (State.applyRange s o) := by
  unfold State.applyRange
  repeat' (with_reducible first
      | assumption | exact stored_refl _ | (intro _ _) | (intro _) | dsimp only | apply stored_rangeAt | (refine stored_foldl ?_ ?_)
      | (refine stored_foldl_fst ?_ ?_) | split | (apply stored_mk))

/-! ### Descs -/

theorem stored_TDesc_pinLines {org s : State} (t : TDesc) (hk : Stored org s) : Stored org (TDesc.pinLines t s) := by
  unfold TDesc.pinLines
  repeat' (with_reducible first
      | assumption | exact stored_refl _ | (intro _ _) | dsimp only | apply stored_pinRange | (refine stored_foldl ?_ ?_)
      | (refine stored_foldl_fst ?_ ?_) | split)

/-! ### Narrow -/

theorem stored_TDesc_writeMarked {org s : State} (t : TDesc) (r : Nat) (i0 : Nat) (bits : List Nat) (marks : List Bool) (ws : List (Nat ×
    Nat × Nat)) (hk : Stored org s) : Stored org (TDesc.writeMarked t s r i0 bits marks ws) := by
  unfold TDesc.writeMarked
  repeat' (with_reducible first
      | assumption | exact stored_refl _ | (intro _ _) | (intro _) | dsimp only | apply stored_TDesc_writeRow
      | (refine stored_foldl ?_ ?_) | (refine stored_foldl_fst ?_ ?_) | split)

theorem stored_writePart {org s : State} (t : TDesc) (p : Narrowed) (zb : Bool) (ws : List (Nat × Nat × Nat)) (hk : Stored org s) : Stored
    org (State.writePart s t p zb ws) := by
  unfold State.writePart
  repeat' (with_reducible first
      | assumption | exact stored_refl _ | dsimp only | apply stored_TDesc_writeMarked | apply stored_TDesc_writeScale
      | apply stored_TDesc_zbRefresh | split | (refine stored_fst (by assumption) ?_) | (refine stored_snd (by assumption) ?_)
      | (apply stored_mk))

theorem stored_writeUnit {org s : State} (t : TDesc) (o : NarrowOut) (zb : Bool) (ws : List (Nat × Nat × Nat)) (hk : Stored org s) :
    Stored org (State.writeUnit s t o zb ws) := by
  unfold State.writeUnit
  repeat' (with_reducible first
      | assumption | exact stored_refl _ | (intro _ _) | dsimp only | apply stored_writePart | (refine stored_foldl ?_ ?_)
      | (refine stored_foldl_fst ?_ ?_))

end Sys2Proof.Laws
end

