-- ==== Sys2Proof/Laws/Vector.lean ====
section
/-! SUPPORT. The vector engine: elements of a register written and read back, and what the issue of an instruction does, once for the V slot and
once for the S slot. -/

set_option Elab.async false

namespace Sys2Proof.Laws

open Sys2Proof Sys2Proof.Machine

/-! ### Elements (R173) -/

/-- A list of elements packed and read back. -/
theorem pack_get (W : Nat) (l : List Nat) (j : Nat) :
    (l.foldr (fun b acc => b % 2 ^ W + 2 ^ W * acc) 0) / 2 ^ (W * j) % 2 ^ W = lget 0 l j % 2 ^ W := by
  induction l generalizing j with
  | nil => simp [lget]
  | cons a t ih =>
    have hp : 0 < 2 ^ W := Nat.two_pow_pos W
    cases j with
    | zero => simp [lget, Nat.add_mul_mod_self_left]
    | succ j =>
      have hd : 2 ^ (W * (j + 1)) = 2 ^ W * 2 ^ (W * j) := by rw [Nat.mul_add, Nat.mul_one, Nat.pow_add, Nat.mul_comm]
      simp only [List.foldr_cons]
      rw [hd, ← Nat.div_div_eq_div_mul, Nat.add_mul_div_left _ _ hp, Nat.div_eq_of_lt (Nat.mod_lt _ hp), Nat.zero_add, ih]
      simp [lget]

/-- A packed list stays below the width of all its elements. -/
theorem pack_lt (W : Nat) (l : List Nat) : l.foldr (fun b acc => b % 2 ^ W + 2 ^ W * acc) 0 < 2 ^ (W * l.length) := by
  induction l with
  | nil => simp
  | cons a t ih =>
    have hp : 0 < 2 ^ W := Nat.two_pow_pos W
    have h1 : a % 2 ^ W < 2 ^ W := Nat.mod_lt _ hp
    simp only [List.foldr_cons, List.length_cons]
    have hd : 2 ^ (W * (t.length + 1)) = 2 ^ W * 2 ^ (W * t.length) := by rw [Nat.mul_add, Nat.mul_one, Nat.pow_add, Nat.mul_comm]
    rw [hd]
    have h2 := Nat.mul_le_mul_left (2 ^ W) (Nat.succ_le_of_lt ih)
    rw [Nat.succ_eq_add_one, Nat.mul_add] at h2
    omega

/-- An element of a packed register. -/
theorem vGet_vPack (ty : Nat) (l : List Nat) (j : Nat) (hl : l.length = vCount ty) : vGet ty (vPack ty l) j = lget 0 l j % 2 ^ vWidth ty := by
  have hw : vWidth ty * l.length = 2048 := by
    rw [hl]; unfold vWidth vCount
    by_cases h1 : ty = 1
    · simp [h1]
    · by_cases h2 : ty = 2
      · simp [h2]
      · simp [h1, h2]
  unfold vGet vPack
  have hlt := pack_lt (vWidth ty) l
  rw [hw] at hlt
  rw [BitVec.toNat_ushiftRight, BitVec.toNat_ofNat, Nat.mod_eq_of_lt hlt, Nat.shiftRight_eq_div_pow]
  exact pack_get _ _ _

/-- An element of a register fits its width. -/
theorem vGet_lt (ty : Nat) (x : BitVec 2048) (j : Nat) : vGet ty x j < 2 ^ vWidth ty := Nat.mod_lt _ (Nat.two_pow_pos _)

/-- An entry of a list made from its indices. -/
theorem lget_map_range {α : Type} (d : α) (n j : Nat) (f : Nat → α) (h : j < n) : lget d ((List.range n).map f) j = f j := by
  simp [lget, h]

/-- An element of the register an instruction writes: its new value, or for a masked-off one +0 under ZM, else what it was (R174). -/
theorem vGet_setV (v : VecSt) (ty : Nat) (zm : Bool) (vd : Nat) (res : List (Option (Nat × Bool))) (j : Nat) (hj : j < vCount ty) :
    vGet ty ((v.setV ty zm vd res).vreg vd) j =
      match lget none res j with
      | some r => r.1 % 2 ^ vWidth ty
      | none => if zm then 0 else vGet ty (v.vreg vd) j := by
  simp only [VecSt.setV, VecSt.vreg, tget_tset_same]
  rw [vGet_vPack _ _ _ (by simp), lget_map_range _ _ _ _ hj]
  cases lget none res j with
  | some r => rfl
  | none =>
    cases zm
    · exact Nat.mod_eq_of_lt (vGet_lt _ _ _)
    · simp

/-- The other registers stand. -/
theorem setV_vreg_other (v : VecSt) (ty : Nat) (zm : Bool) (vd r : Nat) (res : List (Option (Nat × Bool))) (h : r ≠ vd) :
    (v.setV ty zm vd res).vreg r = v.vreg r := by
  simp only [VecSt.setV, VecSt.vreg]
  exact tget_tset_other 0 v.v vd r _ h

/-- A scalar register after a write; s0 stays zero (R167). -/
theorem sreg_setS (v : VecSt) (d k : Nat) (x : W64) : (v.setS d x).sreg k = if k = d ∧ d ≠ 0 then x else v.sreg k := by
  unfold VecSt.setS VecSt.sreg
  by_cases hd : d = 0
  · simp [hd]
  · by_cases hk : k = 0
    · simp [hd, hk, Ne.symm hd]
    · simp [hd, hk, tget_tset]

/-! ### Error records -/

/-- An error record touches nothing but the gauge. -/
theorem raise_only (s : State) (cls action unit inst : Nat) (cmd : Option (Nat × Nat)) (addr detail fl : Nat) :
    s.raise cls action unit inst cmd addr detail fl = { s with gau := (s.raise cls action unit inst cmd addr detail fl).gau } := by
  have hk : ∀ (st : State) (r : ErrRec), st.keepRecord r = { st with gau := (st.keepRecord r).gau } := by
    intro st r; unfold State.keepRecord State.addLog; split
    · rfl
    · split <;> rfl
  unfold State.raise
  dsimp only
  split
  · split
    · rfl
    · rw [hk]
  · rw [hk]

@[simp] theorem core_raise (s : State) (cls action unit inst : Nat) (cmd : Option (Nat × Nat)) (addr detail fl k : Nat) :
    (s.raise cls action unit inst cmd addr detail fl).core k = s.core k := by rw [raise_only]; rfl

/-! ### Issue (R166, R191, R397) -/

theorem vecOnly_refl (s : State) (core : Nat) : VecOnly s s core :=
  ⟨rfl, rfl, rfl, rfl, rfl, rfl, rfl, rfl, rfl, rfl, rfl, rfl, rfl, rfl, rfl, rfl, rfl, rfl, rfl, rfl, rfl, rfl, rfl, rfl, rfl, rfl, rfl, rfl, rfl,
   fun _ _ => rfl, rfl, rfl, rfl, rfl, rfl⟩

theorem vecOnly_trans {r s t : State} {core : Nat} (h : VecOnly r s core) (k : VecOnly s t core) : VecOnly r t core :=
  ⟨k.pending.trans h.pending, k.freeCtr.trans h.freeCtr, k.nowNs.trans h.nowNs, k.mem.trans h.mem, k.poison.trans h.poison, k.memKeys.trans
    h.memKeys, k.slabTurn.trans h.slabTurn, k.weirs.trans h.weirs, k.weirOps.trans h.weirOps, k.seqs.trans h.seqs, k.queues.trans h.queues, k.slots.trans h.slots,
    k.tide.trans h.tide, k.llc.trans h.llc, k.nt.trans h.nt, k.dt.trans h.dt, k.cod.trans h.cod, k.dlt.trans h.dlt, k.train.trans h.train,
    k.est.trans h.est, k.coll.trans h.coll, k.frd.trans h.frd, k.spw.trans h.spw, k.boot.trans h.boot, k.oxb.trans h.oxb, k.cap.trans h.cap,
    k.pins.trans h.pins, k.rst.trans h.rst, k.out.trans h.out,
   fun c hc => (k.cores c hc).trans (h.cores c hc), k.mx.trans h.mx, k.bsn.trans h.bsn, k.dma.trans h.dma, k.scratch.trans h.scratch,
   k.holder.trans h.holder⟩

theorem vecOnly_modVec (s : State) (core : Nat) (f : VecSt → VecSt) : VecOnly s (s.modVec core f) core :=
  ⟨rfl, rfl, rfl, rfl, rfl, rfl, rfl, rfl, rfl, rfl, rfl, rfl, rfl, rfl, rfl, rfl, rfl, rfl, rfl, rfl, rfl, rfl, rfl, rfl, rfl, rfl, rfl, rfl, rfl,
   fun c hc => by simp [hc], by simp, by simp, by simp, by simp, by simp⟩

theorem vecOnly_modSlc (s : State) (core : Nat) (f : SlcSt → SlcSt) : VecOnly s (s.modSlc core f) core :=
  ⟨rfl, rfl, rfl, rfl, rfl, rfl, rfl, rfl, rfl, rfl, rfl, rfl, rfl, rfl, rfl, rfl, rfl, rfl, rfl, rfl, rfl, rfl, rfl, rfl, rfl, rfl, rfl, rfl, rfl,
   fun c hc => by simp [hc], by simp, by simp, by simp, by simp, by simp⟩

theorem vecOnly_raise (s : State) (core cls action unit inst : Nat) (cmd : Option (Nat × Nat)) (addr detail fl : Nat) :
    VecOnly s (s.raise cls action unit inst cmd addr detail fl) core := by
  rw [raise_only]
  exact ⟨rfl, rfl, rfl, rfl, rfl, rfl, rfl, rfl, rfl, rfl, rfl, rfl, rfl, rfl, rfl, rfl, rfl, rfl, rfl, rfl, rfl, rfl, rfl, rfl, rfl, rfl,
    rfl, rfl, rfl,
   fun _ _ => rfl, rfl, rfl, rfl, rfl, rfl⟩

theorem vecOnly_bookCmd (s : State) (core : Nat) (c : Cmd) (k n : Nat) : VecOnly s (s.bookCmd c k n) core :=
  ⟨rfl, rfl, rfl, rfl, rfl, rfl, rfl, rfl, rfl, rfl, rfl, rfl, rfl, rfl, rfl, rfl, rfl, rfl, rfl, rfl, rfl, rfl, rfl, rfl, rfl, rfl, rfl, rfl, rfl,
   fun _ _ => rfl, rfl, rfl, rfl, rfl, rfl⟩

/-- Re-issues count in the engine and leave records; nothing else changes. -/
theorem reissued_only (s : State) (core : Nat) (e : WakeEntry) (n : Nat) :
    VecOnly s (s.reissued core e n) core ∧
    (s.reissued core e n).core core = { s.core core with vec := { (s.core core).vec with reissue := (s.core core).vec.reissue + min n 2 } } := by
  unfold State.reissued
  have hn : min n 2 = 0 ∨ min n 2 = 1 ∨ min n 2 = 2 := by omega
  rcases hn with h | h | h
  · rw [h]
    exact ⟨vecOnly_refl s core, rfl⟩
  · rw [h]
    have hr : rangeFrom 1 1 = [1] := rfl
    rw [hr]
    simp only [List.foldl_cons, List.foldl_nil]
    exact ⟨vecOnly_trans (vecOnly_modVec ..) (vecOnly_raise ..), by simp⟩
  · rw [h]
    have hr : rangeFrom 1 2 = [1, 2] := rfl
    rw [hr]
    simp only [List.foldl_cons, List.foldl_nil]
    exact ⟨vecOnly_trans (vecOnly_trans (vecOnly_modVec ..) (vecOnly_raise ..)) (vecOnly_trans (vecOnly_modVec ..) (vecOnly_raise ..)), by simp⟩

/-- Retiring an instruction that is not the last goes one place on. -/
theorem retireNext_next (s : State) (core : Nat) (w : W64) (hp : (s.core core).vec.pc + 1 < (s.core core).vec.prog.length) :
    VecOnly s (s.retireNext core w) core ∧ Advanced (s.core core).vec (s.core core).vec ((s.retireNext core w).core core).vec ∧
      ((s.retireNext core w).core core).slc = (s.core core).slc := by
  simp only [State.retireNext, State.retire]
  rw [if_neg (by omega)]
  refine ⟨vecOnly_modVec .., ?_, by simp⟩
  simp only [core_modVec, if_true]
  rw [if_neg (by omega)]
  exact ⟨by norm_cast, rfl, rfl, rfl, rfl, rfl, rfl, rfl, rfl, rfl, rfl⟩

/-- What the issue of a V-slot instruction that is not the last of its program does, when at most two of its residue checks fail: the engine
is as `f` makes it, with its flags added, and goes on to the next instruction; nothing but the ledger and error records changes beside it. -/
theorem vIssue_next {s : State} {core : Nat} {w : W64} {op re : Nat} {f : WakeEntry → VecSt → VecSt × BitVec 7} {e : WakeEntry}
    (h : s.vecReady core w op = some e) (hw : s.vecWaits core w = false) (hn : (s.core core).vec.residueEn = false ∨ re ≤ 2)
    (hp : (s.core core).vec.pc + 1 < (s.core core).vec.prog.length)
    (hf : ∀ v, (f e v).1.pc = v.pc ∧ (f e v).1.prog = v.prog ∧ (f e v).1.retired = v.retired) :
    VecOnly s (s.vIssue core w op re f) core ∧ ((s.vIssue core w op re f).core core).slc = (s.core core).slc ∧
    ∃ n, Advanced (s.core core).vec
      { (f e { (s.core core).vec with reissue := (s.core core).vec.reissue + n }).1 with
          flags := (f e { (s.core core).vec with reissue := (s.core core).vec.reissue + n }).1.flags |||
            (f e { (s.core core).vec with reissue := (s.core core).vec.reissue + n }).2 }
      ((s.vIssue core w op re f).core core).vec := by
  have hre : ¬ (if (s.core core).vec.residueEn = true then re else 0) ≥ 3 := by
    rcases hn with h1 | h1
    · simp [h1]
    · split <;> omega
  simp only [State.vIssue, h, hw]
  rw [if_neg (by simp), if_neg hre]
  obtain ⟨h1, h2⟩ := reissued_only s core e (if (s.core core).vec.residueEn = true then re else 0)
  generalize s.reissued core e (if (s.core core).vec.residueEn = true then re else 0) = s1 at h1 h2
  generalize min (if (s.core core).vec.residueEn = true then re else 0) 2 = m at h2
  have hv := hf { (s.core core).vec with reissue := (s.core core).vec.reissue + m }
  have hb : ∀ (st : State) (c : Cmd) (a b k : Nat), (st.bookCmd c a b).core k = st.core k := fun _ _ _ _ _ => rfl
  generalize hs3 : (s1.modVec core fun v => let r := f e v; { r.1 with flags := r.1.flags ||| r.2 }).bookCmd e.cmd 1
    (vCycles op (vType w) (vImm w) * ((if (s.core core).vec.residueEn = true then re else 0) + 1)) = s3
  have h3 : VecOnly s s3 core := by
    rw [← hs3]; exact vecOnly_trans (vecOnly_trans h1 (vecOnly_modVec ..)) (vecOnly_bookCmd ..)
  have h4 : s3.core core = { s.core core with vec :=
      { (f e { (s.core core).vec with reissue := (s.core core).vec.reissue + m }).1 with
        flags := (f e { (s.core core).vec with reissue := (s.core core).vec.reissue + m }).1.flags |||
          (f e { (s.core core).vec with reissue := (s.core core).vec.reissue + m }).2 } } := by
    rw [← hs3, hb, core_modVec, if_pos rfl, h2]
  obtain ⟨k1, k2, k3⟩ := retireNext_next s3 core w (by rw [h4]; simp only [hv.1, hv.2.1]; exact hp)
  rw [h4] at k2 k3
  refine ⟨vecOnly_trans h3 k1, k3, m, ?_⟩
  exact ⟨by rw [k2.pc]; simp only [hv.1], by rw [k2.retired]; simp only [hv.2.2], k2.running, k2.prog, k2.v, k2.vPoison, k2.s, k2.m, k2.r,
    k2.flags, k2.loads⟩

/-- What the issue of an S-slot instruction that is not the last of its program does. -/
theorem sIssue_next {s : State} {core : Nat} {w : W64} {op : Nat} {f : VecSt → VecSt} {e : WakeEntry}
    (h : s.vecReady core w op = some e) (hw : s.vecWaits core w = false) (hp : (s.core core).vec.pc + 1 < (s.core core).vec.prog.length)
    (hf : ∀ v, (f v).pc = v.pc ∧ (f v).prog = v.prog ∧ (f v).retired = v.retired) :
    VecOnly s (s.sIssue core w op f) core ∧ ((s.sIssue core w op f).core core).slc = (s.core core).slc ∧
      Advanced (s.core core).vec (f (s.core core).vec) ((s.sIssue core w op f).core core).vec := by
  simp only [State.sIssue, h, hw]
  rw [if_neg (by simp)]
  have hv := hf (s.core core).vec
  obtain ⟨k1, k2, k3⟩ := retireNext_next (s.modVec core f) core w (by simp only [core_modVec, if_true, hv.1, hv.2.1]; exact hp)
  simp only [core_modVec, if_true] at k2 k3
  exact ⟨vecOnly_trans (vecOnly_modVec ..) k1, k3,
    ⟨by rw [k2.pc, hv.1], by rw [k2.retired, hv.2.2], k2.running, k2.prog, k2.v, k2.vPoison, k2.s, k2.m, k2.r, k2.flags, k2.loads⟩⟩

end Sys2Proof.Laws
end

