-- ==== Sys2Proof/Laws/VectorResults.lean ====
section
/-! SUPPORT. The results of vector instructions: a register written element by element, a mask written bit by bit, a scalar register. -/

set_option Elab.async false

namespace Sys2Proof.Laws

open Sys2Proof Sys2Proof.Machine

/-- What a register write does to the registers: one entry of each table. -/
theorem setV_tables (v : VecSt) (ty : Nat) (zm : Bool) (vd : Nat) (res : List (Option (Nat × Bool))) :
    ∃ x p, (v.setV ty zm vd res).v = tset 0 v.v vd x ∧ (v.setV ty zm vd res).vPoison = tset 0 v.vPoison vd p := by
  unfold VecSt.setV
  exact ⟨_, _, by dsimp only, by dsimp only⟩

/-- A register of one instruction written by elements, as its issue leaves it: `res` are the entries written, `fl` the flags set, which do not
depend on the count of re-issues. -/
theorem wroteVd_vIssue {s : State} {core : Nat} {w : W64} {op re ty : Nat} {f : WakeEntry → VecSt → VecSt × BitVec 7} {e : WakeEntry}
    {b g : Nat → Nat} (res : List (Option (Nat × Bool))) (fl : BitVec 7) (hi : s.issues core w op) (he : s.vecReady core w op = some e)
    (hr : s.residueOk core re)
    (hf : ∀ v : VecSt, ∃ res' fl', f e v = (v.setV ty (vZm w) (vVd w) res', fl'))
    (hs : ∀ n, f e { (s.core core).vec with reissue := n } = (VecSt.setV { (s.core core).vec with reissue := n } ty (vZm w) (vVd w) res, fl))
    (hb : ∀ j, j < vCount ty → (lget none res j).map (fun r => r.1 % 2 ^ vWidth ty) =
      if (s.core core).vec.active w (b j) = true then some (g j % 2 ^ vWidth ty) else none) :
    WroteVd s (s.vIssue core w op re f) core w ty b g := by
  obtain ⟨h1, h2, n, h3⟩ := vIssue_next (f := f) he hi.2.1 hr hi.2.2 (fun v => by
    obtain ⟨r, q, h⟩ := hf v; rw [h]; exact ⟨rfl, rfl, rfl⟩)
  rw [hs] at h3
  refine ⟨h1, h2, ⟨h3.pc, h3.retired, h3.running, h3.prog, rfl, rfl, h3.s, h3.m, h3.r, rfl, h3.loads⟩, ?_, ?_, ?_⟩
  · rw [h3.flags]
    show (s.core core).vec.flags ||| ((s.core core).vec.flags ||| fl) = (s.core core).vec.flags ||| fl
    rw [← BitVec.or_assoc, BitVec.or_self]
  · intro r hr
    obtain ⟨x, p, e1, e2⟩ := setV_tables { (s.core core).vec with reissue := (s.core core).vec.reissue + n } ty (vZm w) (vVd w) res
    have h4 := h3.v
    have h5 := h3.vPoison
    dsimp only at h4 h5 e1 e2
    rw [e1] at h4
    rw [e2] at h5
    simp only [VecSt.vreg, VecSt.vpz]
    rw [h4, h5]
    exact ⟨tget_tset_other 0 _ _ _ _ hr, tget_tset_other 0 _ _ _ _ hr⟩
  · intro j hj
    have hv : (s.vIssue core w op re f).elem core ty (vVd w) j =
        vGet ty ((VecSt.setV { (s.core core).vec with reissue := (s.core core).vec.reissue + n } ty (vZm w) (vVd w) res).vreg (vVd w)) j := by
      rw [State.elem, VecSt.vreg, h3.v]; rfl
    rw [hv, vGet_setV _ _ _ _ _ _ hj]
    have h := hb j hj
    cases hl : lget none res j with
    | none =>
      rw [hl] at h
      split at h
      · cases h
      · rename_i hn; rw [if_neg hn]; rfl
    | some r =>
      rw [hl] at h
      split at h
      · rename_i hn
        rw [if_pos hn]
        simpa using h
      · cases h

/-- The same for an instruction that computes every active element by itself. -/
theorem wroteVd_eachElem {s : State} {core : Nat} {w : W64} {op re ty : Nat} {f : WakeEntry → VecSt → VecSt × BitVec 7} {e : WakeEntry}
    {g : Nat → Nat} (k : VecSt → Nat → Nat × Bool × BitVec 7) (hi : s.issues core w op) (he : s.vecReady core w op = some e)
    (hr : s.residueOk core re) (hf : ∀ v, f e v = v.eachElem w ty (k v))
    (hk : ∀ n, k { (s.core core).vec with reissue := n } = k (s.core core).vec)
    (hg : ∀ j, j < vCount ty → (k (s.core core).vec j).1 % 2 ^ vWidth ty = g j % 2 ^ vWidth ty) :
    WroteVd s (s.vIssue core w op re f) core w ty (vMaskBit ty) g := by
  refine wroteVd_vIssue (((List.range (vCount ty)).map (fun j =>
      if (s.core core).vec.active w (vMaskBit ty j) then some (k (s.core core).vec j) else none)).map
      (fun o => o.map (fun x => (x.1, x.2.1))))
    (((List.range (vCount ty)).map (fun j =>
      if (s.core core).vec.active w (vMaskBit ty j) then some (k (s.core core).vec j) else none)).foldl
      (fun a o => match o with | some x => a ||| x.2.2 | none => a) 0)
    hi he hr (fun v => ⟨_, _, hf v⟩) (fun n => ?_) (fun j hj => ?_)
  · rw [hf]; unfold VecSt.eachElem; rw [hk]; rfl
  · rw [List.map_map, lget_map_range _ _ _ _ hj]
    simp only [Function.comp]
    split
    · simp only [Option.map_some]; rw [hg j hj]
    · rfl

/-- The same for an instruction that computes every active lane by itself. -/
theorem wroteVd_eachLane {s : State} {core : Nat} {w : W64} {op re : Nat} {f : WakeEntry → VecSt → VecSt × BitVec 7} {e : WakeEntry}
    {g : Nat → Nat} (k : VecSt → Nat → Nat × Bool) (hi : s.issues core w op) (he : s.vecReady core w op = some e)
    (hr : s.residueOk core re) (hf : ∀ v, f e v = v.eachLane w (k v))
    (hk : ∀ n, k { (s.core core).vec with reissue := n } = k (s.core core).vec)
    (hg : ∀ l, l < 64 → (k (s.core core).vec l).1 % 2 ^ 32 = g l % 2 ^ 32) :
    WroteVd s (s.vIssue core w op re f) core w 0 (vLaneBit (vType w)) g := by
  refine wroteVd_vIssue ((List.range 64).map (fun l => if (s.core core).vec.active w (vLaneBit (vType w) l) then some (k (s.core core).vec l) else none))
    0 hi he hr (fun v => ⟨_, _, hf v⟩) (fun n => ?_) (fun j hj => ?_)
  · rw [hf]; unfold VecSt.eachLane; rw [hk]; rfl
  · have hj' : j < 64 := by simpa [vCount] using hj
    rw [lget_map_range _ _ _ _ hj']
    split
    · simp only [Option.map_some]; exact congrArg some (hg j hj')
    · rfl

/-- A scalar result, as the issue of its instruction leaves it. -/
theorem wroteScalar_sIssue {s : State} {core : Nat} {w : W64} {op : Nat} {f : VecSt → VecSt} {x : W64} (hi : s.issues core w op)
    (hf : ∀ v, ∃ y, f v = v.setS (vVd w % 16) y) (hx : f (s.core core).vec = (s.core core).vec.setS (vVd w % 16) x) :
    WroteScalar s (s.sIssue core w op f) core w x := by
  obtain ⟨e, he⟩ := hi.1
  have hset : ∀ (v : VecSt) (d : Nat) (y : W64), (v.setS d y).pc = v.pc ∧ (v.setS d y).prog = v.prog ∧ (v.setS d y).retired = v.retired := by
    intro v d y; unfold VecSt.setS; split <;> exact ⟨rfl, rfl, rfl⟩
  obtain ⟨h1, h2, h3⟩ := sIssue_next (f := f) he hi.2.1 hi.2.2 (fun v => by obtain ⟨y, h⟩ := hf v; rw [h]; exact hset v _ _)
  rw [hx] at h3
  have hsame : ∀ (v : VecSt) (d : Nat) (y : W64), v.setS d y = { v with s := (v.setS d y).s } := by
    intro v d y; unfold VecSt.setS; split <;> rfl
  have hs : ∀ k, ((s.sIssue core w op f).core core).vec.sreg k = ((s.core core).vec.setS (vVd w % 16) x).sreg k := by
    intro k; unfold VecSt.sreg; rw [h3.s]
  refine ⟨h1, h2, ?_, ?_, ?_⟩
  · rw [hsame] at h3
    exact ⟨h3.pc, h3.retired, h3.running, h3.prog, h3.v, h3.vPoison, rfl, h3.m, h3.r, h3.flags, h3.loads⟩
  · rw [hs, sreg_setS]
    split
    · rename_i h; rw [if_neg h.2]
    · rename_i h
      have h0 : vVd w % 16 = 0 := by
        by_cases hh : vVd w % 16 = 0
        · exact hh
        · exact absurd ⟨rfl, hh⟩ h
      rw [if_pos h0, h0]; rfl
  · intro k hk
    rw [hs, sreg_setS, if_neg (fun h => hk h.1)]

/-! ### Masks -/

/-- A sum of distinct powers of two stays below the next. -/
theorem sum_bits_lt (p : Nat → Bool) (n : Nat) : ((List.range n).map (fun l => 2 ^ l * b2n (p l))).sum < 2 ^ n := by
  induction n with
  | zero => simp
  | succ n ih =>
    rw [List.range_succ, List.map_append, List.sum_append]
    have : 2 ^ n * b2n (p n) ≤ 2 ^ n := by cases p n <;> simp [b2n]
    simp only [List.map_cons, List.map_nil, List.sum_cons, List.sum_nil, Nat.add_zero]
    rw [Nat.pow_succ]; omega

/-- A bit of a sum of distinct powers of two. -/
theorem testBit_sum_bits (p : Nat → Bool) (n j : Nat) (hj : j < n) :
    (((List.range n).map (fun l => 2 ^ l * b2n (p l))).sum).testBit j = p j := by
  induction n with
  | zero => omega
  | succ n ih =>
    rw [List.range_succ, List.map_append, List.sum_append]
    simp only [List.map_cons, List.map_nil, List.sum_cons, List.sum_nil, Nat.add_zero]
    rw [Nat.add_comm]
    have hlt := sum_bits_lt p n
    by_cases h : j = n
    · subst h
      rw [Nat.mul_comm, Nat.mul_comm (b2n (p j)), Nat.testBit_two_pow_mul_add _ hlt]
      simp
      cases p j <;> simp [b2n]
    · have hj' : j < n := by omega
      rw [Nat.testBit_two_pow_mul_add _ hlt, if_pos hj']
      exact ih hj'

/-- A bit of the word made of 64 bits. -/
theorem getLsbD_bits (p : Nat → Bool) (j : Nat) (hj : j < 64) :
    (BitVec.ofNat 64 ((List.range 64).map (fun l => 2 ^ l * b2n (p l))).sum).getLsbD j = p j := by
  rw [BitVec.getLsbD_ofNat, testBit_sum_bits p 64 j hj]
  simp [hj]

/-- A bit of the word made of the first `n` bits. -/
theorem getLsbD_first (p : Nat → Bool) (n j : Nat) (hn : n ≤ 64) (hj : j < n) :
    (BitVec.ofNat 64 ((List.range n).map (fun l => 2 ^ l * b2n (p l))).sum).getLsbD j = p j := by
  rw [BitVec.getLsbD_ofNat, testBit_sum_bits p n j hj]
  have : j < 64 := by omega
  simp [this]

/-- A bit of the mask an instruction writes (R174). -/
theorem getLsbD_setM (v : VecSt) (k : Nat) (zm : Bool) (on : Nat → Bool) (res : W64) (j : Nat) (hj : j < 64) :
    ((v.setM k zm on res).mask k).getLsbD j = if on j = true then res.getLsbD j else if zm = true then false else (v.mask k).getLsbD j := by
  simp only [VecSt.setM, VecSt.mask, tget_tset_same]
  exact getLsbD_bits _ j hj

/-- A mask write is one entry of the table of masks. -/
theorem setM_table (v : VecSt) (k : Nat) (zm : Bool) (on : Nat → Bool) (res : W64) :
    v.setM k zm on res = { v with m := tset 0 v.m k ((v.setM k zm on res).mask k) } := by
  simp only [VecSt.setM, VecSt.mask, tget_tset_same]

/-- A mask written by one instruction, as its issue leaves it. -/
theorem wroteMask_vIssue {s : State} {core : Nat} {w : W64} {op re n : Nat} {f : WakeEntry → VecSt → VecSt × BitVec 7} {e : WakeEntry}
    {g : Nat → Bool} (hi : s.issues core w op) (he : s.vecReady core w op = some e) (hr : s.residueOk core re)
    (hf : ∀ v : VecSt, ∃ x fl, f e v = ({ v with m := tset 0 v.m (vVd w % 8) x }, fl))
    (hg : ∀ k, ∀ j, j < n → ((f e { (s.core core).vec with reissue := k }).1.mask (vVd w % 8)).getLsbD j =
      if (s.core core).vec.active w j = true then g j else if vZm w = true then false else ((s.core core).vec.mask (vVd w % 8)).getLsbD j) :
    WroteMask s (s.vIssue core w op re f) core w n g ∧
    ∃ k, ((s.vIssue core w op re f).core core).vec.mask (vVd w % 8) =
      (f e { (s.core core).vec with reissue := k }).1.mask (vVd w % 8) := by
  obtain ⟨h1, h2, k, h3⟩ := vIssue_next (f := f) he hi.2.1 hr hi.2.2 (fun v => by
    obtain ⟨x, q, h⟩ := hf v; rw [h]; exact ⟨rfl, rfl, rfl⟩)
  obtain ⟨x, fl, hx⟩ := hf { (s.core core).vec with reissue := (s.core core).vec.reissue + k }
  have hm : ((s.vIssue core w op re f).core core).vec.m = (f e { (s.core core).vec with reissue := (s.core core).vec.reissue + k }).1.m := h3.m
  have hmask : ∀ i, ((s.vIssue core w op re f).core core).vec.mask i =
      (f e { (s.core core).vec with reissue := (s.core core).vec.reissue + k }).1.mask i := by intro i; unfold VecSt.mask; rw [hm]
  refine ⟨⟨h1, h2, ?_, ?_, ?_, ?_⟩, _, hmask _⟩
  · rw [hx] at h3
    exact ⟨h3.pc, h3.retired, h3.running, h3.prog, h3.v, h3.vPoison, h3.s, rfl, h3.r, rfl, h3.loads⟩
  · rw [h3.flags, hx]
    show (s.core core).vec.flags ||| ((s.core core).vec.flags ||| fl) = (s.core core).vec.flags ||| fl
    rw [← BitVec.or_assoc, BitVec.or_self]
  · intro i hi
    rw [hmask, hx]
    exact tget_tset_other 0 (s.core core).vec.m (vVd w % 8) i x hi
  · intro j hj
    rw [hmask]
    exact hg _ j hj

end Sys2Proof.Laws
end

