-- ==== Sys2Proof/Laws/WorkStore.lean ====
section
/-! SUPPORT. What the operations of a command leave alone (`Work`), one lemma per operation: memory, cache, tensors and the named operations. -/

namespace Sys2Proof.Laws

open Sys2Proof Sys2Proof.Machine

/-! ### Mem -/

theorem work_modSlice {org s : State} (i : Nat) (f : SliceSt → SliceSt) (hk : Work org s) : Work org (State.modSlice s i f) := by
  unfold State.modSlice
  repeat' (with_reducible first
      | assumption | exact work_refl _ | dsimp only | (apply work_mk))

theorem work_setLine {org s : State} (p : Nat) (x : LLine) (hk : Work org s) : Work org (State.setLine s p x) := by
  unfold State.setLine
  repeat' (with_reducible first
      | assumption | exact work_refl _ | dsimp only | (apply work_mk))

theorem work_modLine {org s : State} (p : Nat) (f : LLine → LLine) (hk : Work org s) : Work org (State.modLine s p f) := by
  unfold State.modLine
  repeat' (with_reducible first
      | assumption | exact work_refl _ | dsimp only | apply work_setLine)

theorem work_modCtl {org s : State} (a : Nat) (f : MemCtl → MemCtl) (hk : Work org s) : Work org (State.modCtl s a f) := by
  unfold State.modCtl
  repeat' (with_reducible first
      | assumption | exact work_refl _ | dsimp only | split | (refine work_fst (by assumption) ?_)
      | (refine work_snd (by assumption) ?_) | (apply work_mk))

theorem work_memStore {org s : State} (x0 : Nat) (x1 : List Byte) (hk : Work org s) : Work org (State.memStore s x0 x1) := by
  induction x1 generalizing x0 s with
  | nil => exact hk
  | cons b t ih =>
    unfold State.memStore
    repeat' (with_reducible first
      | assumption | (apply ih) | exact work_refl _ | dsimp only | apply work_memSet)

theorem work_burstWrite {org s : State} (a : Nat) (mask : Nat → Bool) (vals : Nat → Byte) (poisoned : Bool) (hk : Work org s) : Work org
    (State.burstWrite s a mask vals poisoned) := by
  unfold State.burstWrite
  repeat' (with_reducible first
      | assumption | exact work_refl _ | (intro _ _) | (intro _) | dsimp only | apply work_memSet | apply work_modCtl
      | apply work_setPoison | (refine work_foldl ?_ ?_) | (refine work_foldl_fst ?_ ?_) | split | (refine work_fst (by assumption) ?_)
      | (refine work_snd (by assumption) ?_) | (apply work_mk))

theorem work_writeBack {org s : State} (p : Nat) (hk : Work org s) : Work org (State.writeBack s p) := by
  unfold State.writeBack
  repeat' (with_reducible first
      | assumption | exact work_refl _ | (intro _ _) | (intro _) | dsimp only | apply work_burstWrite | apply work_modSlice | split
      | (apply work_mk))

theorem work_touch {org s : State} (p : Nat) (hk : Work org s) : Work org (State.touch s p) := by
  unfold State.touch
  repeat' (with_reducible first
      | assumption | exact work_refl _ | dsimp only | (apply work_mk))

theorem work_pinPlace {org s : State} (p : Nat) (hk : Work org s) : Work org (State.pinPlace s p) := by
  unfold State.pinPlace
  repeat' (with_reducible first
      | assumption | exact work_refl _ | (intro _ _) | (intro _) | dsimp only | apply work_setLine | apply work_modSlice | split
      | (apply work_mk))

theorem work_dropProv {org s : State} (p : Nat) (hk : Work org s) : Work org (State.dropProv s p) := by
  unfold State.dropProv
  repeat' (with_reducible first
      | assumption | exact work_refl _ | dsimp only | apply work_setLine | apply work_countRa | split
      | (refine work_fst (by assumption) ?_) | (refine work_snd (by assumption) ?_) | (apply work_mk))

theorem work_allocate {org s : State} (l : Nat) (hk : Work org s) : Work org (State.allocate s l).1 := by
  unfold State.allocate
  repeat' (with_reducible first
      | assumption | exact work_refl _ | dsimp only | apply work_writeBack | apply work_setLine | split
      | (refine work_fst (by assumption) ?_) | (refine work_snd (by assumption) ?_) | (apply work_mk))

theorem work_lineWrite {org s : State} (a : Nat) (bs : List Byte) (on : Bool) (pin : Bool) (hk : Work org s) : Work org (State.lineWrite s
    a bs on pin) := by
  unfold State.lineWrite
  repeat' (with_reducible first
      | assumption | exact work_refl _ | (intro _ _) | (intro _) | dsimp only | apply work_modSlice | apply work_burstWrite
      | apply work_modLine | apply work_touch | apply work_pinPlace | apply work_dropProv | apply work_allocate | split
      | (refine work_fst (by assumption) ?_) | (refine work_snd (by assumption) ?_) | (apply work_mk))

theorem work_slabWrite {org s : State} (a : Nat) (bs : List Byte) (on : Bool) (hk : Work org s) : Work org (State.slabWrite s a bs on) := by
  unfold State.slabWrite
  repeat' (with_reducible first
      | assumption | exact work_refl _ | (intro _ _) | dsimp only | apply work_memStore | apply work_setPoison
      | (refine work_foldl ?_ ?_) | (refine work_foldl_fst ?_ ?_) | split)

theorem work_pokeP {org s : State} (a : Nat) (bs : List Byte) (on : Bool) (pin : Bool) (hk : Work org s) : Work org (State.pokeP s a bs on
    pin) := by
  unfold State.pokeP
  repeat' (with_reducible first
      | assumption | exact work_refl _ | (intro _ _) | dsimp only | apply work_lineWrite | apply work_slabWrite
      | (refine work_foldl ?_ ?_) | (refine work_foldl_fst ?_ ?_) | split)

theorem work_noticed {org s : State} (s0 : State) (a : Nat) (n : Nat) (hk : Work org s) : Work org (State.noticed s0 s a n) := by
  unfold State.noticed
  repeat' (with_reducible first
      | assumption | exact work_refl _ | dsimp only | apply work_noticeRings | apply work_noticeDescs)

theorem work_store {org s : State} (a : Nat) (bs : List Byte) (on : Bool) (pin : Bool) (hk : Work org s) : Work org (State.store s a bs on
    pin) := by
  unfold State.store
  repeat' (with_reducible first
      | assumption | exact work_refl _ | (intro _ _) | (intro _) | dsimp only | apply work_writePart | apply work_pokeP
      | apply work_noticed | (refine work_foldl ?_ ?_) | (refine work_foldl_fst ?_ ?_) | split | (apply work_mk))

theorem work_poke {org s : State} (a : Nat) (bs : List Byte) (hk : Work org s) : Work org (State.poke s a bs) := by
  unfold State.poke
  repeat' (with_reducible first
      | assumption | exact work_refl _ | dsimp only | apply work_store)

theorem work_pinRange {org s : State} (lo : Nat) (hi : Nat) (hk : Work org s) : Work org (State.pinRange s lo hi) := by
  unfold State.pinRange
  repeat' (with_reducible first
      | assumption | exact work_refl _ | (intro _ _) | dsimp only | apply work_pinPlace | (refine work_foldl ?_ ?_)
      | (refine work_foldl_fst ?_ ?_) | split)

theorem work_clearCache {org s : State}  (hk : Work org s) : Work org (State.clearCache s) := by
  unfold State.clearCache
  repeat' (with_reducible first
      | assumption | exact work_refl _ | (intro _ _) | dsimp only | apply work_writeBack | (refine work_foldl ?_ ?_)
      | (refine work_foldl_fst ?_ ?_) | (apply work_mk))

/-! ### Tensor -/

theorem work_TDesc_zbSet {org s : State} (t : TDesc) (r : Nat) (j : Nat) (z : Bool) (hk : Work org s) : Work org (TDesc.zbSet t s r j z)
    := by
  unfold TDesc.zbSet
  repeat' (with_reducible first
      | assumption | exact work_refl _ | dsimp only | apply work_store | split)

theorem work_TDesc_zbRefresh {org s : State} (t : TDesc) (r : Nat) (j : Nat) (hk : Work org s) : Work org (TDesc.zbRefresh t s r j) := by
  unfold TDesc.zbRefresh
  repeat' (with_reducible first
      | assumption | exact work_refl _ | (intro _ _) | (intro _) | dsimp only | apply work_TDesc_zbSet | split)

theorem work_TDesc_storeBelow {org s : State} (t : TDesc) (r : Nat) (ws : List (Nat × Nat × Nat)) (a : Nat) (bs : List Byte) (on : Bool)
    (hk : Work org s) : Work org (TDesc.storeBelow t s r ws a bs on) := by
  unfold TDesc.storeBelow
  repeat' (with_reducible first
      | assumption | exact work_refl _ | (intro _ _) | (intro _) | dsimp only | apply work_store | (refine work_foldl ?_ ?_)
      | (refine work_foldl_fst ?_ ?_) | split)

theorem work_TDesc_writeRow {org s : State} (t : TDesc) (r : Nat) (i0 : Nat) (bits : List Nat) (on : Bool) (ws : List (Nat × Nat × Nat))
    (hk : Work org s) : Work org (TDesc.writeRow t s r i0 bits on ws) := by
  unfold TDesc.writeRow
  repeat' (with_reducible first
      | assumption | exact work_refl _ | (intro _ _) | (intro _) | dsimp only | apply work_TDesc_storeBelow | split)

theorem work_TDesc_writeScale {org s : State} (t : TDesc) (r : Nat) (i0 : Nat) (b : Nat) (on : Bool) (hk : Work org s) : Work org
    (TDesc.writeScale t s r i0 b on) := by
  unfold TDesc.writeScale
  repeat' (with_reducible first
      | assumption | exact work_refl _ | dsimp only | apply work_store | split)

/-! ### Ops -/

theorem work_freshWords {org x1 : State} (x0 : Nat) (hk : Work org x1) : Work org (State.freshWords x0 x1).2 := by
  induction x0 generalizing x1 with
  | zero => exact hk
  | succ n ih =>
    unfold State.freshWords
    repeat' (with_reducible first
      | assumption | (apply ih) | exact work_refl _ | dsimp only | apply work_freshWord | split | (refine work_fst (by assumption) ?_)
      | (refine work_snd (by assumption) ?_))

theorem work_modCore {org s : State} (c : Nat) (f : CoreSt → CoreSt) (hk : Work org s) : Work org (State.modCore s c f) := by
  unfold State.modCore
  repeat' (with_reducible first
      | assumption | exact work_refl _ | dsimp only | (apply work_mk))

theorem work_modVec {org s : State} (c : Nat) (f : VecSt → VecSt) (hk : Work org s) : Work org (State.modVec s c f) := by
  unfold State.modVec
  repeat' (with_reducible first
      | assumption | exact work_refl _ | (intro _ _) | (intro _) | dsimp only | apply work_modCore | (apply work_mk))

theorem work_modMx {org s : State} (c : Nat) (f : MxSt → MxSt) (hk : Work org s) : Work org (State.modMx s c f) := by
  unfold State.modMx
  repeat' (with_reducible first
      | assumption | exact work_refl _ | (intro _ _) | (intro _) | dsimp only | apply work_modCore | (apply work_mk))

theorem work_modBsn {org s : State} (c : Nat) (f : BsnSt → BsnSt) (hk : Work org s) : Work org (State.modBsn s c f) := by
  unfold State.modBsn
  repeat' (with_reducible first
      | assumption | exact work_refl _ | (intro _ _) | (intro _) | dsimp only | apply work_modCore | (apply work_mk))

theorem work_modSlc {org s : State} (c : Nat) (f : SlcSt → SlcSt) (hk : Work org s) : Work org (State.modSlc s c f) := by
  unfold State.modSlc
  repeat' (with_reducible first
      | assumption | exact work_refl _ | (intro _ _) | (intro _) | dsimp only | apply work_modCore | (apply work_mk))

theorem work_modDma {org s : State} (c : Nat) (f : DmaSt → DmaSt) (hk : Work org s) : Work org (State.modDma s c f) := by
  unfold State.modDma
  repeat' (with_reducible first
      | assumption | exact work_refl _ | (intro _ _) | (intro _) | dsimp only | apply work_modCore | (apply work_mk))

theorem work_book {org s : State} (q : Nat) (id : Nat) (cls : Nat) (n : Nat) (hk : Work org s) : Work org (State.book s q id cls n) := by
  unfold State.book
  repeat' (with_reducible first
      | assumption | exact work_refl _ | (intro _ _) | (intro _) | dsimp only | (apply work_mk))

theorem work_bookCmd {org s : State} (c : Cmd) (cls : Nat) (n : Nat) (hk : Work org s) : Work org (State.bookCmd s c cls n) := by
  unfold State.bookCmd
  repeat' (with_reducible first
      | assumption | exact work_refl _ | dsimp only | apply work_book)

theorem work_bookOcc {org s : State} (q : Nat) (id : Nat) (n : Nat) (hk : Work org s) : Work org (State.bookOcc s q id n) := by
  unfold State.bookOcc
  repeat' (with_reducible first
      | assumption | exact work_refl _ | (intro _ _) | (intro _) | dsimp only | (apply work_mk))

theorem work_addLog {org s : State} (type : Nat) (rec : List Byte) (hk : Work org s) : Work org (State.addLog s type rec) := by
  unfold State.addLog
  repeat' (with_reducible first
      | assumption | exact work_refl _ | dsimp only | (apply work_mk))

theorem work_gaugeEvent {org s : State} (code : Nat) (detail : List Byte) (hk : Work org s) : Work org (State.gaugeEvent s code detail) :=
    by
  unfold State.gaugeEvent
  repeat' (with_reducible first
      | assumption | exact work_refl _ | dsimp only | apply work_addLog)

theorem work_keepRecord {org s : State} (r : ErrRec) (hk : Work org s) : Work org (State.keepRecord s r) := by
  unfold State.keepRecord
  repeat' (with_reducible first
      | assumption | exact work_refl _ | dsimp only | apply work_addLog | split | (apply work_mk))

theorem work_raise {org s : State} (cls : Nat) (action : Nat) (unit : Nat) (inst : Nat) (cmd : Option (Nat × Nat)) (addr : Nat) (detail :
    Nat) (fl : Nat) (hk : Work org s) : Work org (State.raise s cls action unit inst cmd addr detail fl) := by
  unfold State.raise
  repeat' (with_reducible first
      | assumption | exact work_refl _ | (intro _ _) | (intro _) | dsimp only | apply work_fresh | apply work_keepRecord | split
      | (refine work_fst (by assumption) ?_) | (refine work_snd (by assumption) ?_) | (apply work_mk))

/-! ### LlcFam -/

theorem work_countFillReads {org s : State} (l : Nat) (hk : Work org s) : Work org (State.countFillReads s l) := by
  unfold State.countFillReads
  repeat' (with_reducible first
      | assumption | exact work_refl _ | (intro _ _) | (intro _) | dsimp only | apply work_modCtl | (apply work_mk))

theorem work_countUnpinned {org s : State} (si : Nat) (miss : Bool) (hk : Work org s) : Work org (State.countUnpinned s si miss) := by
  unfold State.countUnpinned
  repeat' (with_reducible first
      | assumption | exact work_refl _ | (intro _ _) | (intro _) | dsimp only | apply work_modSlice | (apply work_mk))

theorem work_keepWriteCounts {org s : State} (s0 : State) (hk : Work org s) : Work org (State.keepWriteCounts s0 s) := by
  unfold State.keepWriteCounts
  repeat' (with_reducible first
      | assumption | exact work_refl _ | (intro _ _) | (intro _) | dsimp only | (apply work_mk))

theorem work_poisonAt {org s : State} (level : Nat) (a : Nat) (hk : Work org s) : Work org (State.poisonAt s level a) := by
  unfold State.poisonAt
  repeat' (with_reducible first
      | assumption | exact work_refl _ | (intro _ _) | (intro _) | dsimp only | apply work_setPoison | apply work_modLine | split
      | (refine work_fst (by assumption) ?_) | (refine work_snd (by assumption) ?_) | (apply work_mk))

theorem work_storageUe {org s : State} (level : Nat) (inst : Nat) (a : Nat) (hk : Work org s) : Work org (State.storageUe s level inst a)
    := by
  unfold State.storageUe
  repeat' (with_reducible first
      | assumption | exact work_refl _ | dsimp only | apply work_fresh | apply work_poisonAt | apply work_raise | split
      | (refine work_fst (by assumption) ?_) | (refine work_snd (by assumption) ?_))

theorem work_cacheErrs {org s : State} (l : Nat) (x : ReadErrs) (hk : Work org s) : Work org (State.cacheErrs s l x) := by
  unfold State.cacheErrs
  repeat' (with_reducible first
      | assumption | exact work_refl _ | (intro _ _) | (intro _) | dsimp only | apply work_modSlice | apply work_storageUe
      | (refine work_foldl ?_ ?_) | (refine work_foldl_fst ?_ ?_) | (apply work_mk))

theorem work_memErrs {org s : State} (l : Nat) (x : ReadErrs) (hk : Work org s) : Work org (State.memErrs s l x) := by
  unfold State.memErrs
  repeat' (with_reducible first
      | assumption | exact work_refl _ | (intro _ _) | (intro _) | dsimp only | apply work_modCtl | apply work_storageUe
      | apply work_raise | (refine work_foldl ?_ ?_) | (refine work_foldl_fst ?_ ?_) | split | (refine work_fst (by assumption) ?_)
      | (refine work_snd (by assumption) ?_) | (apply work_mk))

theorem work_readMiss {org s : State} (src : Requester) (l : Nat) (alone : Bool) (errs : ReadErrs) (hk : Work org s) : Work org
    (State.readMiss s src l alone errs) := by
  unfold State.readMiss
  repeat' (with_reducible first
      | assumption | exact work_refl _ | (intro _ _) | (intro _) | dsimp only | apply work_modSlice | (apply work_mk))

theorem work_readLine {org s : State} (src : Requester) (l : Nat) (off : Nat) (n : Nat) (pin : Bool) (errs : ReadErrs) (hk : Work org s) :
    Work org (State.readLine s src l off n pin errs) := by
  unfold State.readLine
  repeat' (with_reducible first
      | assumption | exact work_refl _ | (intro _ _) | (intro _) | dsimp only | apply work_modSlice | apply work_pinPlace
      | apply work_countFillReads | apply work_memErrs | apply work_allocate | apply work_keepWriteCounts | apply work_setLine
      | apply work_touch | apply work_readMiss | apply work_countUnpinned | apply work_raise | apply work_cacheErrs | split
      | (refine work_fst (by assumption) ?_) | (refine work_snd (by assumption) ?_) | (apply work_mk))

theorem work_fillLine {org s : State} (l : Nat) (hk : Work org s) : Work org (State.fillLine s l) := by
  unfold State.fillLine
  repeat' (with_reducible first
      | assumption | exact work_refl _ | dsimp only | apply work_setLine | split | (refine work_fst (by assumption) ?_)
      | (refine work_snd (by assumption) ?_) | (apply work_mk))

theorem work_answerMiss {org s : State} (m : Miss) (hk : Work org s) : Work org (State.answerMiss s m) := by
  unfold State.answerMiss
  repeat' (with_reducible first
      | assumption | exact work_refl _ | dsimp only | apply work_countFillReads | apply work_memErrs | apply work_fillLine | split)

theorem work_useProv {org s : State} (ranges : List (Nat × Nat)) (pins : List (Nat × Nat)) (handles : List Nat) (hk : Work org s) : Work
    org (State.useProv s ranges pins handles) := by
  unfold State.useProv
  repeat' (with_reducible first
      | assumption | exact work_refl _ | (intro _ _) | (intro _) | dsimp only | apply work_modLine | apply work_countRa
      | apply work_pinPlace | (refine work_foldl ?_ ?_) | (refine work_foldl_fst ?_ ?_) | split | (refine work_fst (by assumption) ?_)
      | (refine work_snd (by assumption) ?_) | (apply work_mk))

theorem work_discardProv {org s : State} (cond : Nat → State → Nat → Bool) (hk : Work org s) : Work org (State.discardProv s cond).1 := by
  unfold State.discardProv
  repeat' (with_reducible first
      | assumption | exact work_refl _ | (intro _ _) | dsimp only | apply work_dropProv | (refine work_foldl ?_ ?_)
      | (refine work_foldl_fst ?_ ?_) | split | (refine work_fst (by assumption) ?_) | (refine work_snd (by assumption) ?_)
      | (apply work_mk))

theorem work_prefetchLine {org s : State} (q : Nat) (l : Nat) (hk : Work org s) : Work org (State.prefetchLine s q l) := by
  unfold State.prefetchLine
  repeat' (with_reducible first
      | assumption | exact work_refl _ | dsimp only | apply work_readLine | apply work_answerMiss | split
      | (refine work_fst (by assumption) ?_) | (refine work_snd (by assumption) ?_) | (apply work_mk))

theorem work_prefetch {org s : State} (q : Nat) (ranges : List (Nat × Nat)) (h : Work org s) : Work org (State.prefetch s q ranges).1 := by
  unfold State.prefetch
  refine work_foldl_fst ?_ h
  intro a r
  split
  · exact work_refl _
  · refine work_foldl_fst ?_ (work_refl _)
    intro b l
    with_reducible exact work_prefetchLine _ _ (work_refl _)

theorem work_queueRange {org s : State} (op : Nat) (line : Nat) (count : Nat) (hk : Work org s) : Work org (State.queueRange s op line
    count) := by
  unfold State.queueRange
  repeat' (with_reducible first
      | assumption | exact work_refl _ | dsimp only | split | (apply work_mk))

theorem work_rangeAt {org s : State} (o : RangeOp) (p : Nat) (hk : Work org s) : Work org (State.rangeAt s o p) := by
  unfold State.rangeAt
  repeat' (with_reducible first
      | assumption | exact work_refl _ | (intro _ _) | (intro _) | dsimp only | apply work_pinPlace | apply work_setLine
      | apply work_modSlice | apply work_writeBack | apply work_modLine | split | (apply work_mk))

theorem work_applyRange {org s : State} (o : RangeOp) (hk : Work org s) : Work org (State.applyRange s o) := by
  unfold State.applyRange
  repeat' (with_reducible first
      | assumption | exact work_refl _ | (intro _ _) | (intro _) | dsimp only | apply work_rangeAt | (refine work_foldl ?_ ?_)
      | (refine work_foldl_fst ?_ ?_) | split | (apply work_mk))

theorem work_coreUe {org s : State} (level : Nat) (c : Nat) (a : Nat) (hk : Work org s) : Work org (State.coreUe s level c a) := by
  unfold State.coreUe
  repeat' (with_reducible first
      | assumption | exact work_refl _ | (intro _ _) | (intro _) | dsimp only | apply work_storageUe | apply work_fresh
      | apply work_modCore | apply work_raise | split | (refine work_fst (by assumption) ?_) | (refine work_snd (by assumption) ?_))

/-! ### Descs -/

theorem work_TDesc_pinLines {org s : State} (t : TDesc) (hk : Work org s) : Work org (TDesc.pinLines t s) := by
  unfold TDesc.pinLines
  repeat' (with_reducible first
      | assumption | exact work_refl _ | (intro _ _) | dsimp only | apply work_pinRange | (refine work_foldl ?_ ?_)
      | (refine work_foldl_fst ?_ ?_) | split)

/-! ### Narrow -/

theorem work_TDesc_writeMarked {org s : State} (t : TDesc) (r : Nat) (i0 : Nat) (bits : List Nat) (marks : List Bool) (ws : List (Nat ×
    Nat × Nat)) (hk : Work org s) : Work org (TDesc.writeMarked t s r i0 bits marks ws) := by
  unfold TDesc.writeMarked
  repeat' (with_reducible first
      | assumption | exact work_refl _ | (intro _ _) | (intro _) | dsimp only | apply work_TDesc_writeRow | (refine work_foldl ?_ ?_)
      | (refine work_foldl_fst ?_ ?_) | split)

theorem work_writePart {org s : State} (t : TDesc) (p : Narrowed) (zb : Bool) (ws : List (Nat × Nat × Nat)) (hk : Work org s) : Work org
    (State.writePart s t p zb ws) := by
  unfold State.writePart
  repeat' (with_reducible first
      | assumption | exact work_refl _ | dsimp only | apply work_TDesc_writeMarked | apply work_TDesc_writeScale
      | apply work_TDesc_zbRefresh | split | (refine work_fst (by assumption) ?_) | (refine work_snd (by assumption) ?_)
      | (apply work_mk))

theorem work_writeUnit {org s : State} (t : TDesc) (o : NarrowOut) (zb : Bool) (ws : List (Nat × Nat × Nat)) (hk : Work org s) : Work org
    (State.writeUnit s t o zb ws) := by
  unfold State.writeUnit
  repeat' (with_reducible first
      | assumption | exact work_refl _ | (intro _ _) | dsimp only | apply work_writePart | (refine work_foldl ?_ ?_)
      | (refine work_foldl_fst ?_ ?_))

end Sys2Proof.Laws
end

