-- ==== Sys2Proof/Laws/WorkCompute.lean ====
section
/-! SUPPORT. What the operations of a command leave alone (`Work`), one lemma per operation: the matrix array, the vector engine, DMA, copies, routing, attention and training. -/

namespace Sys2Proof.Laws

open Sys2Proof Sys2Proof.Machine

/-! ### Gemm -/

theorem work_GemmP_putStat {org s : State} (p : GemmP) (i1 : Nat) (m : Nat) (b : Nat) (v : FVal) (hk : Work org s) : Work org
    (GemmP.putStat p s i1 m b v).1 := by
  unfold GemmP.putStat
  repeat' (with_reducible first
      | assumption | exact work_refl _ | dsimp only | apply work_TDesc_writeRow | split)

theorem work_GemmP_writeStats {org s : State} (p : GemmP) (tiles : List (Nat × List (List W64))) (hk : Work org s) : Work org
    (GemmP.writeStats p s tiles).1 := by
  unfold GemmP.writeStats
  repeat' (with_reducible first
      | assumption | exact work_refl _ | (intro _ _) | (intro _) | dsimp only | apply work_GemmP_putStat | (refine work_foldl ?_ ?_)
      | (refine work_foldl_fst ?_ ?_) | split | (refine work_fst (by assumption) ?_) | (refine work_snd (by assumption) ?_)
      | (apply work_mk))

theorem work_addBsn {org s : State} (core : Nat) (c : BsnCounts) (hk : Work org s) : Work org (State.addBsn s core c) := by
  unfold State.addBsn
  repeat' (with_reducible first
      | assumption | exact work_refl _ | (intro _ _) | (intro _) | dsimp only | apply work_modBsn | (apply work_mk))

theorem work_countPass {org s : State} (p : GemmP) (cmd : Cmd) (core : Nat) (t : Nat) (pass : Nat) (times : Nat) (hk : Work org s) : Work
    org (State.countPass s p cmd core t pass times) := by
  unfold State.countPass
  repeat' (with_reducible first
      | assumption | exact work_refl _ | (intro _ _) | (intro _) | dsimp only | apply work_modMx | apply work_bookCmd | split
      | (refine work_fst (by assumption) ?_) | (refine work_snd (by assumption) ?_) | (apply work_mk))

theorem work_drainToC {org s : State} (p : GemmP) (e : WakeEntry) (core : Nat) (t : Nat) (v3 : List (List FVal)) (marks : List (List
    Bool)) (hk : Work org s) : Work org (State.drainToC s p e core t v3 marks).1 := by
  unfold State.drainToC
  repeat' (with_reducible first
      | assumption | exact work_refl _ | (intro _ _) | (intro _) | dsimp only | apply work_writePart | apply work_modBsn
      | apply work_writeUnit | (refine work_foldl ?_ ?_) | (refine work_foldl_fst ?_ ?_) | split | (apply work_mk))

theorem work_vecWork {org s : State} (c : Cmd) (core : Nat) (v : Nat) (hk : Work org s) : Work org (State.vecWork s c core v) := by
  unfold State.vecWork
  repeat' (with_reducible first
      | assumption | exact work_refl _ | (intro _ _) | (intro _) | dsimp only | apply work_fresh | apply work_modVec
      | apply work_bookCmd | split | (refine work_fst (by assumption) ?_) | (refine work_snd (by assumption) ?_) | (apply work_mk))

theorem work_finishTile {org s : State} (p : GemmP) (e : WakeEntry) (core : Nat) (t : Nat) (v3 : List (List FVal)) (marks : List (List
    Bool)) (hk : Work org s) : Work org (State.finishTile s p e core t v3 marks) := by
  unfold State.finishTile
  repeat' (with_reducible first
      | assumption | exact work_refl _ | (intro _ _) | (intro _) | dsimp only | apply work_drainToC | (refine work_modEntry _ _ _ ?_ ?_)
      | (intro e; rfl) | (with_unfolding_all rfl) | split | (refine work_fst (by assumption) ?_) | (refine work_snd (by assumption) ?_)
      | (apply work_mk))

theorem work_finishFp64 {org s : State} (p : GemmP) (e : WakeEntry) (core : Nat) (t : Nat) (hk : Work org s) : Work org (State.finishFp64
    s p e core t) := by
  unfold State.finishFp64
  repeat' (with_reducible first
      | assumption | exact work_refl _ | (intro _ _) | (intro _) | dsimp only | apply work_vecWork | apply work_finishTile | split
      | (refine work_fst (by assumption) ?_) | (refine work_snd (by assumption) ?_) | (apply work_mk))

theorem work_drainUnit {org s : State} (p : GemmP) (e : WakeEntry) (core : Nat) (u : Nat) (rows : List RowAcc) (poisoned : Bool) (hk :
    Work org s) : Work org (State.drainUnit s p e core u rows poisoned) := by
  unfold State.drainUnit
  repeat' (with_reducible first
      | assumption | exact work_refl _ | (intro _ _) | (intro _) | dsimp only | apply work_modBsn | apply work_finishFp64
      | apply work_finishTile | (refine work_modEntry _ _ _ ?_ ?_) | (intro e; rfl) | (with_unfolding_all rfl) | split
      | (refine work_fst (by assumption) ?_) | (refine work_snd (by assumption) ?_) | (apply work_mk))

theorem work_stallCounts {org s : State} (core : Nat) (hk : Work org s) : Work org (State.stallCounts s core) := by
  unfold State.stallCounts
  repeat' (with_reducible first
      | assumption | exact work_refl _ | (intro _ _) | (intro _) | dsimp only | apply work_fresh | apply work_modMx | apply work_modBsn
      | split | (refine work_fst (by assumption) ?_) | (refine work_snd (by assumption) ?_) | (apply work_mk))

theorem work_shareStalls {org s : State} (p : GemmP) (cc : Nat) (core : Nat) (i : Nat) (hk : Work org s) : Work org (State.shareStalls s p
    cc core i) := by
  unfold State.shareStalls
  repeat' (with_reducible first
      | assumption | exact work_refl _ | dsimp only | apply work_stallCounts | split)

theorem work_bookTraffic {org s : State} (c : Cmd) (hk : Work org s) : Work org (State.bookTraffic s c) := by
  unfold State.bookTraffic
  repeat' (with_reducible first
      | assumption | exact work_refl _ | (intro _ _) | dsimp only | apply work_fresh | apply work_bookCmd | (refine work_foldl ?_ ?_)
      | (refine work_foldl_fst ?_ ?_) | split | (refine work_fst (by assumption) ?_) | (refine work_snd (by assumption) ?_))

theorem work_mxBusy {org s : State} (core : Nat) (p : GemmP) (on : Bool) (hk : Work org s) : Work org (State.mxBusy s core p on) := by
  unfold State.mxBusy
  repeat' (with_reducible first
      | assumption | exact work_refl _ | (intro _ _) | (intro _) | dsimp only | apply work_modMx | apply work_busy | split
      | (apply work_mk))

theorem work_dropGroups {org s : State} (c : Cmd) (core : Nat) (hk : Work org s) : Work org (State.dropGroups s c core) := by
  unfold State.dropGroups
  repeat' (with_reducible first
      | assumption | exact work_refl _ | (intro _ _) | (intro _) | dsimp only | apply work_modBsn | split | (apply work_mk))

theorem work_replayed {org s : State} (p : GemmP) (e : WakeEntry) (core : Nat) (g : OpenGroup) (hk : Work org s) : Work org
    (State.replayed s p e core g).1 := by
  unfold State.replayed
  repeat' (with_reducible first
      | assumption | exact work_refl _ | (intro _ _) | (intro _) | dsimp only | apply work_modMx | apply work_raise
      | apply work_AttnP_tile | split | (refine work_fst (by assumption) ?_) | (refine work_snd (by assumption) ?_) | (apply work_mk))

theorem work_landGroup {org s : State} (p : GemmP) (e : WakeEntry) (core : Nat) (g : OpenGroup) (hk : Work org s) : Work org
    (State.landGroup s p e core g).1 := by
  unfold State.landGroup
  repeat' (with_reducible first
      | assumption | exact work_refl _ | (intro _ _) | (intro _) | dsimp only | apply work_AttnP_tile | apply work_countPass
      | apply work_addBsn | (refine work_foldl ?_ ?_) | (refine work_foldl_fst ?_ ?_) | split)

theorem work_freeUnit {org s : State} (core : Nat) (q : Nat) (seq : Nat) (u : Nat) (hk : Work org s) : Work org (State.freeUnit s core q
    seq u) := by
  unfold State.freeUnit
  repeat' (with_reducible first
      | assumption | exact work_refl _ | (intro _ _) | (intro _) | dsimp only | apply work_modBsn | apply work_AttnP_tile | split
      | (apply work_mk))

theorem work_runUnit {org s : State} (p : GemmP) (e : WakeEntry) (core : Nat) (u : Nat) (hk : Work org s) : Work org (State.runUnit s p e
    core u) := by
  unfold State.runUnit
  repeat' (with_reducible first
      | assumption | exact work_refl _ | (intro _ _) | (intro _) | dsimp only | apply work_AttnP_tile | apply work_freeUnit
      | apply work_drainUnit | apply work_mismatch | apply work_replayed | apply work_landGroup | split
      | (refine work_fst (by assumption) ?_) | (refine work_snd (by assumption) ?_) | (apply work_mk))

theorem work_runTile {org s : State} (p : GemmP) (e : WakeEntry) (core : Nat) (t : Nat) (hk : Work org s) : Work org (State.runTile s p e
    core t) := by
  unfold State.runTile
  repeat' (with_reducible first
      | assumption | exact work_refl _ | (intro _ _) | dsimp only | apply work_runUnit | apply work_finishTile
      | (refine work_foldl ?_ ?_) | (refine work_foldl_fst ?_ ?_) | split)

theorem work_idleArrays {org s : State} (c : Cmd) (hk : Work org s) : Work org (State.idleArrays s c) := by
  unfold State.idleArrays
  repeat' (with_reducible first
      | assumption | exact work_refl _ | (intro _ _) | (intro _) | dsimp only | apply work_modMx | apply work_busy
      | (refine work_foldl ?_ ?_) | (refine work_foldl_fst ?_ ?_) | (apply work_mk))

theorem work_runTiles {org s : State} (e : WakeEntry) (hk : Work org s) : Work org (State.runTiles s e) := by
  unfold State.runTiles
  repeat' (with_reducible first
      | assumption | exact work_refl _ | (intro _ _) | dsimp only | apply work_mxBusy | apply work_shareStalls | apply work_runTile
      | apply work_GemmP_writeStats | apply work_TDesc_pinLines | apply work_idleArrays | apply work_bookTraffic | apply work_ran
      | (refine work_foldl ?_ ?_) | (refine work_foldl_fst ?_ ?_) | split | (refine work_fst (by assumption) ?_)
      | (refine work_snd (by assumption) ?_))

/-! ### BasinFam -/

theorem work_setGroup {org s : State} (core : Nat) (slot : Nat) (g : Option OpenGroup) (hk : Work org s) : Work org (State.setGroup s core
    slot g) := by
  unfold State.setGroup
  repeat' (with_reducible first
      | assumption | exact work_refl _ | (intro _ _) | (intro _) | dsimp only | apply work_modBsn | (apply work_mk))

theorem work_landNext {org s : State} (p : GemmP) (e : WakeEntry) (core : Nat) (g : OpenGroup) (hk : Work org s) : Work org
    (State.landNext s p e core g).1 := by
  unfold State.landNext
  repeat' (with_reducible first
      | assumption | exact work_refl _ | dsimp only | apply work_countPass | apply work_AttnP_tile | apply work_addBsn | split
      | (refine work_fst (by assumption) ?_) | (refine work_snd (by assumption) ?_) | (apply work_mk))

theorem work_settle {org x1 : State} (p : GemmP) (e : WakeEntry) (core : Nat) (x0 : Nat) (x2 : OpenGroup) (hk : Work org x1) : Work org
    (State.settle p e core x0 x1 x2).1 := by
  induction x0 generalizing x1 x2 with
  | zero => exact hk
  | succ n ih =>
    unfold State.settle
    repeat' (with_reducible first
      | assumption | (apply ih) | exact work_refl _ | dsimp only | apply work_AttnP_tile | apply work_landNext | split)

theorem work_settled {org s : State} (p : GemmP) (e : WakeEntry) (core : Nat) (g : OpenGroup) (hk : Work org s) : Work org (State.settled
    s p e core g).1 := by
  unfold State.settled
  repeat' (with_reducible first
      | assumption | exact work_refl _ | dsimp only | apply work_settle | apply work_AttnP_tile)

theorem work_closeGroup {org s : State} (core : Nat) (slot : Nat) (g : OpenGroup) (hk : Work org s) : Work org (State.closeGroup s core
    slot g) := by
  unfold State.closeGroup
  repeat' (with_reducible first
      | assumption | exact work_refl _ | (intro _ _) | (intro _) | dsimp only | apply work_setGroup | apply work_modBsn
      | apply work_AttnP_tile | (apply work_mk))

theorem work_closeReady {org x1 : State} (p : GemmP) (q : Nat) (seq : Nat) (core : Nat) (x0 : Nat) (hk : Work org x1) : Work org
    (State.closeReady p q seq core x0 x1) := by
  induction x0 generalizing x1 with
  | zero => exact hk
  | succ n ih =>
    unfold State.closeReady
    repeat' (with_reducible first
      | assumption | (apply ih) | exact work_refl _ | (intro _ _) | (intro _) | dsimp only | apply work_AttnP_tile
      | apply work_closeGroup | split | (refine work_fst (by assumption) ?_) | (refine work_snd (by assumption) ?_) | (apply work_mk))

theorem work_drained {org s : State} (core : Nat) (d : DrainItem) (feeder : Bool) (hk : Work org s) : Work org (State.drained s core d
    feeder) := by
  unfold State.drained
  repeat' (with_reducible first
      | assumption | exact work_refl _ | (intro _ _) | (intro _) | dsimp only | apply work_modBsn | apply work_modCore | split
      | (apply work_mk))

theorem work_pushRows {org x1 : State} (core : Nat) (d0 : DrainItem) (cols : Nat) (v3 : List (List W64)) (marks : List (List Bool)) (x0 :
    Nat) (hk : Work org x1) : Work org (State.pushRows core d0 cols v3 marks x0 x1) := by
  induction x0 generalizing x1 with
  | zero => exact hk
  | succ n ih =>
    unfold State.pushRows
    repeat' (with_reducible first
      | assumption | (apply ih) | exact work_refl _ | (intro _ _) | (intro _) | dsimp only | apply work_drained | apply work_modSlc
      | apply work_modBsn | apply work_fresh | apply work_AttnP_tile | split | (refine work_fst (by assumption) ?_)
      | (refine work_snd (by assumption) ?_) | (apply work_mk))

theorem work_drainMore {org s : State} (core : Nat) (hk : Work org s) : Work org (State.drainMore s core) := by
  unfold State.drainMore
  repeat' (with_reducible first
      | assumption | exact work_refl _ | (intro _ _) | (intro _) | dsimp only | apply work_AttnP_tile | apply work_pushRows | split
      | (refine work_fst (by assumption) ?_) | (refine work_snd (by assumption) ?_) | (apply work_mk))

theorem work_startShare {org s : State} (c : Cmd) (core : Nat) (i : Nat) (hk : Work org s) : Work org (State.startShare s c core i) := by
  unfold State.startShare
  repeat' (with_reducible first
      | assumption | exact work_refl _ | (intro _ _) | (intro _) | dsimp only | apply work_modCore | (apply work_mk))

theorem work_vprogFinish {org s : State} (e : WakeEntry) (hk : Work org s) : Work org (State.vprogFinish s e) := by
  unfold State.vprogFinish
  repeat' (with_reducible first
      | assumption | exact work_refl _ | (intro _ _) | dsimp only | apply work_GemmP_writeStats | apply work_idleArrays
      | apply work_TDesc_pinLines | apply work_bookTraffic | apply work_ran | (refine work_foldl ?_ ?_) | (refine work_foldl_fst ?_ ?_)
      | split | (refine work_fst (by assumption) ?_) | (refine work_snd (by assumption) ?_) | (apply work_mk))

theorem work_vprogCheck {org x1 : State} (q : Nat) (seq : Nat) (core : Nat) (x0 : Nat) (hk : Work org x1) : Work org (State.vprogCheck q
    seq core x0 x1) := by
  induction x0 generalizing x1 with
  | zero => exact hk
  | succ n ih =>
    unfold State.vprogCheck
    repeat' (with_reducible first
      | assumption | (apply ih) | exact work_refl _ | (intro _ _) | (intro _) | dsimp only | apply work_ran | apply work_modVec
      | apply work_startShare | apply work_vprogFinish | split | (refine work_fst (by assumption) ?_)
      | (refine work_snd (by assumption) ?_) | (apply work_mk))

theorem work_endProgram {org s : State} (core : Nat) (hk : Work org s) : Work org (State.endProgram s core) := by
  unfold State.endProgram
  repeat' (with_reducible first
      | assumption | exact work_refl _ | (intro _ _) | (intro _) | dsimp only | apply work_fresh | apply work_modCore
      | apply work_vprogCheck | apply work_drainMore | split | (refine work_fst (by assumption) ?_)
      | (refine work_snd (by assumption) ?_) | (apply work_mk))

/-! ### Operands -/

theorem work_retire {org s : State} (core : Nat) (w : W64) (slotV : Bool) (next : Int) (hk : Work org s) : Work org (State.retire s core w
    slotV next) := by
  unfold State.retire
  repeat' (with_reducible first
      | assumption | exact work_refl _ | (intro _ _) | (intro _) | dsimp only | apply work_modVec | apply work_endProgram | split
      | (refine work_fst (by assumption) ?_) | (refine work_snd (by assumption) ?_) | (apply work_mk))

theorem work_retireNext {org s : State} (core : Nat) (w : W64) (hk : Work org s) : Work org (State.retireNext s core w) := by
  unfold State.retireNext
  repeat' (with_reducible first
      | assumption | exact work_refl _ | dsimp only | apply work_retire)

theorem work_reissued {org s : State} (core : Nat) (e : WakeEntry) (n : Nat) (hk : Work org s) : Work org (State.reissued s core e n) := by
  unfold State.reissued
  repeat' (with_reducible first
      | assumption | exact work_refl _ | (intro _ _) | (intro _) | dsimp only | apply work_modVec | apply work_raise
      | (refine work_foldl ?_ ?_) | (refine work_foldl_fst ?_ ?_) | (apply work_mk))

theorem work_sStall {org s : State} (core : Nat) (hk : Work org s) : Work org (State.sStall s core) := by
  unfold State.sStall
  repeat' (with_reducible first
      | assumption | exact work_refl _ | (intro _ _) | (intro _) | dsimp only | apply work_modVec | (apply work_mk))

theorem work_sIssue {org s : State} (core : Nat) (w : W64) (op : Nat) (f : VecSt → VecSt) (hk : Work org s) : Work org (State.sIssue s
    core w op f) := by
  unfold State.sIssue
  repeat' (with_reducible first
      | assumption | exact work_refl _ | dsimp only | apply work_sStall | apply work_modVec | apply work_retireNext | split
      | (refine work_fst (by assumption) ?_) | (refine work_snd (by assumption) ?_) | (apply work_mk))

/-! ### VectorMem -/

theorem work_vLoad {org s : State} (core : Nat) (w : W64) (op : Nat) (index : VecSt → Nat → Option Nat) (hk : Work org s) : Work org
    (State.vLoad s core w op index) := by
  unfold State.vLoad
  repeat' (with_reducible first
      | assumption | exact work_refl _ | (intro _ _) | (intro _) | dsimp only | apply work_sStall | apply work_modVec
      | apply work_retireNext | split | (refine work_fst (by assumption) ?_) | (refine work_snd (by assumption) ?_) | (apply work_mk))

theorem work_storePlain {org s : State} (core : Nat) (e : WakeEntry) (t : TDesc) (ty : Nat) (rm : Nat) (items : List (Nat × FVal × Nat ×
    Bool)) (hk : Work org s) : Work org (State.storePlain s core e t ty rm items) := by
  unfold State.storePlain
  repeat' (with_reducible first
      | assumption | exact work_refl _ | (intro _ _) | (intro _) | dsimp only | apply work_TDesc_writeMarked | apply work_modVec
      | (refine work_modEntry _ _ _ ?_ ?_) | (intro e; rfl) | (with_unfolding_all rfl) | (with_unfolding_all exact noteStored_cmd _ _ _)
      | (refine work_foldl ?_ ?_) | (refine work_foldl_fst ?_ ?_) | split | (refine work_fst (by assumption) ?_)
      | (refine work_snd (by assumption) ?_) | (apply work_mk))

theorem work_storeMx {org s : State} (core : Nat) (e : WakeEntry) (t : TDesc) (rm : Nat) (items : List (Nat × FVal × Nat × Bool)) (hk :
    Work org s) : Work org (State.storeMx s core e t rm items) := by
  unfold State.storeMx
  repeat' (with_reducible first
      | assumption | exact work_refl _ | (intro _ _) | (intro _) | dsimp only | apply work_writeUnit | apply work_modVec
      | (refine work_modEntry _ _ _ ?_ ?_) | (intro e; rfl) | (with_unfolding_all rfl) | (with_unfolding_all exact noteStored_cmd _ _ _)
      | (refine work_foldl ?_ ?_) | (refine work_foldl_fst ?_ ?_) | split | (refine work_fst (by assumption) ?_)
      | (refine work_snd (by assumption) ?_) | (apply work_mk))

theorem work_vStore {org s : State} (core : Nat) (w : W64) (op : Nat) (index : VecSt → TDesc → Nat → Option Nat) (hk : Work org s) : Work
    org (State.vStore s core w op index) := by
  unfold State.vStore
  repeat' (with_reducible first
      | assumption | exact work_refl _ | (intro _ _) | (intro _) | dsimp only | apply work_sStall | apply work_storeMx
      | apply work_storePlain | apply work_retireNext | (refine work_modEntry _ _ _ ?_ ?_) | (intro e; rfl) | (with_unfolding_all rfl)
      | split | (refine work_fst (by assumption) ?_) | (refine work_snd (by assumption) ?_) | (apply work_mk))

theorem work_withHead {org s : State} (core : Nat) (w : W64) (op : Nat) (f : SluiceSlot → State → State) (e : State → State) (hf : ∀ x0 q,
    Work q (f x0 q)) (he : ∀  q, Work q (e  q)) (hk : Work org s) : Work org (State.withHead s core w op f e) := by
  unfold State.withHead
  repeat' (with_reducible first
      | assumption | exact work_refl _ | (intro _ _) | (intro _) | dsimp only | (refine work_trans ?_ (hf _ _ ))
      | (refine work_trans ?_ (he _ )) | apply work_sStall | apply work_retireNext | apply work_modVec | split
      | (refine work_fst (by assumption) ?_) | (refine work_snd (by assumption) ?_) | (apply work_mk))

/-! ### Scalar -/

theorem work_scalarOp {org s : State} (core : Nat) (w : W64) (op : Nat) (f : W64 → W64 → W64 → W64) (hk : Work org s) : Work org
    (State.scalarOp s core w op f) := by
  unfold State.scalarOp
  repeat' (with_reducible first
      | assumption | exact work_refl _ | (intro _ _) | (intro _) | dsimp only | apply work_sIssue)

theorem work_branchOn {org s : State} (core : Nat) (w : W64) (op : Nat) (c : W64 → Bool) (hk : Work org s) : Work org (State.branchOn s
    core w op c) := by
  unfold State.branchOn
  repeat' (with_reducible first
      | assumption | exact work_refl _ | dsimp only | apply work_retire | split | (refine work_fst (by assumption) ?_)
      | (refine work_snd (by assumption) ?_) | (apply work_mk))

/-! ### Dma -/

theorem work_dmaWrite {org s : State} (core : Nat) (a : Nat) (bs : List Byte) (on : Bool) (hk : Work org s) : Work org (State.dmaWrite s
    core a bs on) := by
  unfold State.dmaWrite
  repeat' (with_reducible first
      | assumption | exact work_refl _ | (intro _ _) | (intro _) | dsimp only | apply work_modCore | apply work_store | split)

theorem work_poisonGranule {org s : State} (core : Nat) (a : Nat) (hk : Work org s) : Work org (State.poisonGranule s core a) := by
  unfold State.poisonGranule
  repeat' (with_reducible first
      | assumption | exact work_refl _ | dsimp only | apply work_dmaWrite | split)

theorem work_modCh {org s : State} (core : Nat) (ch : Nat) (f : DmaCh → DmaCh) (hk : Work org s) : Work org (State.modCh s core ch f) := by
  unfold State.modCh
  repeat' (with_reducible first
      | assumption | exact work_refl _ | (intro _ _) | (intro _) | dsimp only | apply work_modDma | (apply work_mk))

theorem work_fireTrigger {org s : State} (core : Nat) (ch : Nat) (hk : Work org s) : Work org (State.fireTrigger s core ch) := by
  unfold State.fireTrigger
  repeat' (with_reducible first
      | assumption | exact work_refl _ | (intro _ _) | (intro _) | dsimp only | apply work_busy | apply work_modCh | apply work_modDma
      | (apply work_mk))

theorem work_firesDone {org s : State} (core : Nat) (hk : Work org s) : Work org (State.firesDone s core) := by
  unfold State.firesDone
  repeat' (with_reducible first
      | assumption | exact work_refl _ | (intro _ _) | (intro _) | dsimp only | apply work_modDma | (apply work_mk))

theorem work_fireWaiting {org s : State} (core : Nat) (p : DmaDesc → Bool) (hk : Work org s) : Work org (State.fireWaiting s core p) := by
  unfold State.fireWaiting
  repeat' (with_reducible first
      | assumption | exact work_refl _ | (intro _ _) | dsimp only | apply work_fireTrigger | apply work_firesDone
      | (refine work_foldl ?_ ?_) | (refine work_foldl_fst ?_ ?_) | split | (refine work_fst (by assumption) ?_)
      | (refine work_snd (by assumption) ?_) | (apply work_mk))

theorem work_chainBad {org s : State} (h : ChainHead) (hk : Work org s) : Work org (State.chainBad s h) := by
  unfold State.chainBad
  repeat' (with_reducible first
      | assumption | exact work_refl _ | (intro _ _) | (intro _) | dsimp only | (refine work_modEntry _ _ _ ?_ ?_) | (intro e; rfl)
      | (with_unfolding_all rfl) | split | (refine work_fst (by assumption) ?_) | (refine work_snd (by assumption) ?_)
      | (apply work_mk))

theorem work_chainEnded {org s : State} (h : ChainHead) (hk : Work org s) : Work org (State.chainEnded s h) := by
  unfold State.chainEnded
  repeat' (with_reducible first
      | assumption | exact work_refl _ | dsimp only | apply work_bookOcc | apply work_ran | split | (refine work_fst (by assumption) ?_)
      | (refine work_snd (by assumption) ?_) | (apply work_mk))

theorem work_writeStatus {org s : State} (core : Nat) (a : Nat) (state : Nat) (cause : Nat) (clamps : Nat) (bytes : Nat) (hk : Work org s)
    : Work org (State.writeStatus s core a state cause clamps bytes) := by
  unfold State.writeStatus
  repeat' (with_reducible first
      | assumption | exact work_refl _ | dsimp only | apply work_dmaWrite)

theorem work_dmaMoved {org s : State} (core : Nat) (ch : Nat) (bytes : Nat) (cause : Nat) (target : Nat) (hk : Work org s) : Work org
    (State.dmaMoved s core ch bytes cause target) := by
  unfold State.dmaMoved
  repeat' (with_reducible first
      | assumption | exact work_refl _ | (intro _ _) | (intro _) | dsimp only | apply work_modDma | apply work_book | split
      | (refine work_fst (by assumption) ?_) | (refine work_snd (by assumption) ?_) | (apply work_mk))

theorem work_dmaRow {org s : State} (core : Nat) (dst : Nat) (bs : List Byte) (bad : Option Nat) (hk : Work org s) : Work org
    (State.dmaRow s core dst bs bad).1 := by
  unfold State.dmaRow
  repeat' (with_reducible first
      | assumption | exact work_refl _ | dsimp only | apply work_dmaWrite | apply work_poisonGranule | split
      | (refine work_fst (by assumption) ?_) | (refine work_snd (by assumption) ?_) | (apply work_mk))

theorem work_dmaRows {org x2 : State} (core : Nat) (d : DmaDesc) (x0 : Nat) (x1 : Nat) (hk : Work org x2) : Work org (State.dmaRows core d
    x0 x1 x2).1 := by
  induction x0 generalizing x1 x2 with
  | zero => exact hk
  | succ n ih =>
    unfold State.dmaRows
    repeat' (with_reducible first
      | assumption | (apply ih) | exact work_refl _ | (intro _ _) | (intro _) | dsimp only | apply work_dmaRow | split
      | (refine work_fst (by assumption) ?_) | (refine work_snd (by assumption) ?_))

theorem work_countEncode {org s : State} (inBytes : Nat) (out : Nat) (absent : Nat) (bs : List Coded) (hk : Work org s) : Work org
    (State.countEncode s inBytes out absent bs) := by
  unfold State.countEncode
  repeat' (with_reducible first
      | assumption | exact work_refl _ | (intro _ _) | (intro _) | dsimp only | split | (refine work_fst (by assumption) ?_)
      | (refine work_snd (by assumption) ?_) | (apply work_mk))

theorem work_countExpand {org s : State} (x : Expansion) (out : Nat) (hk : Work org s) : Work org (State.countExpand s x out) := by
  unfold State.countExpand
  repeat' (with_reducible first
      | assumption | exact work_refl _ | dsimp only | (apply work_mk))

theorem work_dmaCompress {org s : State} (core : Nat) (d : DmaDesc) (hk : Work org s) : Work org (State.dmaCompress s core d).1 := by
  unfold State.dmaCompress
  repeat' (with_reducible first
      | assumption | exact work_refl _ | (intro _ _) | (intro _) | dsimp only | apply work_dmaWrite | apply work_countEncode
      | apply work_poisonGranule | split | (refine work_fst (by assumption) ?_) | (refine work_snd (by assumption) ?_)
      | (apply work_mk))

theorem work_dmaScatter {org x2 : State} (core : Nat) (base : Nat) (x0 : List (Nat × Nat)) (x1 : List Byte) (hk : Work org x2) : Work org
    (State.dmaScatter core base x0 x1 x2).1 := by
  induction x0 generalizing x1 x2 with
  | nil => exact hk
  | cons b t ih =>
    unfold State.dmaScatter
    repeat' (with_reducible first
      | assumption | (apply ih) | exact work_refl _ | dsimp only | apply work_dmaWrite | (refine work_fst (by assumption) ?_)
      | (refine work_snd (by assumption) ?_))

theorem work_dmaExpand {org s : State} (core : Nat) (d : DmaDesc) (hk : Work org s) : Work org (State.dmaExpand s core d).1 := by
  unfold State.dmaExpand
  repeat' (with_reducible first
      | assumption | exact work_refl _ | (intro _ _) | (intro _) | dsimp only | apply work_dmaScatter | apply work_countExpand
      | apply work_poisonGranule | split | (refine work_fst (by assumption) ?_) | (refine work_snd (by assumption) ?_)
      | (apply work_mk))

theorem work_dmaFillRows {org x2 : State} (core : Nat) (d : DmaDesc) (x0 : Nat) (x1 : Nat) (hk : Work org x2) : Work org
    (State.dmaFillRows core d x0 x1 x2).1 := by
  induction x0 generalizing x1 x2 with
  | zero => exact hk
  | succ n ih =>
    unfold State.dmaFillRows
    repeat' (with_reducible first
      | assumption | (apply ih) | exact work_refl _ | (intro _ _) | (intro _) | dsimp only | apply work_dmaWrite | split
      | (refine work_fst (by assumption) ?_) | (refine work_snd (by assumption) ?_))

theorem work_dmaRange {org s : State} (core : Nat) (op : Nat) (hk : Work org s) : Work org (State.dmaRange s core op) := by
  unfold State.dmaRange
  repeat' (with_reducible first
      | assumption | exact work_refl _ | (intro _ _) | dsimp only | apply work_dmaMoved | apply work_queueRange
      | (refine work_foldl ?_ ?_) | (refine work_foldl_fst ?_ ?_) | split | (refine work_fst (by assumption) ?_)
      | (refine work_snd (by assumption) ?_) | (apply work_mk))

/-! ### CopyFam -/

theorem work_copyBitmap {org s : State} (dst : TDesc) (st : Stretch) (hk : Work org s) : Work org (State.copyBitmap s dst st) := by
  unfold State.copyBitmap
  repeat' (with_reducible first
      | assumption | exact work_refl _ | (intro _ _) | dsimp only | apply work_TDesc_zbRefresh | (refine work_foldl ?_ ?_)
      | (refine work_foldl_fst ?_ ?_) | split)

theorem work_copyBlock {org s : State} (s0 : State) (e : WakeEntry) (dst : TDesc) (first : Nat) (b : Nat) (vals : List (FVal × Bool))
    (core : Nat) (blk : Nat) (hk : Work org s) : Work org (State.copyBlock s s0 e dst first b vals core blk).1 := by
  unfold State.copyBlock
  repeat' (with_reducible first
      | assumption | exact work_refl _ | (intro _ _) | (intro _) | dsimp only | apply work_copyBitmap | apply work_writeUnit
      | apply work_modDma | (refine work_foldl ?_ ?_) | (refine work_foldl_fst ?_ ?_) | (apply work_mk))

theorem work_copyPlain {org s : State} (e : WakeEntry) (src : TDesc) (dst : TDesc) (hk : Work org s) : Work org (State.copyPlain s e src
    dst).1 := by
  unfold State.copyPlain
  repeat' (with_reducible first
      | assumption | exact work_refl _ | (intro _ _) | dsimp only | apply work_copyBlock | apply work_countExpand
      | (refine work_foldl ?_ ?_) | (refine work_foldl_fst ?_ ?_) | split | (refine work_fst (by assumption) ?_)
      | (refine work_snd (by assumption) ?_) | (apply work_mk))

theorem work_copyToStream {org s : State} (e : WakeEntry) (src : TDesc) (dst : TDesc) (hk : Work org s) : Work org (State.copyToStream s e
    src dst).1 := by
  unfold State.copyToStream
  repeat' (with_reducible first
      | assumption | exact work_refl _ | (intro _ _) | (intro _) | dsimp only | apply work_store | apply work_countEncode
      | apply work_modDma | apply work_countExpand | (refine work_foldl ?_ ?_) | (refine work_foldl_fst ?_ ?_) | split
      | (refine work_fst (by assumption) ?_) | (refine work_snd (by assumption) ?_) | (apply work_mk))

/-! ### Delta -/

theorem work_listRow {org s : State} (t : TDesc) (r : Nat) (ws : List Nat) (on : Bool) (hk : Work org s) : Work org (listRow t s r ws on)
    := by
  unfold listRow
  repeat' (with_reducible first
      | assumption | exact work_refl _ | dsimp only | apply work_TDesc_writeRow | split)

theorem work_routeDone {org s : State} (cmd : Cmd) (hk : Work org s) : Work org (State.routeDone s cmd) := by
  unfold State.routeDone
  repeat' (with_reducible first
      | assumption | exact work_refl _ | (intro _ _) | (intro _) | dsimp only | apply work_discardProv | split
      | (refine work_fst (by assumption) ?_) | (refine work_snd (by assumption) ?_) | (apply work_mk))

theorem work_runRoute {org s : State} (e : WakeEntry) (p : RouteP) (hk : Work org s) : Work org (State.runRoute s e p) := by
  unfold State.runRoute
  repeat' (with_reducible first
      | assumption | exact work_refl _ | (intro _ _) | (intro _) | dsimp only | apply work_listRow | apply work_ran
      | (refine work_foldl ?_ ?_) | (refine work_foldl_fst ?_ ?_) | split | (refine work_fst (by assumption) ?_)
      | (refine work_snd (by assumption) ?_) | (apply work_mk))

theorem work_pinNamed {org s : State} (c : Cmd) (hk : Work org s) : Work org (State.pinNamed s c) := by
  unfold State.pinNamed
  repeat' (with_reducible first
      | assumption | exact work_refl _ | (intro _ _) | dsimp only | apply work_TDesc_pinLines | (refine work_foldl ?_ ?_)
      | (refine work_foldl_fst ?_ ?_))

theorem work_routePredict {org s : State} (q : Nat) (seq : Nat) (p : RouteP) (hk : Work org s) : Work org (State.routePredict s q seq p).1
    := by
  unfold State.routePredict
  repeat' (with_reducible first
      | assumption | exact work_refl _ | (intro _ _) | (intro _) | dsimp only | apply work_prefetch | (refine work_foldl ?_ ?_)
      | (refine work_foldl_fst ?_ ?_) | split | (refine work_fst (by assumption) ?_) | (refine work_snd (by assumption) ?_)
      | (apply work_mk))

theorem work_putRow {org s : State} (s0 : State) (e : WakeEntry) (y : TDesc) (r : Nat) (vals : List (FVal × Bool)) (hk : Work org s) :
    Work org (State.putRow s0 s e y r vals).1 := by
  unfold State.putRow
  repeat' (with_reducible first
      | assumption | exact work_refl _ | (intro _ _) | (intro _) | dsimp only | apply work_writeUnit)

theorem work_rowsEnd {org s : State} (cmd : Cmd) (pz : Bool) (sat : Bool) (eff : List RowEffect) (hk : Work org s) : Work org
    (State.rowsEnd s cmd pz sat eff) := by
  unfold State.rowsEnd
  repeat' (with_reducible first
      | assumption | exact work_refl _ | dsimp only | apply work_pinNamed | apply work_bookTraffic | apply work_ran | split)

/-! ### Attn -/

theorem work_AttnP_putStats {org s : State} (a : AttnP) (b : Nat) (i : Nat) (r : AttnRow) (on : Bool) (hk : Work org s) : Work org
    (AttnP.putStats a s b i r on).1 := by
  unfold AttnP.putStats
  repeat' (with_reducible first
      | assumption | exact work_refl _ | dsimp only | apply work_TDesc_writeRow | split | (refine work_fst (by assumption) ?_)
      | (refine work_snd (by assumption) ?_) | (apply work_mk))

theorem work_attnPasses {org s : State} (cmd : Cmd) (core : Nat) (macs : Nat) (n : Nat) (passes : Nat) (hk : Work org s) : Work org
    (State.attnPasses s cmd core macs n passes) := by
  unfold State.attnPasses
  repeat' (with_reducible first
      | assumption | exact work_refl _ | (intro _ _) | (intro _) | dsimp only | apply work_modMx | apply work_bookCmd | split
      | (apply work_mk))

theorem work_attnWork {org s : State} (s0 : State) (a : AttnP) (cmd : Cmd) (core : Nat) (b : Nat) (rows : List (Nat × AttnRow)) (hk : Work
    org s) : Work org (State.attnWork s0 s a cmd core b rows) := by
  unfold State.attnWork
  repeat' (with_reducible first
      | assumption | exact work_refl _ | (intro _ _) | (intro _) | dsimp only | apply work_attnPasses | apply work_addBsn
      | apply work_vecWork | (refine work_foldl ?_ ?_) | (refine work_foldl_fst ?_ ?_) | split)

theorem work_attnStalls {org s : State} (a : AttnP) (cmd : Cmd) (hk : Work org s) : Work org (State.attnStalls s a cmd) := by
  unfold State.attnStalls
  repeat' (with_reducible first
      | assumption | exact work_refl _ | (intro _ _) | (intro _) | dsimp only | apply work_busy | apply work_stallCounts
      | (refine work_foldl ?_ ?_) | (refine work_foldl_fst ?_ ?_) | split)

theorem work_AttnP_tile {org s : State} (a : AttnP) (s0 : State) (e : WakeEntry) (t : Nat) (hk : Work org s) : Work org (AttnP.tile a s0 s
    e t).1 := by
  unfold AttnP.tile
  repeat' (with_reducible first
      | assumption | exact work_refl _ | (intro _ _) | (intro _) | dsimp only | apply work_writeUnit | apply work_AttnP_putStats
      | apply work_modBsn | apply work_attnWork | (refine work_foldl ?_ ?_) | (refine work_foldl_fst ?_ ?_) | split
      | (refine work_fst (by assumption) ?_) | (refine work_snd (by assumption) ?_) | (apply work_mk))

/-! ### Train -/

theorem work_modUpd {org s : State} (p : Nat) (f : UpdSt → UpdSt) (hk : Work org s) : Work org (State.modUpd s p f) := by
  unfold State.modUpd
  repeat' (with_reducible first
      | assumption | exact work_refl _ | dsimp only | (apply work_mk))

theorem work_takeEngine {org s : State} (e : WakeEntry) (layer : Nat) (pre : Bool) (hk : Work org s) : Work org (State.takeEngine s e
    layer pre) := by
  unfold State.takeEngine
  repeat' (with_reducible first
      | assumption | exact work_refl _ | (intro _ _) | (intro _) | dsimp only | apply work_modUpd | (apply work_mk))

theorem work_TDesc_writeLinear {org s : State} (t : TDesc) (es : List (Nat × Bool)) (hk : Work org s) : Work org (TDesc.writeLinear t s
    es) := by
  unfold TDesc.writeLinear
  repeat' (with_reducible first
      | assumption | exact work_refl _ | (intro _ _) | dsimp only | apply work_TDesc_writeMarked | (refine work_foldl ?_ ?_)
      | (refine work_foldl_fst ?_ ?_))

theorem work_deriveBlock {org s : State} (s0 : State) (e : WakeEntry) (com : TDesc) (work : TDesc) (n : Nat) (j : Nat) (hk : Work org s) :
    Work org (State.deriveBlock s0 s e com work n j).1 := by
  unfold State.deriveBlock
  repeat' (with_reducible first
      | assumption | exact work_refl _ | (intro _ _) | dsimp only | apply work_copyBitmap | apply work_writeUnit
      | (refine work_foldl ?_ ?_) | (refine work_foldl_fst ?_ ?_) | (apply work_mk))

theorem work_putRecord {org s : State} (e : WakeEntry) (bytes : List Byte) (pz : Bool) (hk : Work org s) : Work org (State.putRecord s e
    bytes pz) := by
  unfold State.putRecord
  repeat' (with_reducible first
      | assumption | exact work_refl _ | (intro _ _) | (intro _) | dsimp only | apply work_store | apply work_modUpd
      | apply work_bookTraffic | apply work_ran | split | (apply work_mk))

end Sys2Proof.Laws
end

