-- ==== Sys2Proof/Laws/WorkLink.lean ====
section
/-! SUPPORT. What the work of a command leaves alone when it also mirrors over the ford link (R343): everything that `Work` names but the link
itself and the messages sent. -/

set_option Elab.async false

namespace Sys2Proof.Laws

open Sys2Proof Sys2Proof.Machine

/-- Work that may also have sent flits. -/
def Linked (r s : State) : Prop := Work { r with frd := s.frd, out := s.out } s

theorem linked_of_work {r s : State} (h : Work r s) : Linked r s :=
  ⟨h.memKeys, h.slabTurn, h.weirs, h.weirOps, h.queues, h.slots, h.tide, h.coll, rfl, h.spw, h.boot, h.oxb, h.cap, h.pins, h.rst, rfl, h.est, h.train,
   h.wake⟩

theorem linked_refl (s : State) : Linked s s := work_refl s

/-- The link and the messages set aside, work composes. -/
theorem linked_trans {r s t : State} (h : Linked r s) (k : Linked s t) : Linked r t := by
  have h' : Work { r with frd := t.frd, out := t.out } { s with frd := t.frd, out := t.out } :=
    ⟨h.memKeys, h.slabTurn, h.weirs, h.weirOps, h.queues, h.slots, h.tide, h.coll, rfl, h.spw, h.boot, h.oxb, h.cap, h.pins, h.rst, rfl, h.est,
     h.train, h.wake⟩
  exact work_trans h' k

/-- A change of the link and of the messages alone. -/
theorem linked_of_eq {r s : State} (e : s = { r with frd := s.frd, out := s.out }) : Linked r s := by
  unfold Linked
  rw [← e]
  exact work_refl s

theorem linked_foldl {α : Type} {r s : State} {l : List α} {f : State → α → State} (hf : ∀ q x, Linked q (f q x)) (h : Linked r s) :
    Linked r (l.foldl f s) := by
  induction l generalizing s with
  | nil => exact h
  | cons a t ih => exact ih (linked_trans h (hf s a))

theorem linked_putFlit (s : State) (f : Flit) : Linked s (s.putFlit f) := by
  unfold State.putFlit
  dsimp only
  split <;> exact linked_of_eq rfl

theorem linked_queueFlit (s : State) (f : Flit) : Linked s (s.queueFlit f) := by
  unfold State.queueFlit
  split
  · exact linked_putFlit s f
  · exact linked_of_eq rfl

theorem linked_sendFlit (s : State) (type vc : Nat) (p : List Byte) : Linked s (s.sendFlit type vc p) := by
  unfold State.sendFlit
  split
  · exact linked_queueFlit s _
  · exact linked_refl s

theorem linked_mirrorWrite (s : State) (a : Nat) (bytes : List Byte) : Linked s (s.mirrorWrite a bytes) :=
  linked_foldl (fun q _ => linked_sendFlit q _ _ _) (linked_refl s)

/-- What mirroring a tensor changes: the link and the messages alone. -/
theorem linked_mirrorTensor (s : State) (t : TDesc) : Linked s (s.mirrorTensor t) := by
  unfold State.mirrorTensor
  split
  · exact linked_refl s
  · exact linked_foldl (fun q _ => linked_mirrorWrite q _ _) (linked_refl s)

/-- Without mirroring a tensor's mirror is nothing. -/
theorem mirrorTensor_off (s : State) (t : TDesc) (h : s.mirroring = false) : s.mirrorTensor t = s := by
  unfold State.mirrorTensor
  rw [if_pos (by simp [h])]

/-- The writing rules of an UPDATE, with their mirroring. -/
theorem linked_updWrite (s : State) (e : WakeEntry) (p : UpdP) (row : Nat) (x : NormRow) (g2 : FVal) (n : Nat) :
    Linked s (s.updWrite e p row x g2 n).1 := by
  unfold State.updWrite
  dsimp only
  refine linked_trans ?_ (linked_of_work (work_modUpd _ _ (work_refl _)))
  refine linked_trans (linked_trans (linked_of_work ?_) (linked_mirrorTensor _ _)) (linked_mirrorTensor _ _)
  split
  · exact work_TDesc_writeLinear _ _ (work_refl _)
  · exact work_TDesc_writeLinear _ _ (work_TDesc_writeLinear _ _ (work_refl _))

end Sys2Proof.Laws
end

