-- ==== Sys2Proof/Tests/Slice0.lean ====
section
/-! SUPPORT. Small tests: ill-formed commands, one command at a time on small states, and for each statement states that meet its hypotheses. -/

set_option Elab.async false

namespace Sys2Proof.Tests

open Sys2Proof Sys2Proof.Machine

/-- The state a command leaves. -/
def after (c : Instr) (s : State) : State :=
  match exec c s with
  | .next t => t
  | _ => s

/-! ### Ill-formed commands, one for each check -/

theorem test_wf_qpn : (Instr.ackTimeout 4351).wf = true ∧ (Instr.ackTimeout 4352).wf = false := by decide +kernel

theorem test_wf_qpn_low : (Instr.ackTimeout 256).wf = true ∧ (Instr.ackTimeout 255).wf = false := by decide +kernel

theorem test_wf_pkey : (Instr.send 65535 256 0 []).wf = true ∧ (Instr.send 65536 256 0 []).wf = false := by decide +kernel

theorem test_wf_psn : (Instr.nakReceived 256 16777215).wf = true ∧ (Instr.nakReceived 256 16777216).wf = false := by decide +kernel

theorem test_wf_rkey : (Instr.rdmaRead 65535 256 4294967295 0 0 0).wf = true ∧ (Instr.rdmaRead 65535 256 4294967296 0 0 0).wf = false := by decide +kernel

theorem test_wf_virtual_address : (Instr.rdmaRead 65535 256 0 0 18446744073709551615 0).wf = true ∧ (Instr.rdmaRead 65535 256 0 0 18446744073709551616 0).wf = false := by decide +kernel

theorem test_wf_address : (Instr.registerWrite 281474976710655 0).wf = true ∧ (Instr.registerWrite 281474976710656 0).wf = false := by decide +kernel

theorem test_wf_length : (Instr.rdmaRead 65535 256 0 0 0 4294967295).wf = true ∧ (Instr.rdmaRead 65535 256 0 0 0 4294967296).wf = false := by decide +kernel

theorem test_wf_frame_data : (Instr.rdmaReadResponse 256 0 (List.replicate 4096 0)).wf = true ∧ (Instr.rdmaReadResponse 256 0 (List.replicate 4097 0)).wf = false := by decide +kernel

theorem test_wf_mtu : (Instr.cmReq 65535 0 false 4096 0 0 0).wf = true ∧ (Instr.cmReq 65535 0 false 1500 0 0 0).wf = false := by decide +kernel

theorem test_wf_placeholder_qpn : (Instr.cmReq 65535 0 false 4096 4294967295 0 0).wf = true ∧ (Instr.cmReq 65535 0 false 4096 4294967296 0 0).wf = false := by decide +kernel

theorem test_wf_queue : (Instr.frameDecode 255).wf = true ∧ (Instr.frameDecode 256).wf = false := by decide +kernel

theorem test_wf_seq : (Instr.nop 0 18446744073709551615).wf = true ∧ (Instr.nop 0 18446744073709551616).wf = false := by decide +kernel

theorem test_wf_core : (Instr.drainStart 2047).wf = true ∧ (Instr.drainStart 2048).wf = false := by decide +kernel

theorem test_wf_slot : (Instr.rowLand 0 3 false).wf = true ∧ (Instr.rowLand 0 4 false).wf = false := by decide +kernel

theorem test_wf_ptp_domain : (Instr.ptpAnnounce 127 ⟨0, 128, 6, 0x20, 0, 128, 0, 0, 0⟩).wf = true ∧ (Instr.ptpAnnounce 128 ⟨0, 128, 6, 0x20, 0, 128, 0, 0, 0⟩).wf = false := by decide +kernel

theorem test_wf_ptp_sequence : (Instr.ptpFollowUp 0 0 65535 0).wf = true ∧ (Instr.ptpFollowUp 0 0 65536 0).wf = false := by decide +kernel

theorem test_wf_register : (Instr.vloadReturn 0 31).wf = true ∧ (Instr.vloadReturn 0 32).wf = false := by decide +kernel

theorem test_wf_burst : (Instr.llcRead .estuary 0 128 false ⟨0, [], false⟩).wf = true ∧ (Instr.llcRead .estuary 0 129 false ⟨0, [], false⟩).wf = false := by decide +kernel

theorem test_wf_line_data : (Instr.llcWrite .ford 0 (List.replicate 128 0) false).wf = true ∧ (Instr.llcWrite .ford 0 (List.replicate 129 0) false).wf = false := by decide +kernel

theorem test_wf_line : (Instr.llcFill 2199023255551).wf = true ∧ (Instr.llcFill 2199023255552).wf = false := by decide +kernel

theorem test_wf_range_count : (Instr.rangePin 0 1048576).wf = true ∧ (Instr.rangePin 0 1048577).wf = false := by decide +kernel

theorem test_wf_range_count_zero : (Instr.rangeClean 0 1).wf = true ∧ (Instr.rangeClean 0 0).wf = false := by decide +kernel

theorem test_wf_requester_core : (Instr.llcRead (.core 2047) 0 1 false ⟨0, [], false⟩).wf = true ∧ (Instr.llcRead (.core 2048) 0 1 false ⟨0, [], false⟩).wf = false := by decide +kernel

theorem test_wf_requester_dma : (Instr.llcRead (.dma 2047) 0 1 false ⟨0, [], false⟩).wf = true ∧ (Instr.llcRead (.dma 2048) 0 1 false ⟨0, [], false⟩).wf = false := by decide +kernel

theorem test_wf_requester_queue : (Instr.llcRead (.runAhead 255) 0 1 false ⟨0, [], false⟩).wf = true ∧ (Instr.llcRead (.runAhead 256) 0 1 false ⟨0, [], false⟩).wf = false := by decide +kernel

theorem test_wf_requester_engine : (Instr.llcRead (.updateEngine 3) 0 1 false ⟨0, [], false⟩).wf = true ∧ (Instr.llcRead (.updateEngine 4) 0 1 false ⟨0, [], false⟩).wf = false := by decide +kernel

theorem test_wf_slab_offset : (Instr.slabAccess 0 0 1572863 1 none).wf = true ∧ (Instr.slabAccess 0 0 1572864 1 none).wf = false := by decide +kernel

theorem test_wf_store_level : (Instr.scrubPass 6 0 0 []).wf = true ∧ (Instr.scrubPass 7 0 0 []).wf = false := by decide +kernel

theorem test_wf_channel : (Instr.dmaChStart 0 7 0).wf = true ∧ (Instr.dmaChStart 0 8 0).wf = false := by decide +kernel

theorem test_wf_group : (Instr.stragglerDeadline 18446744073709551615 0).wf = true ∧ (Instr.stragglerDeadline 18446744073709551616 0).wf = false := by decide +kernel

theorem test_wf_collective_ranks : (Instr.collStart 0 0 [255] 0 0 []).wf = true ∧ (Instr.collStart 0 0 [256] 0 0 []).wf = false := by decide +kernel

theorem test_wf_piece : (Instr.freshetChunk 0 0 0 (List.replicate 9216 0)).wf = true ∧ (Instr.freshetChunk 0 0 0 (List.replicate 9217 0)).wf = false := by decide +kernel

theorem test_wf_rank : (Instr.fpMsg 256 []).wf = true ∧ (Instr.fpMsg 257 []).wf = false := by decide +kernel

theorem test_wf_row : (Instr.bisect 0 4095 0 0 []).wf = true ∧ (Instr.bisect 0 4096 0 0 []).wf = false := by decide +kernel

theorem test_wf_flit : (Instr.fordColl ⟨0, 0, 0, 0, 0, 0⟩ (List.replicate 240 0)).wf = true ∧ (Instr.fordColl ⟨0, 0, 0, 0, 0, 0⟩ (List.replicate 241 0)).wf = false := by decide +kernel

theorem test_wf_flit_sequence : (Instr.fordAck ⟨0, 65535, 0, 0, 0, 0⟩).wf = true ∧ (Instr.fordAck ⟨0, 65536, 0, 0, 0, 0⟩).wf = false := by decide +kernel

theorem test_wf_junctions : (Instr.tempSample (List.replicate 96 0) []).wf = true ∧ (Instr.tempSample (List.replicate 97 0) []).wf = false := by decide +kernel

theorem test_wf_memory_temperatures : (Instr.tempSample [] (List.replicate 32 0)).wf = true ∧ (Instr.tempSample [] (List.replicate 33 0)).wf = false := by decide +kernel

theorem test_wf_rails : (Instr.railSample (List.replicate 9 (0, 0))).wf = true ∧ (Instr.railSample (List.replicate 10 (0, 0))).wf = false := by decide +kernel

theorem test_wf_point : (Instr.thermalTrip 95).wf = true ∧ (Instr.thermalTrip 96).wf = false := by decide +kernel

theorem test_wf_unit : (Instr.livenessTimeout 255 0).wf = true ∧ (Instr.livenessTimeout 256 0).wf = false := by decide +kernel

theorem test_wf_lane_group : (Instr.vlaneFail false 0 7 0).wf = true ∧ (Instr.vlaneFail false 0 8 0).wf = false := by decide +kernel

theorem test_wf_lane : (Instr.vlaneFail false 0 0 67).wf = true ∧ (Instr.vlaneFail false 0 0 68).wf = false := by decide +kernel

theorem test_wf_partition : (Instr.oxbowResetDeadline 3).wf = true ∧ (Instr.oxbowResetDeadline 4).wf = false := by decide +kernel

theorem test_wf_cluster : (Instr.clusterReset 127).wf = true ∧ (Instr.clusterReset 128).wf = false := by decide +kernel

theorem test_wf_reset_level : (Instr.resetComplete 3 0).wf = true ∧ (Instr.resetComplete 4 0).wf = false := by decide +kernel

theorem test_wf_failed_rails : (Instr.railsAndClocks 255 0).wf = true ∧ (Instr.railsAndClocks 256 0).wf = false := by decide +kernel

theorem test_wf_sites : (Instr.verticalLinks [⟨false, 127, 0, 1, 0⟩]).wf = true ∧ (Instr.verticalLinks [⟨false, 128, 0, 1, 0⟩]).wf = false := by decide +kernel

theorem test_wf_dead_lanes : (Instr.verticalLinks [⟨false, 0, 0, 64, 0⟩]).wf = true ∧ (Instr.verticalLinks [⟨false, 0, 0, 65, 0⟩]).wf = false := by decide +kernel

theorem test_wf_lane_groups_once : (Instr.verticalLinks [⟨true, 0, 0, 1, 0⟩, ⟨true, 0, 1, 1, 0⟩]).wf = true ∧ (Instr.verticalLinks [⟨true, 0, 0, 1, 0⟩, ⟨true, 0, 0, 1, 0⟩]).wf = false := by decide +kernel

theorem test_wf_physical_cores : (Instr.computeAndShoal [2303]).wf = true ∧ (Instr.computeAndShoal [2304]).wf = false := by decide +kernel

theorem test_wf_near_channels : (Instr.memoryStage [255] []).wf = true ∧ (Instr.memoryStage [256] []).wf = false := by decide +kernel

theorem test_wf_deep_channels : (Instr.memoryStage [] [95]).wf = true ∧ (Instr.memoryStage [] [96]).wf = false := by decide +kernel

theorem test_wf_lanes : (Instr.portAttemptTimeout [7]).wf = true ∧ (Instr.portAttemptTimeout [8]).wf = false := by decide +kernel

theorem test_wf_freshet_core : (Instr.freshetBegin 2303 1 (List.replicate 32 0)).wf = true ∧ (Instr.freshetBegin 2304 1 (List.replicate 32 0)).wf = false := by decide +kernel

theorem test_wf_chunks : (Instr.freshetBegin 0 2 (List.replicate 32 0)).wf = true ∧ (Instr.freshetBegin 0 3 (List.replicate 32 0)).wf = false := by decide +kernel

theorem test_wf_chunk : (Instr.freshetChunk 0 1 0 []).wf = true ∧ (Instr.freshetChunk 0 2 0 []).wf = false := by decide +kernel

theorem test_wf_digest : (Instr.getAttestation (List.replicate 32 0)).wf = true ∧ (Instr.getAttestation (List.replicate 31 0)).wf = false := by decide +kernel

theorem test_wf_token : (Instr.debugUnlock (List.replicate 128 0)).wf = true ∧ (Instr.debugUnlock (List.replicate 127 0)).wf = false := by decide +kernel

theorem test_wf_i3c_address : (Instr.i3cDaa 127).wf = true ∧ (Instr.i3cDaa 128).wf = false := by decide +kernel

theorem test_wf_pldm_type : (Instr.getPldmVersion 63).wf = true ∧ (Instr.getPldmVersion 64).wf = false := by decide +kernel

theorem test_wf_message_type : (Instr.getMctpVersionSupport 255).wf = true ∧ (Instr.getMctpVersionSupport 256).wf = false := by decide +kernel

theorem test_wf_sideband_level : (Instr.sbReset 5 0).wf = true ∧ (Instr.sbReset 6 0).wf = false := by decide +kernel

theorem test_wf_component : (Instr.updateComponent 65535).wf = true ∧ (Instr.updateComponent 65536).wf = false := by decide +kernel

theorem test_wf_stage : (Instr.readStage 8).wf = true ∧ (Instr.readStage 9).wf = false := by decide +kernel

theorem test_wf_message (l : List Byte) (h : l.length = 4294967296) :
    (Instr.send 65535 256 0 []).wf = true ∧ (Instr.send 65535 256 0 l).wf = false := by simp [Instr.wf, okMessage, h, ok16, okQpn, okPsn]

/-! ### Small states -/

/-- A command with the given opcode, parameters and tensors. -/
def cmdOf (op q seq : Nat) (params : List Byte) : Cmd :=
  { queue := q, seq := seq, opcode := op, waitEn := false, signalEn := false, resultEn := false, ordered := false, tideStart := false, slot := 0,
    waitWeir := 0, waitGen := 0, signalWeir := 0, coreFirst := 0, coreCount := 1, tideMark := 0, tag := 0, params := params, tensors := [], extras := [],
    prog := [], feeder := none, group := none, frame := [], selfOverlap := false, predicted := none, watch := [] }

/-- A reached command that has not begun. -/
def entryOf (c : Cmd) : WakeEntry :=
  { wakeSeq := 0, cmd := c, phase := 0, replays := 0, noReplay := false, reachMark := 0, reachNs := 0, step := 0, seed := 0, collSeq := 0, epochs := [],
    ests := [], started := false, ran := false, ended := false, late := false, code := 0, result := [], effects := [], tiles := [],
    reachedAt := 0, planes := [], stored := [], guard := { nonfinite := false, held := false, tapSq := 0, tapN := 0 }, voted := none }

/-- A module of 1,024 cores on which one command has been reached. -/
def reached (e : WakeEntry) : State :=
  { State.reset with seqs := [(e.cmd.queue / 64, { SeqSt.zero with nextWake := 1, wake := [e] })], cap := { CapSt.zero with activeCores := 1024 } }

/-- The same, by its command. -/
def cmdS (op : Nat) (params : List Byte) : State := reached (entryOf (cmdOf op 0 5 params))

/-- An instruction word of R172. -/
def vword (op ty vd va vb vc sa imm : Nat) : W64 :=
  BitVec.ofNat 64 (op + 2 ^ 8 * ty + 2 ^ 17 * vd + 2 ^ 22 * va + 2 ^ 27 * vb + 2 ^ 32 * vc + 2 ^ 37 * sa + 2 ^ 48 * imm)

/-- Core 0 runs a program of the word and a VNOP, with the given registers. -/
def vecS (w : W64) (v : Tbl (BitVec 2048)) (sc : Tbl W64) (m : Tbl W64) : State :=
  { cmdS 0x2000 [] with cores := [(0, { CoreSt.zero with vec := { VecSt.zero with running := true, prog := [w, 0], queue := 0, seq := 5, v := v, s := sc, m := m } })] }

/-- A register with the same binary32 or I32 in every lane. -/
def lanes (x : Nat) : BitVec 2048 := vPack 0 (List.replicate 64 x)

/-- The first element of a register of core 0 after a command. -/
def elem0 (c : Instr) (s : State) (ty r : Nat) : Nat := (after c s).elem 0 ty r 0

/-- The engine of core 0 after a command. -/
def vec0 (c : Instr) (s : State) : VecSt := ((after c s).core 0).vec

/-! ### The vector engine: expected values from R172 to R191 by hand -/

theorem test_word_vfma : vword 0x04 0 5 1 2 3 0 0 = 0x00000003104A0004 := by decide +kernel

theorem test_word_vexp2 : (vMen 0x000000000108A00E, vMsel 0x000000000108A00E, vVd 0x000000000108A00E, vVa 0x000000000108A00E) = (true, 2, 4, 4) := by
  decide +kernel

/-- v1 = 1.0, v2 = 2.0, v3 = 3.0, v4 = 7 as I32, v5 = −5 as I32; s1 = 6, s2 = 4. -/
def vregs : Tbl (BitVec 2048) := [(1, lanes 0x3F800000), (2, lanes 0x40000000), (3, lanes 0x40400000), (4, lanes 7), (5, lanes 0xFFFFFFFB)]

/-- The state that runs the word over those registers. -/
def vs (w : W64) : State := vecS w vregs [(1, 6), (2, 4)] []

theorem test_vnop : (vec0 (.vnop 0 0 0) (vs 0)).pc = 1 := by decide +kernel
theorem test_vadd : elem0 (.vadd 0 (vword 0x01 0 6 1 2 0 0 0) 0) (vs (vword 0x01 0 6 1 2 0 0 0)) 0 6 = 0x40400000 := by decide +kernel
theorem test_vsub : elem0 (.vsub 0 (vword 0x02 0 6 1 2 0 0 0) 0) (vs (vword 0x02 0 6 1 2 0 0 0)) 0 6 = 0xBF800000 := by decide +kernel
theorem test_vmul : elem0 (.vmul 0 (vword 0x03 0 6 2 3 0 0 0) 0) (vs (vword 0x03 0 6 2 3 0 0 0)) 0 6 = 0x40C00000 := by decide +kernel
theorem test_vfma : elem0 (.vfma 0 (vword 0x04 0 1 1 2 3 0 0) 0) (vs (vword 0x04 0 1 1 2 3 0 0)) 0 1 = 0x40A00000 := by decide +kernel
theorem test_vfnma : elem0 (.vfnma 0 (vword 0x05 0 6 1 2 3 0 0) 0) (vs (vword 0x05 0 6 1 2 3 0 0)) 0 6 = 0x3F800000 := by decide +kernel
theorem test_vmin : elem0 (.vmin 0 (vword 0x06 0 6 2 1 0 0 0) 0) (vs (vword 0x06 0 6 2 1 0 0 0)) 0 6 = 0x3F800000 := by decide +kernel
theorem test_vmax : elem0 (.vmax 0 (vword 0x07 0 6 2 1 0 0 0) 0) (vs (vword 0x07 0 6 2 1 0 0 0)) 0 6 = 0x40000000 := by decide +kernel
theorem test_vabs : elem0 (.vabs 0 (vword 0x08 3 6 5 0 0 0 0) 0) (vs (vword 0x08 3 6 5 0 0 0 0)) 3 6 = 5 := by decide +kernel
theorem test_vneg : elem0 (.vneg 0 (vword 0x09 0 6 1 0 0 0 0) 0) (vs (vword 0x09 0 6 1 0 0 0 0)) 0 6 = 0xBF800000 := by decide +kernel
theorem test_vdiv : elem0 (.vdiv 0 (vword 0x0A 0 6 1 2 0 0 0) 0) (vs (vword 0x0A 0 6 1 2 0 0 0)) 0 6 = 0x3F000000 := by decide +kernel
theorem test_vsqrt : elem0 (.vsqrt 0 (vword 0x0B 0 6 1 0 0 0 0) 0) (vs (vword 0x0B 0 6 1 0 0 0 0)) 0 6 = 0x3F800000 := by decide +kernel
theorem test_vrcp : elem0 (.vrcp 0 (vword 0x0C 0 6 2 0 0 0 0) 0) (vs (vword 0x0C 0 6 2 0 0 0 0)) 0 6 = 0x3F000000 := by decide +kernel
theorem test_vrsqrt : elem0 (.vrsqrt 0 (vword 0x0D 0 6 1 0 0 0 0) 0) (vs (vword 0x0D 0 6 1 0 0 0 0)) 0 6 = 0x3F800000 := by decide +kernel
theorem test_vexp2 : elem0 (.vexp2 0 (vword 0x0E 0 6 3 0 0 0 0) 0) (vs (vword 0x0E 0 6 3 0 0 0 0)) 0 6 = 0x41000000 := by decide +kernel
theorem test_vlog2 : elem0 (.vlog2 0 (vword 0x0F 0 6 2 0 0 0 0) 0) (vs (vword 0x0F 0 6 2 0 0 0 0)) 0 6 = 0x3F800000 := by decide +kernel
theorem test_vcvt : elem0 (.vcvt 0 (vword 0x10 0 6 3 0 0 0 0) 0) (vs (vword 0x10 0 6 3 0 0 0 0)) 3 6 = 3 := by decide +kernel
theorem test_vcmp : (vec0 (.vcmp 0 (vword 0x11 0 1 1 2 0 0 2) 0) (vs (vword 0x11 0 1 1 2 0 0 2))).mask 1 = BitVec.allOnes 64 := by decide +kernel
theorem test_vsel : elem0 (.vsel 0 (vword 0x12 0 6 1 2 0 0 0) 0) (vs (vword 0x12 0 6 1 2 0 0 0)) 0 6 = 0x40000000 := by decide +kernel
theorem test_vand : elem0 (.vand 0 (vword 0x13 3 6 4 5 0 0 0) 0) (vs (vword 0x13 3 6 4 5 0 0 0)) 0 6 = 3 := by decide +kernel
theorem test_vor : elem0 (.vor 0 (vword 0x14 3 6 4 5 0 0 0) 0) (vs (vword 0x14 3 6 4 5 0 0 0)) 0 6 = 0xFFFFFFFF := by decide +kernel
theorem test_vxor : elem0 (.vxor 0 (vword 0x15 3 6 4 5 0 0 0) 0) (vs (vword 0x15 3 6 4 5 0 0 0)) 0 6 = 0xFFFFFFFC := by decide +kernel
theorem test_vshl : elem0 (.vshl 0 (vword 0x16 3 6 5 4 0 0 0) 0) (vs (vword 0x16 3 6 5 4 0 0 0)) 0 6 = 0xFFFFFD80 := by decide +kernel
theorem test_vshr : elem0 (.vshr 0 (vword 0x17 3 6 5 4 0 0 0) 0) (vs (vword 0x17 3 6 5 4 0 0 0)) 0 6 = 0x01FFFFFF := by decide +kernel
theorem test_vsra : elem0 (.vsra 0 (vword 0x18 3 6 5 4 0 0 0) 0) (vs (vword 0x18 3 6 5 4 0 0 0)) 0 6 = 0xFFFFFFFF := by decide +kernel
theorem test_viadd : elem0 (.viadd 0 (vword 0x19 3 6 4 5 0 0 0) 0) (vs (vword 0x19 3 6 4 5 0 0 0)) 0 6 = 2 := by decide +kernel
theorem test_visub : elem0 (.visub 0 (vword 0x1A 3 6 5 4 0 0 0) 0) (vs (vword 0x1A 3 6 5 4 0 0 0)) 0 6 = 0xFFFFFFF4 := by decide +kernel
theorem test_vimul : elem0 (.vimul 0 (vword 0x1B 3 6 4 5 0 0 0) 0) (vs (vword 0x1B 3 6 4 5 0 0 0)) 0 6 = 0xFFFFFFDD := by decide +kernel
theorem test_vmov : elem0 (.vmov 0 (vword 0x20 0 6 3 0 0 0 0) 0) (vs (vword 0x20 0 6 3 0 0 0 0)) 0 6 = 0x40400000 := by decide +kernel
theorem test_vbcast : elem0 (.vbcast 0 (vword 0x21 0 6 0 0 0 1 0) 0) (vs (vword 0x21 0 6 0 0 0 1 0)) 0 6 = 6 := by decide +kernel
theorem test_vidx : (after (.vidx 0 (vword 0x22 3 6 0 0 0 0 0) 0) (vs (vword 0x22 3 6 0 0 0 0 0))).elem 0 0 6 63 = 63 := by decide +kernel
theorem test_vperm : elem0 (.vperm 0 (vword 0x23 0 6 3 4 0 0 0) 0) (vs (vword 0x23 0 6 3 4 0 0 0)) 0 6 = 0x40400000 := by decide +kernel
theorem test_vslide : (after (.vslide 0 (vword 0x24 0 6 3 0 0 0 1) 0) (vs (vword 0x24 0 6 3 0 0 0 1))).elem 0 0 6 63 = 0 := by decide +kernel
theorem test_vhsum : elem0 (.vhsum 0 (vword 0x28 0 6 1 0 0 0 3) 0) (vs (vword 0x28 0 6 1 0 0 0 3)) 0 6 = 0x42800000 := by decide +kernel
theorem test_vhmax : elem0 (.vhmax 0 (vword 0x29 0 6 2 0 0 0 0) 0) (vs (vword 0x29 0 6 2 0 0 0 0)) 0 6 = 0x40000000 := by decide +kernel
theorem test_mlogic : (vec0 (.mlogic 0 (vword 0x2C 0 2 0 1 0 0 1) 0) (vecS (vword 0x2C 0 2 0 1 0 0 1) [] [] [(0, 5), (1, 3)])).mask 2 = 7 := by decide +kernel
theorem test_mfirst : (vec0 (.mfirst 0 (vword 0x2D 0 2 0 0 0 1 0) 0) (vs (vword 0x2D 0 2 0 0 0 1 0))).mask 2 = 63 := by decide +kernel
theorem test_racc_rclr : ((vec0 (.rclr 0 (vword 0x42 0 0 0 0 0 0 1)) (vs (vword 0x42 0 0 0 0 0 0 1))).racc 1).mx = 0xFFF0000000000000 := by decide +kernel
theorem test_racc : ((vec0 (.racc 0 (vword 0x40 0 0 2 0 0 0 1)) (vs (vword 0x40 0 0 2 0 0 0 1))).racc 1).n = 64 := by decide +kernel
theorem test_rget : (vec0 (.rget 0 (vword 0x41 0 1 0 0 0 0 0x10)) (vs (vword 0x41 0 1 0 0 0 0 0x10))).sreg 1 = 0xFFF0000000000000 := by decide +kernel
theorem test_sli : (vec0 (.sli 0 (vword 0x50 0 3 0 0 0 0 0x8000)) (vs (vword 0x50 0 3 0 0 0 0 0x8000))).sreg 3 = 0xFFFFFFFFFFFF8000 := by decide +kernel
theorem test_slih : (vec0 (.slih 0 (vword 0x51 0 1 0 0 0 0 0x1234)) (vs (vword 0x51 0 1 0 0 0 0 0x1234))).sreg 1 = 0x61234 := by decide +kernel
theorem test_sadd : (vec0 (.sadd 0 (vword 0x52 0 3 0 2 0 1 0)) (vs (vword 0x52 0 3 0 2 0 1 0))).sreg 3 = 10 := by decide +kernel
theorem test_saddi : (vec0 (.saddi 0 (vword 0x53 0 3 0 0 0 1 0xFFFF)) (vs (vword 0x53 0 3 0 0 0 1 0xFFFF))).sreg 3 = 5 := by decide +kernel
theorem test_ssub : (vec0 (.ssub 0 (vword 0x54 0 3 0 1 0 2 0)) (vs (vword 0x54 0 3 0 1 0 2 0))).sreg 3 = 0xFFFFFFFFFFFFFFFE := by decide +kernel
theorem test_smul : (vec0 (.smul 0 (vword 0x55 0 3 0 2 0 1 0)) (vs (vword 0x55 0 3 0 2 0 1 0))).sreg 3 = 24 := by decide +kernel
theorem test_sshli : (vec0 (.sshli 0 (vword 0x56 0 3 0 0 0 1 4)) (vs (vword 0x56 0 3 0 0 0 1 4))).sreg 3 = 96 := by decide +kernel
theorem test_sshri : (vec0 (.sshri 0 (vword 0x57 0 3 0 0 0 1 1)) (vs (vword 0x57 0 3 0 0 0 1 1))).sreg 3 = 3 := by decide +kernel
theorem test_sand : (vec0 (.sand 0 (vword 0x58 0 3 0 2 0 1 0)) (vs (vword 0x58 0 3 0 2 0 1 0))).sreg 3 = 4 := by decide +kernel
theorem test_slt : (vec0 (.slt 0 (vword 0x59 0 3 0 1 0 2 0)) (vs (vword 0x59 0 3 0 1 0 2 0))).sreg 3 = 1 := by decide +kernel
theorem test_seq : (vec0 (.seqEq 0 (vword 0x5A 0 3 0 1 0 2 0)) (vs (vword 0x5A 0 3 0 1 0 2 0))).sreg 3 = 0 := by decide +kernel
theorem test_smovv : (vec0 (.smovv 0 (vword 0x5B 0 3 3 0 0 0 63)) (vs (vword 0x5B 0 3 3 0 0 0 63))).sreg 3 = 0x40400000 := by decide +kernel
theorem test_s0_reads_zero : (vec0 (.sadd 0 (vword 0x52 0 0 0 2 0 1 0)) (vs (vword 0x52 0 0 0 2 0 1 0))).sreg 0 = 0 := by decide +kernel
theorem test_bnz : (vec0 (.bnz 0 (vword 0x60 0 0 0 0 0 1 0xFFFF)) (vs (vword 0x60 0 0 0 0 0 1 0xFFFF))).running = false := by decide +kernel
theorem test_bz : (vec0 (.bz 0 (vword 0x61 0 0 0 0 0 1 0xFFFF)) (vs (vword 0x61 0 0 0 0 0 1 0xFFFF))).pc = 1 := by decide +kernel
theorem test_vend : (vec0 (.vend 0 (vword 0x62 0 0 0 0 0 0 0)) (vs (vword 0x62 0 0 0 0 0 0 0))).running = false := by decide +kernel
theorem test_sflags : (vec0 (.sflags 0 (vword 0x63 0 3 0 0 0 0 0)) (vs (vword 0x63 0 3 0 0 0 0 0))).sreg 3 = 0 := by decide +kernel
theorem test_vec_illegal : (vec0 (.vecIllegal 0 0xFF) (vs 0xFF)).illegal = 1 := by decide +kernel
theorem test_slpop_at_end : elem0 (.slpop 0 (vword 0x38 0 1 0 0 0 0 0)) (vs (vword 0x38 0 1 0 0 0 0 0)) 0 1 = 0 := by decide +kernel
theorem test_slinfo_at_end : (vec0 (.slinfo 0 (vword 0x39 0 3 0 0 0 0 0)) (vs (vword 0x39 0 3 0 0 0 0 0))).sreg 3 = BitVec.allOnes 64 := by decide +kernel

/-! ### States that meet the hypotheses of the statements: the machine and the vector engine -/

theorem witness_EveryCommandCompletes : exec .droopRelease State.reset = .next (after .droopRelease State.reset) := rfl

theorem witness_IdleStep_ledger_off : State.reset.pending = [] ∧ State.reset.jui.running = false := by decide

/-- The ledger runs, the tide one nanosecond short of the last of its period. -/
def ticking (ph : Nat) : State := { State.reset with jui := { JuiSt.zero with running := true }, tide := { TideSt.zero with phaseNs := ph } }

theorem witness_IdleStep_ledger_on : (ticking 99998).pending = [] ∧ (ticking 99998).jui.running = true ∧
    (ticking 99998).tide.phaseNs + 1 < (ticking 99998).tide.periodUs * 1000 := by decide

theorem reset_canonical : State.reset.canonical := ⟨by decide, .nil⟩

theorem reset_weirsOk : State.reset.weirsOk := fun _ => ⟨⟨.inr ⟨rfl, rfl⟩, Nat.zero_lt_succ _⟩, ⟨.inr ⟨rfl, rfl⟩, Nat.zero_lt_succ _⟩⟩

theorem reset_tablesOk : State.reset.tablesOk := by refine ⟨?_, ?_, ?_⟩ <;> decide

theorem witness_StepKeepsCanonical : State.reset.canonical ∧ step State.reset = .next State.reset.tick := ⟨reset_canonical, rfl⟩

theorem witness_StepKeepsWeirs : State.reset.weirsOk ∧ step State.reset = .next State.reset.tick := ⟨reset_weirsOk, rfl⟩

theorem witness_StepKeepsTables : State.reset.tablesOk ∧ step State.reset = .next State.reset.tick := ⟨reset_tablesOk, rfl⟩

/-- The entry of the program that core 0 runs in `vecS`. -/
def vecE : WakeEntry := entryOf (cmdOf 0x2000 0 5 [])

/-- Does the next instruction of core 0 issue, with this operation, for the command of `vecE`. -/
def issuesB (s : State) (w : W64) (op : Nat) : Bool :=
  decide (s.vecReady 0 w op = some vecE) && !s.vecWaits 0 w && decide ((s.core 0).vec.pc + 1 < (s.core 0).vec.prog.length)

theorem issues_of_issuesB {s : State} {w : W64} {op : Nat} (h : issuesB s w op = true) :
    s.issues 0 w op ∧ s.vecReady 0 w op = some vecE := by
  simp only [issuesB, Bool.and_eq_true, decide_eq_true_eq, Bool.not_eq_true'] at h
  exact ⟨⟨⟨_, h.1.1⟩, h.1.2, h.2⟩, h.1.1⟩

/-- Every listed operation and TYPE issues on `vs` under the word with these operand fields. -/
def allIssue (l : List (Nat × Nat)) (imm : Nat) : Bool :=
  l.all (fun x => issuesB (vs (vword x.1 x.2 6 1 2 3 1 imm)) (vword x.1 x.2 6 1 2 3 1 imm) x.1)

theorem witness_residue_checked (w : W64) : (vs w).residueOk 0 2 := .inr (by decide)

theorem witness_residue_off (w : W64) :
    State.residueOk { vs w with cores := [(0, { CoreSt.zero with vec := { VecSt.zero with residueEn := false } })] } 0 9 := .inl (by rfl)

theorem witness_LaneOperations : allIssue [(0x13, 3), (0x14, 0), (0x15, 1), (0x16, 2), (0x17, 3), (0x18, 3), (0x19, 3), (0x1A, 3), (0x1B, 3), (0x20, 0),
    (0x21, 0), (0x21, 2), (0x22, 3), (0x23, 0), (0x24, 0), (0x12, 0), (0x12, 2)] 63 = true := by decide +kernel

theorem witness_VectorArithmetic : allIssue [(1, 0), (2, 1), (3, 2), (4, 0), (5, 0), (6, 0), (7, 1), (8, 0), (9, 2), (0xA, 2), (0xB, 0), (0xC, 0), (0xD, 0),
    (0xE, 0), (0xF, 0)] 0 = true := by decide +kernel

theorem witness_VectorConversion : (List.range 8).all (fun k => allIssue [(0x10, 0)] k) && allIssue [(0x10, 0)] 15 && allIssue [(8, 3), (9, 3)] 0 = true := by
  decide +kernel

theorem witness_MaskResults : (List.range 8).all (fun k => allIssue [(0x11, 0), (0x11, 2), (0x11, 3), (0x2C, 0), (0x2D, 0)] k) = true := by decide +kernel

theorem witness_HorizontalOperations : (List.range 4).all (fun k => allIssue [(0x28, 0), (0x28, 2), (0x29, 0), (0x29, 2)] k) = true := by decide +kernel

theorem witness_NothingButAnIssue_vnop : allIssue [(0, 0)] 0 = true := by decide +kernel

/-- A program whose command has a limit of 1,024 instructions, `n` of them retired. -/
def limited (w : W64) (n : Nat) : State :=
  { reached (entryOf (cmdOf 0x2000 0 5 (List.replicate 12 0 ++ [1]))) with
    cores := [(0, { CoreSt.zero with vec := { VecSt.zero with running := true, prog := [w, 0], queue := 0, seq := 5, retired := n } })] }

theorem witness_NothingButAnIssue_illegal : ((limited 0xFF 1023).core 0).vec.running = true ∧ ((limited 0xFF 1023).core 0).vec.prog[0]? = some 0xFF ∧
    vLegal (vOp 0xFF) (vType 0xFF) = false ∧ ((limited 0xFF 1023).core 0).vec.pc + 1 < ((limited 0xFF 1023).core 0).vec.prog.length ∧
    ((limited 0xFF 1023).entry 0 5).map (fun e => e.cmd.insnLimit) = some 1024 := by decide +kernel

theorem witness_NothingButAnIssue_no_limit : ((vs 0xFF).entry 0 5).map (fun e => e.cmd.insnLimit) = some 0 := by decide +kernel

/-- Core 0 with load data for v1 under way. -/
def loading (w : W64) : State :=
  { cmdS 0x2000 [] with cores := [(0, { CoreSt.zero with vec := { VecSt.zero with running := true, prog := [w, 0], queue := 0, seq := 5, loads := [(1, 9, 0)] } })] }

theorem witness_Waits : (loading (vword 1 0 6 1 2 0 0 0)).vecReady 0 (vword 1 0 6 1 2 0 0 0) 1 = some vecE ∧
    (loading (vword 1 0 6 1 2 0 0 0)).vecWaits 0 (vword 1 0 6 1 2 0 0 0) = true ∧
    (loading (vword 0x5B 0 6 1 2 0 0 0)).vecReady 0 (vword 0x5B 0 6 1 2 0 0 0) 0x5B = some vecE ∧
    (loading (vword 0x5B 0 6 1 2 0 0 0)).vecWaits 0 (vword 0x5B 0 6 1 2 0 0 0) = true := by decide +kernel

theorem witness_ResidueFailures : issuesB (vs (vword 1 0 6 1 2 0 0 0)) (vword 1 0 6 1 2 0 0 0) 1 = true ∧
    ((vs (vword 1 0 6 1 2 0 0 0)).core 0).vec.residueEn = true ∧ 3 ≤ 3 := by decide +kernel

theorem test_residue_fails : (vec0 (.vadd 0 (vword 1 0 6 1 2 0 0 0) 3) (vs (vword 1 0 6 1 2 0 0 0))).reissue = 2 := by decide +kernel

theorem test_load_wait : (vec0 (.vadd 0 (vword 1 0 6 1 2 0 0 0) 0) (loading (vword 1 0 6 1 2 0 0 0))).stallMem = 1 := by decide +kernel

theorem witness_VectorLoads : allIssue [(0x30, 0), (0x30, 1), (0x30, 3), (0x32, 0)] 3 = true ∧ ((loading 0).core 0).vec.loads = (1, 9, 0) :: [] := by
  decide +kernel

theorem test_vload_return : (vec0 (.vloadReturn 0 1) (loading 0)).vreg 1 = 9 := by decide +kernel

theorem test_vld_null : (vec0 (.vld 0 (vword 0x30 0 1 0 0 0 0 0)) (vs (vword 0x30 0 1 0 0 0 0 0))).loads = [(1, 0, 0)] := by decide +kernel

theorem test_vgather_null : (vec0 (.vgather 0 (vword 0x32 0 1 0 4 0 0 0)) (vs (vword 0x32 0 1 0 4 0 0 0))).loads = [(1, 0, 0)] := by decide +kernel

theorem witness_VectorStores : allIssue [(0x31, 0), (0x31, 2), (0x33, 0)] 0 = true := by decide +kernel

theorem test_vst_null : (vec0 (.vst 0 (vword 0x31 0 0 1 0 0 0 0)) (vs (vword 0x31 0 0 1 0 0 0 0))).pc = 1 := by decide +kernel

theorem test_vscatter_null : (vec0 (.vscatter 0 (vword 0x33 0 0 1 4 0 0 0)) (vs (vword 0x33 0 0 1 4 0 0 0))).pc = 1 := by decide +kernel

/-- A sluice slot of two rows. -/
def slot2 : SluiceSlot := { slot := 0, tile := 3, index := 0, cols := 32, pops := 0, rows := [List.replicate 32 5, List.replicate 32 6], marks := [], filledNs := 0 }

/-- Core 0 with that slot in its sluice or none, and `left` tiles to come. -/
def sluice (w : W64) (full : Bool) (left : Nat) : State :=
  { cmdS 0x2000 [] with nowNs := 1, cores := [(0, { CoreSt.zero with vec := { VecSt.zero with running := true, prog := [w, 0], queue := 0, seq := 5 }, slc := { SlcSt.zero with tilesLeft := left, slots := if full then [slot2] else [] } })] }

theorem witness_Sluice : [(0x38, true, 0), (0x38, false, 0), (0x39, true, 0), (0x39, false, 0), (0x38, false, 1)].all (fun x =>
    issuesB (sluice (vword x.1 0 6 0 0 0 0 0) x.2.1 x.2.2) (vword x.1 0 6 0 0 0 0 0) x.1 &&
    (((sluice (vword x.1 0 6 0 0 0 0 0) x.2.1 x.2.2).core 0).slc.slots.isEmpty == !x.2.1)) = true ∧ ((sluice 0 true 0).core 0).bsn.drain = [] ∧ slot2.filledNs < (sluice 0 true 0).nowNs ∧
    issuesB { sluice (vword 0x38 0 6 0 0 0 0 0) true 0 with nowNs := 0 } (vword 0x38 0 6 0 0 0 0 0) 0x38 = true ∧ 0 ≤ slot2.filledNs := by decide +kernel

theorem test_slpop : (after (.slpop 0 (vword 0x38 0 6 0 0 0 0 0)) (sluice (vword 0x38 0 6 0 0 0 0 0) true 0)).elem 0 0 6 32 = 6 := by decide +kernel

theorem test_slinfo : (vec0 (.slinfo 0 (vword 0x39 0 6 0 0 0 0 0)) (sluice (vword 0x39 0 6 0 0 0 0 0) true 0)).sreg 6 = 0x0008020000000003 := by decide +kernel

theorem witness_ReductionUnit : (List.range 8).all (fun k => allIssue [(0x42, 0), (0x40, 0), (0x40, 2), (0x41, 0), (0x43, 0)] (k + 8 * k)) = true := by decide +kernel

theorem test_rnorm_null : (vec0 (.rnorm 0 (vword 0x43 0 0 0 0 0 0 0)) (vs (vword 0x43 0 0 0 0 0 0 0))).pc = 1 := by decide +kernel

theorem witness_ScalarOperations : allIssue [(0x50, 0), (0x51, 0), (0x52, 0), (0x53, 0), (0x54, 0), (0x55, 0), (0x56, 0), (0x57, 0), (0x58, 0), (0x59, 0),
    (0x5A, 0), (0x5B, 0), (0x5B, 2), (0x63, 0)] 63 = true := by decide +kernel

/-- Core 0 at the first of two instructions, the word `w`, with s1 = `x`. -/
def branchS (w : W64) (x : W64) : State := vecS w [] (if x = 0 then [] else [(1, x)]) []

theorem witness_Branches : [(0x60, (6 : W64)), (0x60, 0), (0x61, 6), (0x61, 0)].all (fun y => [1, 2, 0xFFFF, 0].all (fun imm =>
    decide ((branchS (vword y.1 0 0 0 0 0 1 imm) y.2).vecReady 0 (vword y.1 0 0 0 0 0 1 imm) y.1 = some vecE))) = true ∧
    ((branchS 0 0).core 0).vec.prog.length = 2 ∧ ((branchS 0 0).core 0).vec.sharesLeft = [] ∧
    (branchS (vword 0x62 0 0 0 0 0 0 0) 0).vecReady 0 (vword 0x62 0 0 0 0 0 0 0) 0x62 = some vecE := by decide +kernel

theorem witness_InsnLimit : ((limited 0 1024).core 0).vec.running = true ∧
    ((limited 0 1024).entry 0 5).map (fun e => decide (e.cmd.insnLimit ≠ 0) && decide (e.cmd.insnLimit ≤ ((limited 0 1024).core 0).vec.retired)) = some true ∧
    ((limited 0 1024).core 0).vec.sharesLeft = [] := by decide +kernel

theorem test_insn_limit : (vec0 (.insnLimitHit 0) (limited 0 1024)).limitHit = 1 := by decide +kernel

/-- A VPROG of two instructions for the two last cores of the first cluster. -/
def progE : WakeEntry := entryOf { cmdOf 0x2000 0 5 [] with prog := [0, 0x62], coreFirst := 14, coreCount := 2 }

theorem witness_VectorProgramStart : (reached progE).ready 0 5 0x2000 = some progE ∧ progE.cmd.prog ≠ [] ∧ 0 < progE.cmd.coreCount ∧
    ∀ i, i < progE.cmd.coreCount → (reached progE).servedCore (progE.cmd.firstCore + i) = true := by decide +kernel

theorem test_vprog : (((after (.vprog 0 5) (reached progE)).core 15).vec.running, ((after (.vprog 0 5) (reached progE)).core 15).vec.sreg 1) = (true, 1) := by
  decide +kernel

/-! ### The sequencers and the commands on tensors -/

/-- A command answers a next state in which `p` holds. -/
def gives (c : Instr) (s : State) (p : State → Bool) : Bool :=
  match exec c s with
  | .next t => p t
  | _ => false

/-- A reached command of opcode `op` with parameters, on the given weirs. -/
def weirS (op : Nat) (params : List Byte) (w : Tbl Weir) : State := { cmdS op params with weirs := w }

theorem witness_WeirArrivals : [[], [(7, { Weir.zero with target := 1 })], [(7, { Weir.zero with target := 2 })], [(7, { Weir.zero with target := 0xFFFF, arrived := 0xFFFE, gen := 0xFFFF })]].all (fun w =>
    ((weirS 3 [7, 0] w).ready 0 5 3).isSome && ((weirS 2 [7, 0, 0, 0] w).ready 0 5 2).isSome && ((weirS 2 [7, 0, 0xFF, 0xFF] w).ready 0 5 2).isSome &&
    (weirS 3 [7, 0] w).servedCore 1023) = true := by decide +kernel

theorem test_weir_opens : gives (.weirArrive 0 5) (weirS 3 [7, 0] [(7, { Weir.zero with target := 0xFFFF, arrived := 0xFFFE, gen := 0xFFFF })])
    (fun t => t.weir 7 == { Weir.zero with target := 0xFFFF }) = true := by decide +kernel

theorem test_weir_arm : gives (.weirArm 0 5) (weirS 2 [7, 0, 2, 0] [(7, { target := 9, arrived := 5, gen := 1 })])
    (fun t => t.weir 7 == { target := 2, arrived := 1, gen := 3 }) = true := by decide +kernel

theorem test_weir_arrive_write : gives (.weirArriveWrite 1023 7) (weirS 3 [7, 0] []) (fun t => t.weir 7 == { Weir.zero with gen := 1 }) = true := by decide +kernel

theorem test_weir_arm_write : gives (.weirArmWrite 0 0x20007) (weirS 3 [7, 0] []) (fun t => t.weir 7 == { Weir.zero with target := 2 }) = true := by decide +kernel

/-- A module in whose cycle weir 7 has been armed by queue 64 and has had an arrival. -/
def cycleS : State :=
  { weirS 2 [7, 0, 2, 0] [(7, { target := 3, arrived := 1, gen := 0 })] with weirOps := [(7, { at' := 1, was := .zero, arms := [(64, 3)], arrivals := 1 })] }

theorem witness_CommandsWithoutWork_cycle : (tget WeirOps.zero cycleS.weirOps 7).at' = cycleS.nowNs + 1 ∧ (cycleS.ready 0 5 2).isSome = true ∧
    cycleS.servedCore 5 = true := by decide +kernel

theorem test_weir_arm_after : gives (.weirArm 0 5) cycleS (fun t => t.weir 7 == { target := 3, arrived := 1, gen := 0 }) = true := by decide +kernel

theorem witness_CommandsWithoutWork : [0, 1, 4, 5].all (fun op => ((cmdS op []).ready 0 5 op).isSome) = true := by decide +kernel

theorem test_nop_done : gives (.nop 0 5) (cmdS 0 []) (fun t => (t.entry 0 5).map (fun e => (e.ran, e.code, e.result)) == some (true, 0, [])) = true := by decide +kernel

theorem test_fence_done : gives (.fence 0 5) (cmdS 1 []) (fun t => (t.entry 0 5).map (fun e => (e.ran, e.code)) == some (true, 0)) = true := by decide +kernel

/-- A module ready for frames; queue `q` has the ring entry of its first SEQ. -/
def framed (q : Nat) : State :=
  { State.reset with boot := { BootSt.zero with ready := true }, cap := { CapSt.zero with activeCores := 2048 }, queues := [(q, { QueueSt.zero with arrived := [(0, 0)] })] }

theorem witness_FrameDecoding : [0, 63, 64, 255].all (fun q => let s := framed q
    decide (s.partCores (q / 64) ≠ 0) && !s.partHeld (q / 64) && (s.queue q).arrived.contains (0, 0) && decide ((s.queue q).expected = 0) &&
    decide (s.peekWord (ringEntry q 0 + 0x78) 8 = 0) && decide ((s.queue q).decoded.length < (s.seqr (q / 64)).depthEff) && decide (s.partDecoded (q / 64) < 1024)) = true := by
  decide +kernel

theorem test_frame_decode : gives (.frameDecode 255) (framed 255)
    (fun t => ((t.queue 255).decoded.map (fun c => (c.queue, c.seq, c.opcode)), (t.queue 255).expected) == ([(255, 0, 0)], 1)) = true := by decide +kernel

/-- The same module with a decoded command. -/
def decodedS (c : Cmd) : State := { framed 0 with queues := [(c.queue, { QueueSt.zero with expected := c.seq + 1, decoded := [c] })] }

theorem witness_CommandReach : [0x1000, 0x2000, 0x3001, 0x5000, 0x6001, 0].all (fun op => (decodedS (cmdOf op 200 9 [])).canReach (cmdOf op 200 9 [])) = true := by
  decide +kernel

/-- Queues 200 and 201 each with a NOP, the turn at 201. -/
def twoReady : State :=
  { framed 0 with queues := [(200, { QueueSt.zero with expected := 10, decoded := [cmdOf 0 200 9 []] }), (201, { QueueSt.zero with expected := 10, decoded := [cmdOf 0 201 9 []] })],
                  seqs := [(3, { SeqSt.zero with turn := 9 })] }

theorem witness_CommandReach_turn : twoReady.canReach (cmdOf 0 200 9 []) = true ∧ twoReady.hasTurn 200 = false ∧ twoReady.hasTurn 201 = true ∧
    (decodedS (cmdOf 0 200 9 [])).hasTurn 200 = true := by decide +kernel

theorem test_reach_turn : gives (.commandReach 201) twoReady (fun t => ((t.queue 201).reached, (t.seqr 3).turn, t.hasTurn 200) == (10, 10, true)) = true := by decide +kernel

theorem test_reach_holds_cores : gives (.commandReach 200) (decodedS { cmdOf 0x1000 200 9 [] with coreFirst := 511 })
    (fun t => ((t.core 2047).holder, (t.seqr 3).nextWake, (t.queue 200).reached) == (some (200, 9), 1, 10)) = true := by decide +kernel

theorem test_reach_token : gives (.commandReach 200) (decodedS { cmdOf 0x6001 200 9 [] with tideMark := 77 })
    (fun t => t.train.token == some { queue := 200, seq := 9, reachMark := 0, tideMark := 77, acted := false }) = true := by decide +kernel

/-- A command of queue 0 whose work is done, with a slot of the given tag, its core held. -/
def ranS (op : Nat) (late : Bool) (tag : W64) : State :=
  { reached { entryOf { cmdOf op 0 5 [] with signalEn := true, signalWeir := 4095, resultEn := true, slot := 16383 } with started := true, ran := true, late := late, result := [1, 2], effects := [.sumSq 9 0 (some 5) 2] } with
    slots := [(16383, { Slot.empty with tag := tag, phase := 1 })], cores := [(0, { CoreSt.zero with holder := some (0, 5) })] }

theorem witness_CommandCompletion : [(0x1000, false, slotTag 0 5), (0x1000, true, slotTag 0 5), (0x6001, false, slotTag 0 6)].all (fun x => let s := ranS x.1 x.2.1 x.2.2
    (s.entry 0 5).map (fun e => (e.ran, e.ended)) == some (true, false) && twf CoreSt.zero s.cores && twf SeqSt.zero s.seqs && twf NormRow.zero s.train.rows) = true := by
  decide +kernel

theorem witness_CapsAndTelemetry : [4, 5].all (fun op => let s := ranS op false (slotTag 0 5)
    (s.entry 0 5).map (fun e => (e.ran, e.ended, e.cmd.resultEn)) == some (true, false, true) && twf CoreSt.zero s.cores && twf SeqSt.zero s.seqs &&
    (tget Slot.empty s.slots 16383).phase == 1 && (tget Slot.empty s.slots 16383).tag == slotTag 0 5) = true := by decide +kernel

theorem test_caps : gives (.commandComplete 0 5) { ranS 4 false (slotTag 0 5) with tide := { TideSt.zero with count := 0x1234 } }
    (fun t => let x := (tget Slot.empty t.slots 16383).data; (x.length, fieldAt x 0x48 8) == (256, 0x1234)) = true := by decide +kernel

theorem test_telemetry : gives (.commandComplete 0 5) { ranS 5 false (slotTag 0 5) with tide := { TideSt.zero with count := 0x1234, st := 2 } }
    (fun t => let x := (tget Slot.empty t.slots 16383).data; (fieldAt x 0 2, fieldAt x 2 1, fieldAt x 5 1, fieldAt x 8 8) == (1, 2, 6, 0x1234)) = true := by
  decide +kernel

theorem witness_CompletionVote : ((reached { entryOf (cmdOf 0x5000 0 5 []) with ran := true, voted := some (true, [0]) }).entry 0 5).map
    (fun e => (e.ran, e.ended, e.voted)) = some (true, false, some (true, [0])) := by decide +kernel

theorem test_complete : gives (.commandComplete 0 5) (ranS 0x1000 false (slotTag 0 5))
    (fun t => ((tget Slot.empty t.slots 16383).phase, (tget Slot.empty t.slots 16383).data.take 2, (t.weir 4095).gen, (t.core 0).holder, (t.row 9).tapSq, (t.seqr 0).wake.length)
      == (2, [1, 2], 1, none, 5, 0)) = true := by decide +kernel

theorem test_complete_superseded : gives (.commandComplete 0 5) (ranS 0x1000 true (slotTag 0 6))
    (fun t => (t.est.ctr.slotSuperseded, (t.row 9).tapSq) == (1, 0)) = true := by decide +kernel

theorem witness_TensorCommands : [0x1000, 0x1001, 0x1002, 0x1003, 0x1004, 0x1010, 0x3001, 0x4000, 0x4001, 0x4002].all (fun op => let s := cmdS op []
    (s.ready 0 5 op).isSome && s.rowsIssue && (s.shares (cmdOf op 0 5 [])).all (fun sh => ((s.core sh.2).dma.placeShare 0 5).shareStarts 0 5) && !s.routeWaits (entryOf (cmdOf op 0 5 [])) && s.dlt.busyQueue == none && !s.unitInReset 2 0) = true := by
  decide +kernel

/-- A ROUTE of queue 1 was reached before that of queue 0. -/
def laterRoute : WakeEntry := { entryOf (cmdOf 0x4000 0 5 []) with reachedAt := 9 }

theorem witness_Route_order : ({ reached laterRoute with seqs := [(0, { SeqSt.zero with nextWake := 2, wake := [entryOf (cmdOf 0x4000 1 5 []), laterRoute] })] }).ready 0 5 0x4000 = some laterRoute ∧
    ({ reached laterRoute with seqs := [(0, { SeqSt.zero with nextWake := 2, wake := [entryOf (cmdOf 0x4000 1 5 []), laterRoute] })] }).routeWaits laterRoute = true := by decide +kernel

theorem witness_matrix_waits : ({ State.reset with spw := { SpwSt.zero with lvThermal := 0 } }).spw.level = 0 := by decide

theorem witness_Route_waits : ({ cmdS 0x4000 [] with dlt := { DltSt.zero with busyQueue := some 3 } }).ready 0 5 0x4000 = some (entryOf (cmdOf 0x4000 0 5 [])) := by decide +kernel

theorem test_null_tensors_done : [(0x1000, Instr.gemm 0 5), (0x1001, .gemmFp32x3 0 5), (0x1002, .gemmFp64s 0 5), (0x1003, .gemmHormi 0 5), (0x1004, .gemmRef 0 5),
    (0x1010, .attnBlock 0 5), (0x3001, .copy 0 5), (0x4000, .route 0 5), (0x4001, .dispatch 0 5), (0x4002, .combine 0 5)].all (fun x =>
      gives x.2 (cmdS x.1 []) (fun t => (t.entry 0 5).map (fun e => e.ran) == some true)) = true := by decide +kernel

theorem witness_UpdateEngineCommands : [0x6000, 0x6002, 0x6003, 0x6004].all (fun op => let s := cmdS op []
    (s.ready 0 5 op).isSome && s.engineFree (entryOf (cmdOf op 0 5 []))) = true := by decide +kernel

theorem test_engine_taken : [(0x6000, Instr.update 0 5), (0x6002, .derive 0 5 []), (0x6003, .exportShard 0 5), (0x6004, .snapshot 0 5)].all (fun x =>
      gives x.2 (cmdS x.1 []) (fun t => (t.entry 0 5).map (fun e => e.ran) == some true && (t.upd 0).running == some (0, 5))) = true := by decide +kernel

/-- A COMMIT of the given mode (and local or not) at its mark, over one row. -/
def commitS (mode loc : Byte) (r : NormRow) (v : Option Bool) : State :=
  { cmdS 0x6001 [mode, loc, 1] with
    train := { TrainSt.zero with token := some { queue := 0, seq := 5, reachMark := 0, tideMark := 3, acted := false }, rows := [(4095, r)], vote := v, step := 6 },
    tide := { TideSt.zero with count := 3, rest := true } }

/-- A row an UPDATE has updated. -/
def updatedRow : NormRow := { NormRow.zero with updated := true, tapSq := 4, tapN := 1, wsq := 3, wn := 1 }

theorem witness_CommitStep : [(0, 0, updatedRow, some true), (0, 1, updatedRow, none), (0, 0, updatedRow, some false), (0, 0, updatedRow, none),
    (0, 1, { updatedRow with nonfinite := true }, none), (0, 1, { updatedRow with held := true, holdReason := 1 }, none)].all (fun x => let s := commitS x.1 x.2.1 x.2.2.1 x.2.2.2
    (s.commitNow 0 5 0).isSome && twf CoreSt.zero s.cores && twf SeqSt.zero s.seqs && twf NormRow.zero s.train.rows && s.oxb.pendingReset.isEmpty && s.coll.openColls.isEmpty) = true := by
  decide +kernel

theorem test_commit_passes : gives (.commitStep 0 5) (commitS 0 1 updatedRow none) (fun t =>
    (t.train.step, t.train.lastOutcome, (t.row 4095).epoch, (t.row 4095).stepFlipped, (t.row 4095).wsq, (t.row 4095).updated, (t.entry 0 5).map (fun e => (e.ran, e.code, e.result.length)))
      == (7, 0, true, 7, 0, false, some (true, 0, 2048))) = true := by decide +kernel

theorem test_commit_fails : gives (.commitStep 0 5) (commitS 0 0 updatedRow (some false)) (fun t =>
    (t.train.step, (t.row 4095).epoch, (t.row 4095).wsq, (t.row 4095).tapSq, (t.entry 0 5).map (fun e => (e.ran, e.code))) == (6, false, 3, 0, some (true, 1))) = true := by
  decide +kernel

theorem witness_SetStateAndRestore : ((commitS 1 0 updatedRow none).commitNow 0 5 1).isSome = true ∧ ((commitS 2 0 updatedRow none).commitNow 0 5 2).isSome = true := by
  decide +kernel

theorem test_set_state : gives (.setState 0 5) (commitS 1 0 updatedRow none) (fun t => (t.train.step, t.train.lastOutcome, t.row 4095 == { NormRow.zero with epoch := true })
    == (0, 2, true)) = true := by decide +kernel

theorem test_restore_est : gives (.restoreEst 0 5) (commitS 2 0 { updatedRow with estG := ⟨5, true⟩, peakN := some 3 } none)
    (fun t => ((t.row 4095).estG, (t.row 4095).peakN, (t.row 4095).updated, t.train.step) == (EstEntry.zero, none, true, 6)) = true := by decide +kernel

/-- A BF16 tensor of two rows of `k` elements in slab 0, 4,096 bytes a place. -/
def bf16T (k at' : Nat) : TDesc :=
  { TDesc.null with isNull := false, base := shoalBase + 4096 * at', winEnd := shoalBase + 1024 * slabBytes, rank := 2, dims := [k, 2, 1, 1], strides := [2048, 0, 0] }

/-- A GEMM of two passes over two rows, its share on core 0. -/
def gemmE : WakeEntry := entryOf { cmdOf 0x1000 0 5 [] with tensors := [bf16T 64 0, bf16T 64 1, bf16T 2 2, TDesc.null] }

/-- Its computation. -/
def gemmQ : GemmP := (gemmE.gemmP.map (fun p => p.onCore (reached gemmE) 0)).getD (gemmParams 0 [] [] true).1

/-- Core 0 with a basin. -/
def basinS (b : BsnSt) : State := { reached gemmE with cores := [(0, { CoreSt.zero with bsn := b })] }

/-- An open group of tile 0 in bank 1, slot 0. -/
def groupG (pass row : Nat) : OpenGroup :=
  { bank := 1, queue := 0, seq := 5, tile := 0, pass := pass, row := row, rows := [.clear, .clear], replays := 0, mismatch := false }

theorem witness_BasinSteps : (gemmE.gemmP.isSome, gemmQ.zb, gemmQ.passes, gemmE.basinOpen, gemmQ.tileRows 0, gemmQ.slotOf 0 1) = (true, false, 2, true, 2, 0) := by
  decide +kernel

theorem witness_GroupOpen : [[], [1], [0, 1], [2, 1]].all (fun b => let s := basinS { BsnSt.zero with banks := b ++ (BsnSt.zero.banks.drop b.length) }
    decide (s.entry 0 5 = some gemmE) && s.tileNext gemmE gemmQ 0 0) = true := by decide +kernel

theorem witness_RowLand : [(0, 0), (0, 1), (1, 0), (1, 1)].all (fun x => let s := basinS { BsnSt.zero with groups := [some (groupG x.1 x.2), none, none, none] }
    decide (s.entry 0 5 = some gemmE) && decide (lget none (s.core 0).bsn.groups 0 = some (groupG x.1 x.2))) = true := by decide +kernel

/-- A complete tile waiting for the drain. -/
def drainD : DrainItem := { bank := 1, queue := 0, seq := 5, tile := 0, rows := [.clear, .clear], poisoned := false, started := false, pushed := 0 }

theorem test_group_open : gives (.groupOpen 0 0 0 5 0) (basinS { BsnSt.zero with banks := [1, 0, 0, 0, 0, 0, 0, 0] })
    (fun t => ((t.core 0).bsn.banks.take 3, (t.core 0).mx.busy, lget none (t.core 0).bsn.groups 0) == ([1, 1, 0], true, some (groupG 0 0))) = true := by decide +kernel

theorem test_group_stall : gives (.groupOpen 0 0 0 5 0) (basinS { BsnSt.zero with banks := [2, 1, 0, 0, 0, 0, 0, 0] }) (fun t => (t.core 0).bsn.stallBank == 1) = true := by
  decide +kernel

theorem test_row_land : gives (.rowLand 0 0 false) (basinS { BsnSt.zero with groups := [some (groupG 0 1), none, none, none] })
    (fun t => (lget none (t.core 0).bsn.groups 0).map (fun g => (g.pass, g.row)) == some (1, 0)) = true := by decide +kernel

theorem test_tile_complete : gives (.rowLand 0 0 false) (basinS { BsnSt.zero with groups := [some (groupG 1 1), none, none, none], banks := [0, 1, 0, 0, 0, 0, 0, 0] })
    (fun t => ((t.core 0).bsn.banks.take 2, (t.core 0).bsn.drain.map (fun d => (d.bank, d.tile)), lget none (t.core 0).bsn.groups 0) == ([0, 2], [(1, 0)], none)) = true := by
  decide +kernel

theorem test_drain : gives (.drainStart 0) (basinS { BsnSt.zero with drain := [drainD], banks := [0, 2, 0, 0, 0, 0, 0, 0] })
    (fun t => ((t.core 0).bsn.banks.take 2, (t.core 0).bsn.drain.length, (t.entry 0 5).map (fun e => (e.phase, e.tiles.map (fun y => y.1)))) == ([0, 0], 0, some (1, [0]))) = true := by
  decide +kernel

/-! ### The cache and the DMA engines -/

/-- What the rules of the cache ask of one line in its place. -/
structure LineOk (s : State) (p : Nat) (x : LLine) : Prop where
  place : p < 128 * 1536 * 16
  window : s.cachedAddr (lineAt p x.tag * 128) = true
  dirty : x.dirty &&& ~~~ x.valid = 0
  clean : ∀ i, i < 128 → x.valid.getLsbD i = true → x.dirty.getLsbD i = false → ((x.data >>> (8 * i)).setWidth 8) = s.memByte (lineAt p x.tag * 128 + i)
  prov : x.prov ≠ none → x.dirty = 0
  dead : x.dead = true → x.valid = 0
  alloc : x.alloc = true → x.valid = 0 ∧ x.dead = false

theorem tget_or {α : Type} (d : α) (t : Tbl α) (k : Nat) : tget d t k = d ∨ (k, tget d t k) ∈ t := by
  induction t with
  | nil => exact .inl rfl
  | cons p t ih =>
    obtain ⟨j, a⟩ := p
    by_cases h : k = j
    · subst h; simp [tget]
    · simp only [tget, h, if_false, List.mem_cons]
      exact ih.imp id .inr

/-- A cache whose listed lines are in order, with every slice whole, is as its rules leave it. -/
theorem lines_cacheOk (s : State) (hs : s.llc.slices = []) (hn : s.nearEnd ≤ deepBase) (hd : s.deepEnd ≤ shoalBase) (hb : s.boot.running = false)
    (h : ∀ e ∈ s.llc.lines, LineOk s e.1 e.2)
    (honce : ∀ e ∈ s.llc.lines, ∀ f ∈ s.llc.lines, e.1 / 16 = f.1 / 16 → e.2.tag = f.2.tag → e.1 = f.1) : s.cacheOk := by
  have hz : LLine.zero.resident = false := by decide
  have hline : ∀ k, s.line k = .zero ∨ (k, s.line k) ∈ s.llc.lines := fun k => tget_or _ _ _
  have hres : ∀ k, (s.line k).resident = true → (k, s.line k) ∈ s.llc.lines := by
    intro k hk
    rcases hline k with h0 | h0
    · rw [h0, hz] at hk; exact absurd hk (by decide)
    · exact h0
  have hall : ∀ k, (s.line k) = .zero ∨ LineOk s k (s.line k) := fun k => (hline k).imp id (fun m => h _ m)
  refine ⟨hn, hd, ?_, ?_, ?_, ?_, ?_, ?_, ?_, ?_, ?_, ?_⟩
  · intro x; simp [hb] at x
  · rw [hs]; rfl
  · intro k hk
    refine ⟨(h _ (hres k hk)).place, ?_, ?_⟩
    · simp [State.slice, hs, tget, SliceSt.ways, SliceSt.zero]; decide
    · simp [State.slice, hs, tget, SliceSt.zero, bitOf]
  · intro k hk; exact (h _ (hres k hk)).window
  · intro k j e h1 h2 e'; exact honce _ (hres k h1) _ (hres j h2) e e'
  · intro k
    rcases hall k with h0 | h0
    · rw [h0]; decide
    · exact h0.dirty
  · intro k i hi h1 h2
    rcases hall k with h0 | h0
    · simp [h0, LLine.zero] at h1
    · exact h0.clean i hi h1 h2
  · intro k h1
    rcases hall k with h0 | h0
    · simp [h0, LLine.zero] at h1
    · exact h0.prov h1
  · intro k h1
    rcases hall k with h0 | h0
    · simp [h0, LLine.zero] at h1
    · exact h0.dead h1
  · intro k h1
    rcases hall k with h0 | h0
    · simp [h0, LLine.zero] at h1
    · exact h0.alloc h1

/-- A cache with one line is as its rules leave it. -/
theorem oneLine_cacheOk (s : State) (p : Nat) (x : LLine) (hx : s.llc.lines = [(p, x)]) (hs : s.llc.slices = [])
    (hn : s.nearEnd ≤ deepBase) (hd : s.deepEnd ≤ shoalBase) (hb : s.boot.running = false) (h : LineOk s p x) : s.cacheOk := by
  refine lines_cacheOk s hs hn hd hb ?_ ?_
  · rw [hx]; simpa using h
  · rw [hx]; simp

/-- An empty cache is as its rules leave it. -/
theorem emptyCache_cacheOk (s : State) (hl : s.llc.lines = []) (hs : s.llc.slices = []) (hn : s.nearEnd ≤ deepBase) (hd : s.deepEnd ≤ shoalBase)
    (hb : s.boot.running = false) : s.cacheOk :=
  lines_cacheOk s hs hn hd hb (by simp [hl]) (by simp [hl])

theorem witness_StepKeepsCache : State.reset.cacheOk ∧ step State.reset = .next State.reset.tick :=
  ⟨emptyCache_cacheOk _ rfl rfl (by decide) (by decide) rfl, rfl⟩

/-- A list test for what `State.writable` asks of every element of a tensor without a bitmap. -/
def insideB (s : State) (d : TDesc) : Bool :=
  (List.range d.raw0).all (fun i => (List.range d.rows).all (fun r => d.inside i r &&
    (List.range d.ebytes).all (fun k => decide (s.window (d.addr i r + k) = some d.winEnd) && !deviceOnly (d.addr i r + k))))

theorem writable_of {s : State} {d : TDesc} (hc : s.cacheOk) (hp : fmtMx d.fmt = false) (ht : d.tight = true) (hz : d.zbMap = false) (h : insideB s d = true) :
    s.writable d := by
  refine ⟨hc, hp, ht, fun i r hi hr => ?_⟩
  simp only [insideB, List.all_eq_true, List.mem_range, Bool.and_eq_true, decide_eq_true_eq, Bool.not_eq_true'] at h
  obtain ⟨h1, h2⟩ := h i hi r hr
  refine ⟨h1, fun a ha hb => ?_⟩
  obtain ⟨h3, h4⟩ := h2 (a - d.addr i r) (by omega)
  rw [Nat.add_sub_cancel' ha] at h3 h4
  exact ⟨h3, h4, fun _ _ hm => absurd hm (by simp [hz])⟩

/-- A list test that no two elements of two tensors share a byte. -/
def apartB (d e : TDesc) : Bool :=
  (List.range d.raw0).all (fun i => (List.range d.rows).all (fun r => (List.range e.raw0).all (fun j => (List.range e.rows).all (fun k =>
    decide (d.addr i r + d.ebytes ≤ e.addr j k) || decide (e.addr j k + e.ebytes ≤ d.addr i r)))))

theorem disjoint_of {d e : TDesc} (hd : fmtMx d.fmt = false) (he : fmtMx e.fmt = false) (hdz : d.zbMap = false) (hez : e.zbMap = false) (h : apartB d e = true) :
    d.disjoint e := by
  rintro a ⟨⟨_, i, r, hi, hr, h1⟩, ⟨_, j, k, hj, hk, h2⟩⟩
  simp only [hd, hdz, he, hez, Bool.false_eq_true, false_and, or_false] at h1 h2
  simp only [apartB, List.all_eq_true, List.mem_range, Bool.or_eq_true, decide_eq_true_eq] at h
  have := h i hi r hr j hj k hk
  omega

/-- A module with 128 near channels and a cache of one line, or none. -/
def cacheS (l : Tbl LLine) : State :=
  { State.reset with cap := { CapSt.zero with near := List.range 128, activeCores := 1024 }, llc := { LlcSt.zero with lines := l } }

/-- Line 0 with its low 64 bytes valid, byte 0 dirty. -/
def line0 : LLine := { LLine.zero with data := 0xAB, valid := BitVec.ofNat 128 (2 ^ 64 - 1), dirty := 1 }

/-- A DEAD tag of line 0. -/
def dead0 : LLine := { LLine.zero with dead := true }

theorem nearEnd_128 (s : State) (h : s.cap.near.length = 128) : s.nearEnd ≤ deepBase := by simp [State.nearEnd, h, deepBase]

theorem deepEnd_none (s : State) (h : s.cap.deep = []) : s.deepEnd ≤ shoalBase := by simp [State.deepEnd, h, deepBase, shoalBase]

theorem empty_cacheOk : (cacheS []).cacheOk := emptyCache_cacheOk _ rfl rfl (nearEnd_128 _ (List.length_range)) (deepEnd_none _ rfl) rfl

theorem line0_cacheOk : (cacheS [(0, line0)]).cacheOk :=
  oneLine_cacheOk _ 0 line0 rfl rfl (nearEnd_128 _ (List.length_range)) (deepEnd_none _ rfl) rfl
    ⟨by decide, by decide +kernel, by decide, by decide +kernel, by decide, by decide, by decide⟩

theorem dead0_cacheOk (strict : Bool) : ({ cacheS [(0, dead0)] with llc := { (cacheS [(0, dead0)]).llc with strictDead := strict } } : State).cacheOk :=
  oneLine_cacheOk _ 0 dead0 rfl rfl (nearEnd_128 _ (List.length_range)) (deepEnd_none _ rfl) rfl
    ⟨by decide, (by show (cacheS []).cachedAddr _ = true; decide +kernel), by decide, fun i _ h => absurd h (by simp [dead0, LLine.zero]), by decide, by decide, by decide⟩

/-- A pinned place that waits for its data. -/
def pinLine (tag : Nat) : LLine := { LLine.zero with tag := tag, alloc := true, pinned := true }

/-- Sixteen of them, the set of line 0. -/
def pinnedSet : Tbl LLine := (List.range 16).map (fun k => (k, pinLine (k + 1)))

theorem pinnedSet_cacheOk : (cacheS pinnedSet).cacheOk := by
  refine lines_cacheOk _ rfl (nearEnd_128 _ (List.length_range)) (deepEnd_none _ rfl) rfl ?_ ?_
  · intro e he
    simp only [cacheS, pinnedSet, List.mem_map, List.mem_range] at he
    obtain ⟨k, hk, rfl⟩ := he
    have h : ∀ k, k < 16 → (cacheS pinnedSet).cachedAddr (lineAt k (k + 1) * 128) = true := by decide +kernel
    exact ⟨by simp only; omega, h k hk, by simp [pinLine, LLine.zero], fun i _ h => absurd h (by simp [pinLine, LLine.zero]), fun h => absurd rfl h,
      fun h => absurd h (by simp [pinLine, LLine.zero]), fun _ => ⟨rfl, rfl⟩⟩
  · intro e he f hf _ ht
    simp only [cacheS, pinnedSet, List.mem_map, List.mem_range] at he hf
    obtain ⟨k, _, rfl⟩ := he
    obtain ⟨j, _, rfl⟩ := hf
    simp only [pinLine] at ht ⊢
    omega

theorem witness_CacheRead_no_way : ((cacheS pinnedSet).slice (sliceOf 0)).ways ≠ 0 ∧ (cacheS pinnedSet).findLine 0 = none ∧ (cacheS pinnedSet).victim 0 = none ∧
    (cacheS []).victim 0 = some 0 := by decide +kernel

theorem witness_CacheReads : let s := cacheS [(0, line0)]
    s.cachedAddr 0 = true ∧ 0 < min 8 (min (s.cutLen 0 8) (128 - 0 % 128)) ∧ s.unitInReset 3 0 = false ∧ (s.slice (sliceOf 0)).ways ≠ 0 ∧
    s.findLine 0 = some 0 ∧ (s.line 0).dead = false ∧ (s.line 0).valid.getLsbD 63 = true ∧ (s.line 0).valid.getLsbD 64 = false ∧ s.findLine 1 = none ∧
    (cacheS [(0, dead0)]).findLine 0 = some 0 ∧ ((cacheS [(0, dead0)]).line 0).dead = true := by decide +kernel

theorem witness_CacheRead_in_reset : ({ cacheS [] with rst := { active := [(3, 768)], parked := [], merged := 0 } }).unitInReset 3 0 = true := by decide

theorem witness_CacheRead_disabled : (({ cacheS [] with llc := { LlcSt.zero with slices := [(0, { SliceSt.zero with waysOff := 0x1FF })] } }).slice (sliceOf 0)).ways = 0 := by decide

/-- The same cache with a miss of line 1 outstanding. -/
def missS (discard : Bool) : State := { cacheS [] with llc := { LlcSt.zero with misses := [{ line := 1, src := .core 3, discard := discard, errs := ⟨1, [128], false⟩ }] } }

/-- The place of line 1, waiting for its data, with the miss outstanding. -/
def fillS (x : LLine) : State :=
  let p := ((cacheS []).victim 1).getD 0
  { missS false with llc := { (missS false).llc with lines := [(p, { x with tag := tagOf 1 })] } }

theorem witness_CacheFills : (missS true).cachedAddr 128 = true ∧ (missS false).unitInReset 4 ((missS false).channelOf 128).2.1 = false ∧ (missS false).findLine 1 = none ∧
    takeMiss 1 (missS true).llc.misses = some ({ line := 1, src := .core 3, discard := true, errs := ⟨1, [128], false⟩ }, []) ∧
    (takeMiss 1 (fillS LLine.zero).llc.misses).isSome = true ∧ (fillS { LLine.zero with alloc := true }).findLine 1 = (cacheS []).victim 1 ∧
    (fillS { LLine.zero with dead := true }).findLine 1 = (cacheS []).victim 1 := by decide +kernel

theorem test_read_hits : gives (.llcRead (.core 3) 56 8 false ⟨0, [], false⟩) (cacheS [(0, line0)]) (fun t => (t.llc.misses.length, (t.slice (sliceOf 0)).accesses, (t.slice (sliceOf 0)).misses) == (0, 1, 0)) = true := by
  decide +kernel

theorem test_read_misses : gives (.llcRead (.core 3) 57 8 false ⟨0, [], false⟩) (cacheS [(0, line0)]) (fun t => (t.llc.misses.length, (t.slice 0).misses) == (1, 1)) = true := by decide +kernel

theorem test_read_dead : gives (.llcRead (.core 3) 0 8 false ⟨0, [], false⟩) (cacheS [(0, dead0)]) (fun t => ((t.slice 0).readAfterDead, (t.line 0).dead, t.llc.misses.length) == (1, false, 1)) = true := by
  decide +kernel

theorem test_fill : gives (.llcFill 1) (fillS { LLine.zero with alloc := true }) (fun t => (t.llc.misses.length, (t.findLine 1).map (fun p => (t.line p).valid == BitVec.allOnes 128), t.memPoison 128) == (0, some true, true)) = true := by
  decide +kernel

theorem witness_CacheWrites : let s := cacheS [(0, line0)]
    s.cachedAddr 63 = true ∧ s.unitInReset 3 0 = false ∧ [(7 : Byte), 9].length ≤ 128 - 63 % 128 ∧ ∀ i, i < 2 → deviceOnly (63 + i) = false := by decide +kernel

theorem test_write : gives (.llcWrite (.core 3) 63 [7, 9] false) (cacheS [(0, line0)]) (fun t => (t.peek 62, t.peek 63, t.peek 64, t.peek 65, t.peek 0) == (0, 7, 9, 0, 0xAB)) = true := by
  decide +kernel

theorem witness_SlabAccess : (cacheS []).inWindow (shoalBase + 1023 * slabBytes + (slabBytes - 1)) = true ∧ 1 ≤ 128 - (slabBytes - 1) % 128 := by decide +kernel

theorem test_slab : gives (.slabAccess 1023 2 0x17FFFF 1 (some [9])) (cacheS []) (fun t => (t.peek (shoalBase + 1024 * slabBytes - 1), tget false t.slabTurn 1023) == (9, true)) = true := by
  decide +kernel

/-- The same line with a range operation waiting. -/
def rangeS (op : Nat) : State := { cacheS [(0, { line0 with pinned := true })] with llc := { LlcSt.zero with lines := [(0, { line0 with pinned := true })], rangeQueue := [{ op := op, line := 0, count := 1 }] } }

theorem rangeS_cacheOk (op : Nat) : (rangeS op).cacheOk :=
  oneLine_cacheOk _ 0 _ rfl rfl (nearEnd_128 _ (List.length_range)) (deepEnd_none _ rfl) rfl
    ⟨by decide, (by show (cacheS []).cachedAddr _ = true; decide +kernel), by decide, (by show ∀ i, i < 128 → _ → _ → _ = (cacheS []).memByte _; decide +kernel),
      by decide, by decide, by decide⟩

theorem witness_Ranges : (rangeS 2).llc.rangeQueue = { op := 2, line := 0, count := 1 } :: [] ∧ lineAt 0 0 = 0 ∧ ((rangeS 2).line 0).resident = true ∧ (cacheS []).llc.rangeQueue.length < 64 ∧
    64 ≤ (List.replicate 64 ({ op := 0, line := 0, count := 1 } : RangeOp)).length := by decide

theorem test_range_done : [1, 2, 3].map (fun op => match exec .rangeOpDone (rangeS op) with
    | .next t => ((t.line 0).pinned, (t.line 0).dead, (t.line 0).valid.toNat, (t.line 0).dirty.toNat, t.llc.rangeDone)
    | _ => (true, true, 0, 0, 0)) = [(false, false, 2 ^ 64 - 1, 1, 1), (false, true, 0, 0, 1), (true, false, 2 ^ 64 - 1, 0, 1)] := by decide +kernel

theorem test_ranges_wait : [Instr.rangePin 5 9, .rangeUnpin 5 9, .rangeDead 5 9, .rangeClean 5 2000000].map (fun c => match exec c (cacheS []) with
    | .next t => t.llc.rangeQueue.map (fun o => (o.op, o.line, o.count))
    | _ => []) = [[(0, 5, 9)], [(1, 5, 9)], [(2, 5, 9)], [(3, 5, 1048576)]] := by decide +kernel

theorem witness_Scrub : (tget MemCtl.zero State.reset.nt 0).scrubHours ≠ 0 ∧ (tget MemCtl.zero [(0, { MemCtl.zero with scrubHours := 0 })] 0).scrubHours = 0 := by decide

theorem test_scrub : gives (.scrubPass 5 0 3 [64]) (cacheS []) (fun t => ((tget MemCtl.zero t.nt 0).ce, (tget MemCtl.zero t.nt 0).ue, (tget MemCtl.zero t.nt 0).scrubPasses, t.memPoison 64)
    == (3, 1, 1, true)) = true := by decide +kernel

/-- A DMA descriptor in scratch. -/
def descD (op src dst n rows : Nat) : DmaDesc :=
  { addr := 2 ^ 63 + 64, src := BitVec.ofNat 64 src, dst := BitVec.ofNat 64 dst, rowBytes := n, rows := rows, srcStride := n, dstStride := n, op := op, barrier := false,
    signalEn := true, trigger := 0, codecDir := 0, codecFmt := 0, codecStream := 0, signalWeir := 9, trigValue := 0, next := 0, moves := true, clamps := 0 }

/-- A chain head of device code. -/
def headH : ChainHead := { addr := 2 ^ 63 + 64, owner := none, detached := false, req := none, since := 0 }

/-- Core 1 with DMA channel 7 as given. -/
def dmaS (c : DmaCh) (run : Option Nat) (moved : Option (Nat × Nat × Nat)) : State :=
  { cacheS [] with cores := [(1, { CoreSt.zero with dma := { DmaSt.zero with ch := tset DmaCh.zero [] 7 c, run := run, moved := moved }, scratch := [(0, 1), (1, 2), (2, 3), (3, 4), (104, 5)] })] }

/-- The channel with a descriptor, fired. -/
def firedCh (d : DmaDesc) : DmaCh := { DmaCh.zero with active := some headH, desc := some d, fired := some 0, doneCount := 0xFFFF }

theorem witness_DmaStart : let s := dmaS (firedCh (descD 6 0 0 0 1)) none none
    s.servedCore 1 = true ∧ s.coreInReset 1 = false ∧ (s.dmaCh 1 7).active ≠ none ∧ (s.dmaCh 1 7).fifo.length < 4 ∧ (s.dmaCh 1 0).active = none ∧ (s.dmaCh 1 0).fifo = [] ∧
    dmaNorm (2 ^ 63 + 0x47) / 64 * 64 ≠ 0 ∧ s.dmaRoom (dmaNorm (2 ^ 63 + 0x47) / 64 * 64) ≠ 0 ∧ s.dmaAnyPoison 1 (dmaNorm (2 ^ 63 + 0x47) / 64 * 64) 64 = false ∧
    (s.core 1).dma.run = none ∧ (s.core 1).dma.choose = some 7 := by decide +kernel

theorem witness_Countdown : ((dmaS { firedCh { descD 6 0 0 0 1 with trigger := 2 } with fired := none } none none).dmaCh 1 7).fired = none := by decide

theorem test_dma_start : gives (.dmaChStart 1 0 (BitVec.ofNat 64 (2 ^ 63 + 0x47))) (dmaS (firedCh (descD 6 0 0 0 1)) none none)
    (fun t => ((t.dmaCh 1 0).active.map (fun h => h.addr), (t.dmaCh 1 0).desc.map (fun d => (d.op, d.rows, d.src)), (t.dmaCh 1 0).fired, (t.core 1).dma.fires)
      == (some (2 ^ 63 + 64), some (0, 1, 0x0000000000000000), some 0, 1)) = true := by decide +kernel

theorem test_dma_run : gives (.dmaRunStart 1) (dmaS (firedCh (descD 6 0 0 0 1)) none none) (fun t => (t.core 1).dma.run == some 7) = true := by decide +kernel

theorem test_countdown : gives (.countdownExpire 1 7) (dmaS { firedCh { descD 6 0 0 0 1 with trigger := 2 } with fired := none } none none)
    (fun t => ((t.dmaCh 1 7).fired, (t.core 1).dma.fires) == (some 0, 1)) = true := by decide +kernel

theorem witness_DmaComplete : let s := dmaS (firedCh (descD 0 0 0 0 1)) (some 7) (some (4, 0, 0))
    (s.core 1).dma.run = some 7 ∧ (s.core 1).dma.moved = some (4, 0, 0) ∧ (s.dmaCh 1 7).desc = some (descD 0 0 0 0 1) ∧ (s.dmaCh 1 7).active = some headH ∧
    (s.dmaCh 1 7).fifo = [] ∧ 0 ≤ s.llc.rangeDone ∧ dmaLocal (2 ^ 63 + 64) = true ∧ (2 ^ 63 + 64) % 2 ^ 18 + 0x40 ≤ 2 ^ 18 := by decide +kernel

theorem test_dma_complete : gives (.dmaDescComplete 1) (dmaS (firedCh (descD 0 0 0 0 1)) (some 7) (some (4, 0, 0)))
    (fun t => ((t.dmaCh 1 7).doneCount, (t.dmaCh 1 7).active, (t.core 1).dma.run, (t.core 1).dma.descDone, (t.weir 9).gen, t.dmaByte 1 (2 ^ 63 + 120), t.dmaByte 1 (2 ^ 63 + 123))
      == (0, none, none, 1, 1, 1, 4)) = true := by decide +kernel

theorem witness_DmaOperations : (List.range 7).all (fun op => (dmaS (firedCh (descD op (2 ^ 63) (2 ^ 63 + 100) 4 1)) (some 7) none).dmaRunning 1 op
    == some (7, descD op (2 ^ 63) (2 ^ 63 + 100) 4 1)) = true ∧ 2 ^ 63 + 100 = 2 ^ 63 + dmaOff (2 ^ 63 + 100) ∧ (1 - 1) * 4 + 4 ≤ (dmaS .zero none none).dmaRoom (2 ^ 63 + 100) ∧
    4 ≤ (dmaS .zero none none).dmaRoom (2 ^ 63) ∧ (∀ i, i < 4 → (dmaS .zero none none).dmaPoison 1 (2 ^ 63 + i) = false) ∧ dmaLocal 256 = false ∧ 0 < 4 * 1 ∧
    (dmaOff 256 + 4 - 1) / 128 - dmaOff 256 / 128 + 1 ≤ 1048576 := by decide +kernel

theorem witness_DmaOperations_near : dmaLocal (2 ^ 63) = true ∧ dmaOff (2 ^ 63) < dmaOff (2 ^ 63 + 3) ∧ dmaOff (2 ^ 63 + 3) < dmaOff (2 ^ 63) + 4 := by decide +kernel

theorem test_dma_copy : gives (.dmaCopy 1) (dmaS (firedCh (descD 0 (2 ^ 63) (2 ^ 63 + 100) 4 1)) (some 7) none)
    (fun t => (List.range 6).map (fun i => t.dmaByte 1 (2 ^ 63 + 99 + i)) == [0, 1, 2, 3, 4, 5] && (t.core 1).dma.moved == some (4, 0, 0)) = true := by decide +kernel

theorem test_dma_copy_near : gives (.dmaCopy 1) (dmaS (firedCh (descD 0 (2 ^ 63) (2 ^ 63 + 3) 4 1)) (some 7) none)
    (fun t => (List.range 8).map (fun i => t.dmaByte 1 (2 ^ 63 + i)) == [1, 2, 3, 1, 2, 3, 1, 0]) = true := by decide +kernel

theorem test_dma_fill : gives (.dmaFill 1) (dmaS (firedCh { descD 1 0x0807060504030201 (2 ^ 63 + 8) 2 2 with dstStride := 5 }) (some 7) none)
    (fun t => (List.range 9).map (fun i => t.dmaByte 1 (2 ^ 63 + 7 + i)) == [0, 1, 2, 0, 0, 0, 6, 7, 0]) = true := by decide +kernel

theorem test_dma_ranges : [(2, Instr.dmaPin 1), (3, .dmaUnpin 1), (4, .dmaDead 1), (5, .dmaClean 1)].all (fun x =>
    gives x.2 (dmaS (firedCh (descD x.1 0 256 130 1)) (some 7) none) (fun t => t.llc.rangeQueue == [{ op := x.1 - 2, line := 2, count := 2 }] &&
      (t.core 1).dma.moved == some (0, 0, 1))) = true := by decide +kernel

theorem test_dma_nop : gives (.dmaNop 1) (dmaS (firedCh (descD 6 0 0 9 1)) (some 7) none) (fun t => (t.core 1).dma.moved == some (0, 0, 0)) = true := by decide +kernel

/-- A DMA_CHAIN of two heads a stride of 0x40 apart, on two cores whose channel 0 is busy. -/
def chainS : State :=
  { reached (entryOf { cmdOf 0x3000 0 5 (leBytes 8 0x1007 ++ leBytes 8 0x40) with coreFirst := 14, coreCount := 2 }) with
    cores := [(14, { CoreSt.zero with dma := { DmaSt.zero with ch := [(0, firedCh (descD 6 0 0 0 1))] } }), (15, { CoreSt.zero with dma := { DmaSt.zero with ch := [(0, firedCh (descD 6 0 0 0 1))] } })] }

theorem witness_DmaChain : (chainS.ready 0 5 0x3000).map (fun e => (e.tiles, e.ran, e.cmd.coreCount)) = some ([], false, 2) ∧
    (chainParams (leBytes 8 0x1007 ++ leBytes 8 0x40)).1.2.2.1 = 0 ∧ ∀ i, i < 2 → chainS.servedCore (14 + i) = true ∧ chainS.coreInReset (14 + i) = false ∧
      (chainS.dmaCh (14 + i) 0).active ≠ none ∧ (chainS.dmaCh (14 + i) 0).fifo.length < 4 := by decide +kernel

theorem test_dma_chain : gives (.dmaChain 0 5) chainS (fun t => ((t.dmaCh 14 0).fifo.map (fun h => h.addr), (t.dmaCh 15 0).fifo.map (fun h => (h.addr, h.owner)),
    (t.entry 0 5).map (fun e => (e.started, e.ran))) == ([0x1000], [(0x1040, some (0, 5))], some (true, false))) = true := by decide +kernel

/-! ### Collectives, the ford link, the port -/

/-- A group of `n` ranks in which this module has rank `me`; rank r is reached on QP r. -/
def groupOf (me n policy : Nat) : GroupDesc :=
  { gid := 77, myRank := me, policy := policy, lateLimitUs := 1, lostLimitMs := 1, entries := (List.range n).map (fun r => (r, false)) }

/-- A binary32 tensor of two elements in slab 0, 4,096 bytes a place. -/
def f32T (at' : Nat) : TDesc :=
  { TDesc.null with isNull := false, fmt := 2, base := shoalBase + 4096 * at', winEnd := shoalBase + 1024 * slabBytes, dims := [2, 1, 1, 1] }

/-- A collective on two binary32 elements, with its vote or not. -/
def collE (op me n policy window : Nat) (vote : Bool) : WakeEntry :=
  entryOf { cmdOf op 0 5 (leBytes 8 0 ++ leBytes 8 window ++ [0, 0, if vote then 1 else 0]) with group := some (groupOf me n policy), tensors := [f32T 0, f32T 1] }

/-- An open collective of a command. -/
def collC (e : WakeEntry) (members : Option (List Nat)) (infos : List RankInfo) : CollSt :=
  { gid := 77, collSeq := 0, queue := 0, seq := 5, opcode := e.cmd.opcode, window := 0, isOpen := true, infos := infos, members := members, vote := 2, elems := 2,
    table := [], excluded := false, cmd := e.cmd, seed := 0, step := 0, ownPz := false, part := [], hop := 0, got := 0, written := 0, bytesSent := 0, total := none,
    finished := false }

/-- The arrival of a rank. -/
def infoOf (r : Nat) : RankInfo := { rank := r, arrived := true, tideCount := 0, phaseNs := 0, throttle := 0, throttleUs := 0, vote := 2, tideState := 0 }

/-- A module with that command reached, collectives open, QPs 0 to 2 connected to peers, and 1.0 and 2.0 in slab 0. -/
def collS (e : WakeEntry) (l : List CollSt) : State :=
  { reached e with coll := { GroupSt.zero with openColls := l }, mem := [(shoalBase + 2, 0x80), (shoalBase + 3, 0x3F), (shoalBase + 7, 0x40)],
                   est := { EstSt.zero with linkUp := true, qps := [(0, { Qp.zero with phase := 2, peer := true }), (1, { Qp.zero with phase := 2, peer := true }), (2, { Qp.zero with phase := 2, peer := true })] } }

/-- A module whose port and ford link are down. -/
def collDown (e : WakeEntry) (l : List CollSt) : State := { collS e l with est := EstSt.zero }

theorem witness_CollectiveStarts : [0x5000, 0x5001, 0x5002, 0x5003].all (fun op => [(2, 1), (1, 0)].all (fun x => let e := collE op 0 x.1 0 x.2 true
    (collS e []).ready 0 5 op == some e && (collS e []).coll? 77 0 == none && (collS e []).coll.buffered.isEmpty && decide ((collParams e.cmd).1.n = x.1) &&
    ((collS e []).windowDue (collParams e.cmd).1.window == decide (x.2 = 0)) && decide ((collParams e.cmd).1.root = 0) && decide ((collParams e.cmd).1.group.myRank = 0) &&
    (collParams e.cmd).1.carry.isNull && !(collS e []).frd.partnerLost)) = true := by decide +kernel

theorem witness_CollectiveStarts_output : (collS (collE 0x5000 0 1 0 0 true) []).writable (collParams (collE 0x5000 0 1 0 0 true).cmd).1.output :=
  writable_of (emptyCache_cacheOk _ rfl rfl (by decide +kernel) (deepEnd_none _ rfl) rfl) (by decide +kernel) (by decide +kernel) (by decide +kernel) (by decide +kernel)

/-- Rank 1 is reached over the ford link, whose partner is lost. -/
def fordLostE : WakeEntry := { collE 0x5001 0 2 0 1 true with cmd := { (collE 0x5001 0 2 0 1 true).cmd with group := some { groupOf 0 2 0 with entries := [(0, false), (1, true)] } } }

theorem witness_CollectiveStarts_lost : let s := { collS fordLostE [] with frd := { FrdSt.zero with partnerLost := true } }
    s.ready 0 5 0x5001 = some fordLostE ∧ s.frd.partnerLost = true ∧ (collParams fordLostE.cmd).1.ford 1 = true ∧ 1 < (collParams fordLostE.cmd).1.n := by decide +kernel

theorem test_coll_lost : gives (.reduceScatter 0 5) { collS fordLostE [] with frd := { FrdSt.zero with partnerLost := true } }
    (fun t => ((t.entry 0 5).map (fun e => (e.ran, e.code, e.voted)), t.est.ctr.collPeerLost) == (some (true, 0x20, some (false, [])), 1)) = true := by decide +kernel

theorem test_coll_waits : gives (.allgather 0 5) (collS (collE 0x5002 0 2 0 1 false) [])
    (fun t => (t.coll.openColls.map (fun c => (c.gid, c.isOpen, c.window)), (t.entry 0 5).map (fun e => e.started)) == ([(77, false, 1)], some true)) = true := by decide +kernel

theorem test_coll_alone : [(0x5000, Instr.allreduce 0 5), (0x5001, .reduceScatter 0 5), (0x5002, .allgather 0 5), (0x5003, .broadcast 0 5)].all (fun x =>
    gives x.2 (collS (collE x.1 0 1 0 0 true) []) (fun t => (t.entry 0 5).map (fun e => (e.ran, e.code, e.result.length, e.voted)) == some (true, 0, 76, some (true, [0])) &&
      t.peek (shoalBase + 4096 + 7) == 0x40 && t.est.ctr.collDone == 1)) = true := by decide +kernel

theorem witness_CollectiveMessages_kept : let s := collS (collE 0x5000 0 3 1 0 false) []
    s.coll? 77 3 = none ∧ s.collAwaited 77 3 = true ∧ s.coll? 77 4 = none ∧ s.collAwaited 77 4 = false ∧ s.collHeard 77 (.collResult 77 3 0 []) = true ∧
    (collDown (collE 0x5000 0 3 1 0 false) []).est.linkUp = false ∧ (collDown (collE 0x5000 0 3 1 0 false) []).frd.linkUp = false ∧
    (collDown (collE 0x5000 0 3 1 0 false) []).collHeard 77 (.collResult 77 3 0 []) = false := by decide +kernel

theorem test_coll_stray : gives (.collData 77 4 0 false 0 [1, 2, 3, 4]) (collS (collE 0x5000 0 3 1 0 false) []) (fun t => t.est.ctr.collStray == 1) = true := by decide +kernel

theorem test_coll_kept : gives (.collResult 77 3 0 [1, 2, 3, 4]) (collS (collE 0x5000 0 3 1 0 false) []) (fun t => t.coll.buffered.length == 1) = true := by decide +kernel

/-- The ALLREDUCE of three ranks under DROP, for the given rank. -/
def dropE (me : Nat) : WakeEntry := collE 0x5000 me 3 1 0 false

theorem witness_CollectiveArrive : let s := collS (dropE 0) [collC (dropE 0) none [infoOf 0]]
    s.coll? 77 0 = some (collC (dropE 0) none [infoOf 0]) ∧ s.entry 0 5 = some (dropE 0) ∧ s.coll.buffered = [] ∧ s.collHeard 77 (.collArrive 77 0 (infoOf 2)) = true ∧
    (collParams (dropE 0).cmd).1.n = 3 ∧ (collParams (dropE 0).cmd).1.mayDrop 0x5000 = true ∧ (collParams (dropE 0).cmd).1.never 2 = false ∧
    (infoOf 2).rank < 3 ∧ 3 ≤ (infoOf 3).rank := by decide +kernel

theorem test_coll_arrive : gives (.collArrive 77 0 (infoOf 2)) (collS (dropE 0) [collC (dropE 0) none [infoOf 0]])
    (fun t => t.coll.openColls.map (fun c => c.infos.map (fun i => i.rank)) == [[0, 2]]) = true := by decide +kernel

theorem witness_CollectiveStart_left_out : let p := (collParams (dropE 1).cmd).1
    p.group.myRank = 1 ∧ [0, 2].contains p.group.myRank = false ∧ p.policy = 1 ∧ (collC (dropE 1) none []).total = none ∧ (collC (dropE 1) none []).isOpen = true := by decide +kernel

theorem test_coll_left_out : gives (.collStart 77 0 [0, 2] 2 2 []) (collS (dropE 1) [collC (dropE 1) none []])
    (fun t => (t.coll.openColls.map (fun c => c.excluded), t.est.ctr.collDropped) == ([true], 1)) = true := by decide +kernel

theorem witness_CollectiveData : let c := collC (dropE 1) (some [0, 1, 2]) []
    let p := (collParams c.cmd).1
    let s := collS (dropE 1) [c]
    halving p c = false ∧ myIndex p c ≠ 2 ∧ p.carry.isNull = true ∧ p.addAll (bytesWords [0, 0, 0, 0]) ((rangeFrom (chunkAt 2 c.elems 3 + 0 / 4) 1).map (p.word s)) ≠ [] ∧
    c.written < c.elems ∧ nextMember [0, 1, 2] (myIndex p c) = 2 ∧ (lget (noQpn, false) p.group.entries 2).2 = false ∧
    s.peerQp (lget (noQpn, false) p.group.entries 2).1 = true ∧ 4 * 1 ≤ maxCollData := by decide +kernel

theorem test_coll_data : gives (.collData 77 0 2 false 0 [0, 0, 0x80, 0x3F]) (collS (dropE 1) [collC (dropE 1) (some [0, 1, 2]) []])
    (fun t => match t.out with
      | [.roce _ (.collMsg 2 2 77 0 m)] => m.length == 68 && m.drop 64 == [0, 0, 0x40, 0x40]
      | _ => false) = true := by decide +kernel

/-- An excluded rank that waits for its result. -/
def outC : CollSt := { collC (dropE 1) (some [0, 2]) [] with excluded := true }

theorem witness_CollectiveResult : outC.members = some [0, 2] ∧ outC.excluded = true ∧ outC.finished = false ∧ 0 < (collParams outC.cmd).1.group.myRank ∧
    ([1, 0, 0, 0, 2, 0, 0, 0] : List Byte).length < maxCollData ∧ ({ outC with finished := true } : CollSt).wants (.collResult 77 0 0 []) = false := by decide +kernel

theorem test_coll_result : gives (.collResult 77 0 0 [1, 0, 0, 0, 2, 0, 0, 0]) (collS (dropE 1) [outC])
    (fun t => ((t.entry 0 5).map (fun e => (e.ran, e.code)), t.coll.openColls.length, t.peek (shoalBase + 4096 + 4)) == (some (true, 0), 0, 2)) = true := by decide +kernel

theorem test_straggler : gives (.stragglerDeadline 77 0) (collS (dropE 0) [collC (dropE 0) none [infoOf 0, infoOf 2]])
    (fun t => (t.coll.openColls.map (fun c => c.members), t.est.ctr.collLate) == ([some [0, 2]], 1)) = true := by decide +kernel

/-- A collective all of whose ranks have arrived, its work not done. -/
def fullC : CollSt := collC (dropE 0) (some [0, 1, 2]) [infoOf 0, infoOf 1, infoOf 2]

theorem witness_PeerLost : ({ outC with finished := true } : CollSt).finished = true ∧ (collC (dropE 0) none []).missing (collParams (dropE 0).cmd).1 = true ∧
    fullC.missing (collParams fullC.cmd).1 = false ∧ fullC.members ≠ none ∧ collDone (collParams fullC.cmd).1 fullC = false ∧ fullC.isOpen = true := by decide +kernel

theorem test_peer_lost : gives (.peerLostDeadline 77 0) (collS (collE 0x5001 0 3 1 0 true) [collC (collE 0x5001 0 3 1 0 true) none [infoOf 0]])
    (fun t => ((t.entry 0 5).map (fun e => (e.ran, e.code, e.voted)), t.coll.openColls.length, t.est.ctr.collPeerLost) == (some (true, 0x20, some (false, [])), 0, 1)) = true := by
  decide +kernel

/-- A flit that waits for its acknowledgement. -/
def keptFlit : Flit := { Flit.of 2 1 [5] with seq := 3 }

/-- A ford link with the next flit expected at 7, up or waiting for HELLO. -/
def fordS (present up : Bool) : State :=
  { cacheS [] with frd := { FrdSt.zero with linkUp := up, helloWait := !up, partnerPresent := present, expSeq := 7, nextSeq := 4, pairKey := 9, lanesInUse := 255, kept := [keptFlit] },
                   boot := { BootSt.zero with licPaired := true } }

/-- The header of a flit that arrives with its right CRC. -/
def hdrOf (type : Nat) (payload : List Byte) (seq creditN : Nat) : FlitHdr :=
  let h : FlitHdr := { vc := 1, seq := seq, ack := 3, creditVc := 1, creditN := creditN, crc := 0 }
  { h with crc := (Flit.arrived h type payload).crc 3 }

theorem hdrOf_crc (type : Nat) (payload : List Byte) (seq n : Nat) :
    (Flit.arrived (hdrOf type payload seq n) type payload).crc (hdrOf type payload seq n).ack = (hdrOf type payload seq n).crc := rfl

theorem test_flit_bytes : (Flit.of 2 1 [5]).bytes 6 0x04030201 = [2, 1, 0, 0, 6, 0, 0, 0, 1, 0, 0, 0, 1, 2, 3, 4, 5] ++ List.replicate 239 0 := by decide +kernel

theorem test_crc32c : crc32c [0x31, 0x32, 0x33, 0x34, 0x35, 0x36, 0x37, 0x38, 0x39] = 0xE3069283 := by decide +kernel

/-- A HELLO of the pair, and one of another. -/
def helloPay (key : Nat) : List Byte := leBytes 8 key ++ leBytes 1 1

theorem witness_FordLink : let s := fordS true true
    s.frd.linkUp = true ∧ (hdrOf 8 [] 7 1).seq = s.frd.expSeq ∧ s.frd.txWait = [] ∧ s.frd.partnerPresent = true ∧ (hdrOf 8 [] 8 1).seq ≠ s.frd.expSeq ∧
    (fordS false false).frd.helloWait = true ∧ (s.frd.kept.filter (fun k => !seqLe k.seq 3)).length + 1 < 512 ∧ 0 < lget 0 s.frd.credits 0 ∧
    s.boot.licPaired = true ∧ s.frd.pairKey = 9 ∧ true ≠ s.frd.side ∧ s.spw.slack = 0 ∧ s.frd.mirrorWake = [] ∧ 1 ≤ s.cutLen 0x1000 1 ∧ deviceOnly 0x1000 = false ∧
    s.frd.kept ≠ [] ∧ (fordS false false).frd.linkUp = false ∧ (fordS false false).frd.lanesInUse ≠ 0 ∧ s.boot.ready = false := by decide +kernel

theorem witness_FordLink_down : ¬ ((cacheS []).frd.linkUp = true ∨ (cacheS []).frd.helloWait = true) ∧ (cacheS []).frd.lanesInUse = 0 ∧
    (Flit.arrived { hdrOf 7 [1] 7 1 with crc := 0 } 7 [1]).crc 3 ≠ 0 := by decide +kernel

theorem witness_FordWrite : (fordS true true).cacheOk :=
  emptyCache_cacheOk _ rfl rfl (nearEnd_128 _ (List.length_range)) (deepEnd_none _ rfl) rfl

theorem test_ford_hello : gives (.fordHello (hdrOf 1 (helloPay 9) 7 1) 9 true) (fordS false false)
    (fun t => (t.frd.partnerPresent, t.frd.linkUp, t.frd.helloWait, t.frd.expSeq, t.frd.kept.map (fun k => (k.seq, k.type))) == (true, true, false, 8, [(4, 6)])) = true := by
  decide +kernel

theorem test_ford_hello_rejected : gives (.fordHello (hdrOf 1 (helloPay 8) 7 1) 8 true) (fordS false true) (fun t => (t.frd.helloReject, t.frd.linkUp) == (1, false)) = true := by
  decide +kernel

theorem test_ford_write : gives (.fordWrite (hdrOf 2 (leBytes 8 0x1000 ++ [0xA5]) 7 1) 0x1000 [0xA5]) (fordS true true)
    (fun t => (t.peek 0x1000, t.frd.mirrorBytes) == (0xA5, 1)) = true := by decide +kernel

theorem test_ford_crc : gives (.fordColl { hdrOf 7 [1] 7 1 with crc := 0 } [1]) (fordS true true)
    (fun t => (t.frd.crcErrors, t.frd.expSeq, t.out.length) == (1, 7, 1)) = true := by decide +kernel

theorem test_ford_mirrors : gives (.fordFlags (hdrOf 4 (leBytes 2 4097 ++ [3]) 7 1) 4097 3) (fordS true true) (fun t => (tget 0 t.frd.mirrorFlags 1).toNat == 3) = true ∧
    gives (.fordVote (hdrOf 5 (leBytes 8 1) 7 1) 1) (fordS true true) (fun t => t.frd.mirrorVote == some 1) = true := by decide +kernel

theorem test_ford_wake : gives (.fordWake (hdrOf 3 (List.replicate 256 1) 7 1) (List.replicate 256 1)) (fordS true true) (fun t => (t.frd.wakeEntries, t.frd.mirrorWake.length,
    tget 0 t.frd.mirrorReached 0x0101) == (1, 1, 0x0101010101010102)) = true := by decide +kernel

theorem test_ford_goodbye : gives (.fordGoodbye (hdrOf 8 [] 7 1)) (fordS true true) (fun t => (t.frd.partnerPresent, t.frd.partnerLost, t.frd.failovers) == (false, true, 1)) = true := by
  decide +kernel

theorem test_ford_ack : gives (.fordAck (hdrOf 6 [] 7 1)) (fordS true true) (fun t => (t.frd.kept, t.frd.credits, t.frd.expSeq) == ([], [64, 64, 64], 8)) = true ∧
    gives (.fordIdle (hdrOf 0 [] 0 0)) (fordS true true) (fun t => (t.frd.rxFlits, t.frd.expSeq) == (1, 7)) = true := by decide +kernel

theorem test_ford_ack_behind : gives (.fordAck { hdrOf 6 [] 0 0 with ack := 2, crc := (Flit.arrived (hdrOf 6 [] 0 0) 6 []).crc 2 }) (fordS true true)
    (fun t => (t.frd.replays, t.frd.kept.length, t.out.length) == (1, 1, 1)) = true := by decide +kernel

theorem test_ford_timers : gives .fordReplayTimeout (fordS true true) (fun t => (t.out, t.frd.replays) == ([.flit (keptFlit.bytes 6 (keptFlit.crc 6).toNat)], 1)) = true ∧
    gives .fordIdleTimer (fordS true true) (fun t => t.out.length == 1) = true ∧
    gives .fordSilenceTimeout (fordS true true) (fun t => (t.frd.partnerLost, t.frd.linkUp) == (true, true)) = true ∧
    gives .fordLinkDown (fordS true true) (fun t => (t.frd.partnerLost, t.frd.linkUp, t.frd.linkDowns) == (true, false, 1)) = true ∧
    gives (.fordRetrainTimer true) (fordS false false) (fun t => (t.frd.credits, t.frd.helloWait, t.frd.kept.map (fun k => k.payload)) == ([63, 64, 64], true, [[9, 0, 0, 0, 0, 0, 0, 0, 0]])) = true := by
  decide +kernel

/-- A module on the port, QP 3 connected to a host. -/
def portS (x : Qp) : State :=
  { cacheS [] with est := { EstSt.zero with linkUp := true, lanesInUse := [0, 1, 2, 3], qps := [(3, x)] }, queues := [(5, { QueueSt.zero with expected := 1025 })] }

/-- A host's QP that expects PSN 2^24 − 1. -/
def hostQp : Qp := { Qp.zero with phase := 2, rkey := 8, epsn := 0xFFFFFF }

theorem portS_cacheOk (x : Qp) : (portS x).cacheOk :=
  emptyCache_cacheOk _ rfl rfl (nearEnd_128 _ (List.length_range)) (deepEnd_none _ rfl) rfl

theorem witness_RdmaResponder : let s := portS hostQp
    s.est.linkUp = true ∧ s.pins.removing = false ∧ (s.qp 3).phase = 2 ∧ s.spw.asleep = false ∧ (s.qp 3).epsn = 0xFFFFFF ∧ (s.qp 3).peer = false ∧ (s.qp 3).rkey = 8 ∧
    psnGap 0xFFFFFE 0xFFFFFF ≥ 2 ^ 23 ∧ psnGap 0 0xFFFFFF < 2 ^ 23 ∧ s.coll.openColls = [] ∧ ringEntry 5 1 + 128 ≤ s.nearEnd ∧ (s.queue 5).expected ≤ 1025 ∧
    s.partCores (5 / 64) ≠ 0 ∧ (∀ i, i < 128 → deviceOnly (ringEntry 5 1 + i) = false) ∧ s.cutLen (ringEntry 5 1) 128 = 128 ∧ 1025 % 1024 = 1 ∧
    State.reset.est.linkUp = false ∧ ({ s with spw := { SpwSt.zero with slack := 2 } } : State).spw.asleep = true ∧
    ({ s with spw := { SpwSt.zero with slack := 2 } } : State).spw.slack = 2 := by decide +kernel

theorem witness_RdmaResponder_long : let s := portS hostQp
    (2 ^ 31 < (List.replicate (2 ^ 31 + 1) (0 : Byte)).length) ∧ 2 ^ 31 < 2 ^ 31 + 1 ∧ (s.qp 3).epsn = 0xFFFFFF :=
  ⟨by rw [List.length_replicate]; omega, by decide, rfl⟩

/-- A ring entry with the SEQ 1025 that asks for result slot 16383. -/
def entryBytes1 : List Byte := [0, 0, 4, 0, 0, 0, 0xFF, 0x3F] ++ List.replicate 0x70 0 ++ leBytes 8 1025

/-- The packets sent, without their IP and VLAN fields. -/
def sentMsgs (s : State) : List OutMsg := s.out.map (fun m => match m with
  | .roce _ x => x
  | x => x)

theorem test_ring_write : gives (.rdmaWrite 65535 3 8 0xFFFFFF (ringEntry 5 1) entryBytes1) (portS hostQp)
    (fun t => ((t.queue 5).arrived, (tget Slot.empty t.slots 16383).phase, (t.qp 3).epsn, t.out) == ([(1, 1025)], 1, 0, [.roce ⟨2, 26, none⟩ (.ack 3 0xFFFFFF)])) = true := by decide +kernel

theorem test_ring_stale : gives (.rdmaWrite 65535 3 8 0xFFFFFF (ringEntry 5 2) entryBytes1) (portS hostQp)
    (fun t => ((t.queue 5).arrived, t.est.ctr.ringStale) == ([], 1)) = true := by decide +kernel

theorem test_write_wrong_key : gives (.rdmaWrite 65535 3 9 0xFFFFFF 0 [1]) (portS hostQp) (fun t => ((t.qp 3).phase, sentMsgs t, t.est.ctr.qpErrors) == (3, [.nakAccess 3 0xFFFFFF], 1)) = true := by
  decide +kernel

theorem test_write_other_partition : gives (.rdmaWrite 1 3 8 0xFFFFFF 0 [1]) (portS hostQp) (fun t => (t.out, t.peek 0) == ([], 0)) = true := by decide +kernel

theorem test_write_ahead : gives (.rdmaWrite 65535 3 8 0 0 [1]) (portS hostQp) (fun t => ((t.qp 3).nakSent, sentMsgs t, t.peek 0) == (true, [.nakSequence 3 0xFFFFFF], 0)) = true := by decide +kernel

theorem test_write_duplicate : gives (.rdmaWrite 65535 3 8 0xFFFFFE 0 [1]) (portS hostQp) (fun t => (sentMsgs t, t.peek 0) == ([.ack 3 0xFFFFFE], 0)) = true := by decide +kernel

theorem test_read : gives (.rdmaRead 65535 3 8 0xFFFFFF (deepBase - 1) 2) (portS hostQp) (fun t => (sentMsgs t, t.est.ctr.oobAccess) == ([.readData 3 0xFFFFFF [0, 0]], 1)) = true := by decide +kernel

theorem test_send : gives (.send 65535 3 0xFFFFFF [1]) (portS hostQp) (fun t => (sentMsgs t, t.est.ctr.sendDropped) == ([.ack 3 0xFFFFFF], 1)) = true := by decide +kernel

theorem test_unsupported : gives (.unsupportedRequest 65535 3 0xFFFFFF) (portS hostQp) (fun t => ((t.qp 3).phase, sentMsgs t) == (3, [.nakInvalid 3 0xFFFFFF])) = true := by decide +kernel

/-- A peer QP with a request of two packets and a READ sent, at α = 1 and 100 Gb/s. -/
def peerQ (retries : Nat) : Qp :=
  { Qp.zero with
    phase := 2, peer := true, rate := ⟨100, 0⟩, target := ⟨200, 0⟩, stage := 5, nextPsn := 7,
    sent := [{ psn := 4, pkts := 2, isRead := false, retries := retries, data := [1], row := 0, addr := 0 },
             { psn := 6, pkts := 1, isRead := true, retries := 0, data := [], row := 0, addr := 0 }] }

theorem witness_RdmaRequester : ((portS (peerQ 6)).qp 3).sent ≠ [] ∧ 6 < (portS (peerQ 6)).est.cfg.retryCnt ∧ (portS (peerQ 7)).est.cfg.retryCnt ≤ 7 ∧ (portS (peerQ 0)).coll.openColls = [] ∧
    ((portS (peerQ 0)).qp 3).lastCnp = none ∧ ((portS { peerQ 0 with lastCnp := some 0 }).nowNs < 0 + 1000 * (portS (peerQ 0)).est.cfg.cnpIntervalUs) ∧
    (peerQ 0).alpha.m ≤ 2 ^ (peerQ 0).alpha.k ∧ (portS (peerQ 0)).est.linkUp = true ∧ 5 ≤ (peerQ 0).stage ∧ hostQp.sent = [] ∧ State.reset.est.linkUp = false ∧
    hostQp.stage < 5 ∧ Qp.zero.phase ≠ 2 ∧ psnGap 6 4 + 1 = 3 ∧ ¬ 2 ^ 23 < 3 := by decide +kernel

theorem test_ack : gives (.rdmaAckReceived 3 4) (portS (peerQ 3)) (fun t => (t.qp 3).sent.map (fun r => (r.psn, r.pkts, r.retries)) == [(5, 1, 0), (6, 1, 0)]) = true ∧
    gives (.nakReceived 3 5) (portS (peerQ 0)) (fun t => ((t.qp 3).sent.map (fun r => r.psn), sentMsgs t, t.est.ctr.retransmits) == ([5, 6], [.retransmit 3 5], 2)) = true := by decide +kernel

theorem test_ack_timeout : gives (.ackTimeout 3) (portS (peerQ 6)) (fun t => (sentMsgs t, t.est.ctr.retransmits) == ([.retransmit 3 4], 3)) = true ∧
    gives (.ackTimeout 3) (portS (peerQ 7)) (fun t => ((t.qp 3).phase, t.est.ctr.qpErrors) == (3, 1)) = true := by decide +kernel

theorem test_congestion : gives (.cePacket 3) (portS (peerQ 0)) (fun t => (sentMsgs t, (t.qp 3).lastCnp) == ([.cnp 3], some 0)) = true ∧
    gives (.cnpReceived 3) (portS (peerQ 0)) (fun t => (decide ((t.qp 3).rate.m * 1 = 50 * 2 ^ (t.qp 3).rate.k), (t.qp 3).target, (t.qp 3).stage) == (true, ⟨100, 0⟩, 0)) = true ∧
    gives (.rateTimer 3) (portS (peerQ 0))
      (fun t => ((t.qp 3).target.m, (t.qp 3).target.k, (t.qp 3).rate.m, (t.qp 3).rate.k) == (205, 0, 305, 1)) = true ∧
    gives (.pauseFrame true) (portS (peerQ 0)) (fun t => t.est.ctr.pauseRx == 1) = true := by decide +kernel

/-! ### Fingerprints, connections, registers, records -/

/-- Rank 1 of `n` after a vote of all: rows under comparison and repairs as given. -/
def voteS (n : Nat) (fl : List CmpRow) (rep : List Repair) : State :=
  { collS (collE 0x5000 1 3 1 0 false) [] with
    coll := { GroupSt.zero with
              lastVote := some { group := groupOf 1 n 0, members := List.range n, collSeq := 0, window := 0 }, flipped := fl, repairs := rep,
              masters := [(9, 5, { TDesc.null with isNull := false, fmt := 2, base := shoalBase, winEnd := shoalBase + 0x100000, dims := [2, 1, 1, 1] })] } }

/-- Row 9 under comparison, the successor or the mirror asked about rank 0's fingerprint or not. -/
def cmpOf (ask : Option (Nat × W64)) : CmpRow := { row := 9, until200 := 200000000, marked := false, ask := ask, mirror := none, peer := none }

/-- The voting module of two with a partner on the ford link. -/
def pairS (fl : List CmpRow) : State := { voteS 2 fl [] with frd := { FrdSt.zero with linkUp := true, partnerPresent := true } }

/-- A repair of row 9 from rank 0 with one block to come. -/
def repairR : Repair := { row := 9, source := 0, ranges := [], reads := [(4, 0)], blocks := 1, complete := false }

/-- A repair of row 9 from rank 0 with one range of no block to compare. -/
def repairRange : Repair := { repairR with ranges := [(0, 1)], reads := [] }

theorem witness_Fingerprints : (voteS 3 [cmpOf none] []).voteSet = some (1, [0, 1, 2]) ∧ State.reset.voteSet = none ∧ ringNext [0, 1, 2] 0 = 1 ∧ (0 : Nat) ≠ 1 ∧ [0, 1, 2].contains 0 = true ∧
    ringNext [0, 1, 2] 1 = 2 ∧ ringNext [0, 1, 2] 2 ≠ 1 ∧ ringNext [0, 1, 2, 3] 3 ≠ 1 ∧ ringNext [0, 1, 2, 3] 1 ≠ 3 ∧ 3 ≤ [0, 1, 2].length ∧
    (voteS 3 [cmpOf none] []).replicaHeard 0 = true ∧ { voteS 3 [] [] with est := EstSt.zero }.replicaHeard 0 = false ∧ 0 ≠ mirrorRank ∧
    findFirst (fun (y : CmpRow) => decide (y.row = 9)) (voteS 3 [cmpOf none] []).coll.flipped = some (cmpOf none) ∧ (cmpOf none).peer = none ∧
    findFirst (fun (y : CmpRow) => decide (y.row = 9)) (voteS 3 [cmpOf (some (0, 5))] []).coll.flipped = some (cmpOf (some (0, 5))) ∧
    (∀ x ∈ (voteS 3 [] []).coll.flipped, x.row ≠ 9) ∧ ((voteS 3 [] []).row 9).fpCommitted = 0 ∧ (0 : W64) ≠ 6 ∧ (5 : W64) ≠ 6 ∧
    (∀ r ∈ (voteS 3 [] []).coll.repairs, r.row = 9 → r.complete = true) := by decide +kernel

theorem witness_Fingerprints_pair : (pairS [cmpOf none]).voteSet = some (1, [0, 1]) ∧ ringNext [0, 1] 0 = 1 ∧ (pairS []).frd.partnerPresent = true ∧
    (voteS 2 [cmpOf none] []).frd.partnerPresent = false ∧ (pairS [cmpOf none]).replicaHeard 0 = true ∧ (pairS []).replicaHeard mirrorRank = true ∧
    (voteS 2 [] []).replicaHeard mirrorRank = false ∧ (pairS []).coll.repairs = [] := by decide +kernel

theorem witness_Fingerprints_qp : (0 ≠ mirrorRank ∧ 2 ≠ mirrorRank) ∧ (lget (noQpn, false) (groupOf 1 3 0).entries 0).2 = false ∧ (lget (noQpn, false) (groupOf 1 3 0).entries 2).2 = false ∧
    (voteS 3 [] []).peerQp (lget (noQpn, false) (groupOf 1 3 0).entries 0).1 = true ∧ (voteS 3 [] []).peerQp (lget (noQpn, false) (groupOf 1 3 0).entries 2).1 = true := by decide +kernel

theorem witness_Bisect : (∀ r ∈ (voteS 3 [] []).coll.repairs, r.row ≠ 9) ∧ (voteS 3 [] []).replicaHeard 0 = true ∧
    findFirst (fun (y : Repair) => decide (y.row = 9) && decide (y.source = 0) && y.ranges.contains (0, 1)) (voteS 3 [] [repairRange]).coll.repairs = some repairRange ∧
    (voteS 3 [] [repairRange]).replicaHeard 0 = true := by decide +kernel

theorem witness_ReadResponse : findFirst (fun r => decide ((lget (noQpn, false) (groupOf 1 3 0).entries r.source).1 = 0) && r.reads.any (fun y => decide (y.1 = 4)))
      (voteS 3 [] [repairR]).coll.repairs = some repairR ∧ (voteS 3 [] [repairR]).train.token = none ∧ (voteS 3 [] [repairR]).est.linkUp = true ∧
    findFirst (fun (y : Nat × Nat) => decide (y.1 = 4)) repairR.reads = some (4, 0) ∧ ((voteS 3 [] [repairR]).rowBlocks false 9)[0]?.isSome = true := by decide +kernel

theorem test_fp : gives (.fpMsg 0 [(9, 0)]) (voteS 3 [cmpOf none] []) (fun t => (t.coll.flipped, t.est.ctr.fpRowsCompared, t.est.ctr.fpMismatch) == ([], 1, 0)) = true ∧
    gives (.fpMsg 0 [(9, 3)]) (voteS 3 [cmpOf none] [])
      (fun t => (t.coll.flipped.map (fun x => x.ask), (sentMsgs t).length, t.est.ctr.fpMismatch) == ([some (0, 3)], 1, 1)) = true ∧
    gives (.fpMsg 2 [(9, 6)]) (voteS 3 [cmpOf (some (0, 5))] []) (fun t => (t.coll.flipped.length, t.est.ctr.fpUnresolved) == (0, 1)) = true ∧
    gives (.fpMsg 2 [(9, 5)]) (voteS 3 [cmpOf (some (0, 5))] []) (fun t => (t.coll.flipped.length, t.coll.repairs.map (fun r => r.source)) == (0, [2])) = true := by decide +kernel

theorem test_fp_pair : gives (.fpMsg 0 [(9, 3)]) (pairS [cmpOf none]) (fun t => (t.coll.flipped.map (fun x => x.ask), t.est.ctr.fpMismatch) == ([some (0, 3)], 1)) = true := by decide +kernel

theorem test_bisect : gives (.bisect 0 9 0 0 []) (voteS 3 [] [])
    (fun t => (sentMsgs t).map (fun m => match m with
      | .collMsg dest kind gid _ data => (dest, kind, gid, data.drop 64)
      | _ => (9, 9, 9, [])) == [(0, 4, 77, leBytes 2 9 ++ leBytes 8 0)]) = true := by decide +kernel

theorem test_read_response : gives (.rdmaReadResponse 0 4 [1, 2, 3, 4, 5, 6, 7, 8, 9]) (voteS 3 [] [repairR])
    (fun t => (t.peekBytes shoalBase 9, t.coll.repairs.map (fun r => r.complete), t.est.ctr.fpRepairedBlocks) == ([1, 2, 3, 4, 5, 6, 7, 8, 0], [true], 1)) = true := by decide +kernel

/-- A module whose port is up, with connection 6 on QP 0x100 in the given phase. -/
def connS (phase : Nat) : State :=
  { State.reset with est := { EstSt.zero with linkUp := true, lanesInUse := [0], cfg := { EstCfg.zero with ipv6En := true }, qps := [(0x100, { Qp.zero with phase := phase, commId := 6 })] },
                     boot := { BootSt.zero with ready := true } }

theorem witness_Connections : let s := connS 1
    s.est.linkUp = true ∧ s.spw.asleep = false ∧ s.est.cfg.ipv4En = true ∧ s.est.cfg.ipv6En = true ∧ s.pins.removing = false ∧ s.boot.ready = true ∧ s.connQp 6 = some 0x100 ∧
    s.connQp 7 = none ∧ s.freeQp = some 0x101 ∧ s.coll.openColls = [] ∧ State.reset.boot.ready = false ∧ State.reset.connQp 6 = none := by decide +kernel

/-- A port whose training attempts are these, its tide source as given. -/
def trainS (a : List (List Nat)) (source : Nat) (lanes : List Nat) (wait : Bool) : State :=
  { State.reset with est := { EstSt.zero with attempts := a, lanesInUse := lanes, retrainDue := true }, tide := { TideSt.zero with source := source },
                     boot := { BootSt.zero with waitLock := wait } }

theorem witness_Link : (trainS [[0, 1], [2]] 0 [] true).est.attempts = [0, 1] :: [[2]] ∧ ([[2]].filter (fun (g : List Nat) => g.all (fun l => !([1] : List Nat).contains l))) ≠ [] ∧
    (trainS [[0]] 1 [] true).tide.source = 1 ∧ (trainS [[0]] 0 [] false).boot.waitLock = false ∧ (trainS [] 0 [0, 1] false).est.lanesInUse ≠ [] ∧
    (trainS [] 0 [0, 1] false).est.retrainDue = true ∧ (trainS [] 0 [0, 1] false).unitInReset 8 0 = false ∧ (trainS [] 0 [0, 1] false).est.linkUp = false := by decide

theorem test_link : gives .linkUp (trainS [[0, 1], [2]] 0 [] true) (fun t => (t.est.linkUp, t.est.lanesInUse, t.cap.portGbps) == (true, [0, 1], 400)) = true ∧
    gives (.portAttemptTimeout [1]) (trainS [[0, 1], [2]] 0 [] true) (fun t => (t.est.badLanes, t.est.attempts, t.est.attemptCount) == ([1], [[2]], 1)) = true ∧
    gives .linkUp (trainS [] 0 [0, 1] false) (fun t => (t.est.linkUp, t.est.retrainDue) == (true, false)) = true ∧
    gives .linkDown (connS 2) (fun t => (t.est.linkUp, t.est.ctr.linkDowns, t.est.retrainDue) == (false, 1, true)) = true ∧
    gives .linkRetrainTimer { trainS [] 0 [0, 1] false with est := { EstSt.zero with lanesInUse := [0] } } (fun t => t.est.retrainDue) = true := by decide +kernel

theorem test_cm : gives (.cmRtu 6) (connS 1) (fun t => (t.qp 0x100).phase == 2) = true ∧ gives (.cmDreq 6) (connS 2) (fun t => (sentMsgs t, (t.qp 0x100).phase) == ([.cmDrep 6], 0)) = true ∧
    gives (.cmReq 65535 6 false 4096 1 2 3) State.reset (fun t => t.out == []) = true ∧
    gives (.cmReq 65535 7 true 4096 11 12 13) (connS 1) (fun t => ((t.qp 0x101).phase, (t.qp 0x101).mtu, (t.qp 0x101).remoteQpn, (t.qp 0x101).peer) == (1, 4096, 11, true)) = true ∧
    gives (.cmReq 65535 6 true 4096 11 12 13) (connS 2) (fun t => ((t.qp 0x100).remoteQpn, sentMsgs t) == (11, [.cmRep 6 0x100 0 1024])) = true := by decide +kernel

theorem test_addresses : gives (.arpRequest 0 0 0) (connS 1) (fun t => t.out == [.arpReply 0 0]) = true ∧
    gives (.neighborSolicitation 0 0 0) (connS 1) (fun t => t.out == [.neighborAdvert 0 0]) = true ∧ gives (.arpRequest 1 0 0) (connS 1) (fun t => t.out == []) = true := by decide +kernel

/-- A module before or after stage 8 with 1,024 cores. -/
def regS (ready : Bool) : State := { State.reset with cap := { CapSt.zero with activeCores := 1024, near := List.range 128 }, boot := { BootSt.zero with ready := ready } }

theorem witness_Registers : (regS false).cap.activeCores ≤ 1024 ∧ (regS false).cap.activeCores ≤ 512 * 2 ∧ 1023 < (regS false).cap.activeCores ∧ (regS true).coreInReset 1023 = false ∧
    (regS true).boot.ready = true ∧ (regS false).boot.ready = false ∧ (regS false).jui.weights.length = 8 ∧ (regS false).inWindow 0 = true ∧
    ¬ ((regS false).inWindow 0x0E0000000000 = true ∨ csrBase ≤ 0x0E0000000000 ∧ 0x0E0000000000 < 0x0F0108000000) := by decide +kernel

theorem test_register_writes : gives (.registerWrite (0x0F0100004010 + 0x10000 * 1023) 0xFF) { regS true with cores := [(1023, { CoreSt.zero with vec := { VecSt.zero with flags := 0x21 } })] }
      (fun t => (t.core 1023).vec.flags.toNat == 0) = true ∧
    gives (.registerWrite (csrBase + 0x1000000 * 3) 0x02003213) (regS false) (fun t => (t.llc.pinQuota, t.llc.strictDead, t.llc.thrashPct, t.llc.thrashMarks) == (3, true, 50, 512)) = true ∧
    gives (.registerWrite (csrBase + 0x1000000 * 11) 0x24FFF) (regS false) (fun t => (t.spw.capW, t.spw.cutOrder) == (2400, [0, 1, 2])) = true ∧
    gives (.registerWrite (csrBase + 0x1000000 * 10) 0x000100C80002) (regS false) (fun t => (t.tide.source, t.tide.periodUs) == (2, 200)) = true ∧
    gives (.registerWrite (csrBase + 0x1000000 * 3) 0x02003213) (regS true) (fun t => t.llc.pinQuota == 8) = true := by decide +kernel

theorem test_unmapped : gives (.unmappedAccess 0x0E0000000000 false) (regS false) (fun t => t.gau.unmapped == 1) = true ∧ gives (.unmappedAccess 0 true) (regS false) (fun t => t.gau.unmapped == 0) = true := by
  decide +kernel

/-- An error record. -/
def errR : ErrRec := { cls := 1, action := 2, unit := 3, inst := 4, errSeq := 65536, tideCount := 0, phaseNs := 0, tideState := 0, rflags := 0, queue := 0, cmdSeq := 0, addr := 0, detail := 0, count := 1, atNs := 0 }

/-- Records waiting for the ring, the log and the ledger; the error ring at `base`. -/
def recS (base : Nat) (up : Bool) : State :=
  { cacheS [] with gau := { GauSt.zero with up := up, errRingBase := base, ringQueue := [errR], logPending := [(3, 1, [7])] }, boot := { BootSt.zero with ready := up },
                   jui := { JuiSt.zero with queued := [[1, 0, 2, 0, 0, 0, 0, 0]], ringBase := base } }

theorem witness_RecordWrites : (recS 0x1000 true).gau.up = true ∧ (recS 0x1000 true).spw.asleep = false ∧ (recS deepBase true).inWindow deepBase = false ∧ (recS 0x1000 true).cutLen 0x1000 64 = 64 ∧
    (∀ i, i < 64 → deviceOnly (0x1000 + i) = false) ∧ (recS 0x1000 true).jui.queued ≠ [] ∧ (recS 0x1000 true).boot.ready = true ∧ (recS 0x1000 false).boot.ready = false := by decide +kernel

theorem witness_RecordWrites_cache : (recS 0x1000 true).cacheOk := emptyCache_cacheOk _ rfl rfl (nearEnd_128 _ (List.length_range)) (deepEnd_none _ rfl) rfl

theorem test_error_ring : gives .errorRingWrite (recS 0x1000 true) (fun t => (t.peekBytes 0x1000 5, t.gau.ringQueue.length) == ([1, 0, 1, 2, 3], 0)) = true := by decide +kernel

theorem test_log_flash : gives .logFlashWrite (recS 0x1000 true) (fun t => (t.gau.log, t.gau.logPending, t.gau.logEntries) == ([(3, 1, [7])], [], 1)) = true := by decide +kernel

theorem test_ledger_idle : gives .ledgerRecordWrite (recS 0x1000 false) (fun t => t.jui.queued.length == 1) = true := by decide +kernel

/-! ### The tide, power, stops -/

/-- A running ledger and a tide as given, the port up. -/
def tideS (t : TideSt) : State :=
  { State.reset with tide := t, jui := { JuiSt.zero with running := true, acc := 0x2FFFF }, est := { EstSt.zero with linkUp := true } }

theorem witness_EnergyIsExact : (tideS .zero).jui.running = true ∧ (tideS .zero).tide.rest = false := by decide

theorem test_energy : gives (.meterSample 7 3) (tideS .zero) (fun t => t.jui.acc == 0x30006) = true ∧
    gives .tideMark (tideS .zero) (fun t => (t.jui.acc, t.jui.totalIn, t.tide.count) == (0xFFFF, 2, 1)) = true := by decide +kernel

/-- Announce data of a sender and grandmaster with the given first priority, one second apart. -/
def annOf (sender p1 : Nat) : Announce :=
  { sender := sender, priority1 := p1, clockClass := 6, accuracy := 32, variance := 0, priority2 := 128, grandmaster := sender, stepsRemoved := 0, logInterval := 0 }

/-- A foreign master heard twice at time 0. -/
def masterOf (sender p1 : Nat) : Foreign := { sender := sender, data := annOf sender p1, heard := [0, 0] }

/-- A tide with `n` offsets measured, its master sender 7; one that has locked was stepped. -/
def measT (st : Nat) (locked : Bool) (n : Nat) (good bad source : Nat) : TideSt :=
  { TideSt.zero with st := st, everLocked := locked, stepped := locked, offsets := List.replicate n 0, good := good, bad := bad, source := source, masters := [masterOf 7 1], master := some 7,
                     ppsOk := decide (source ≠ 0) }

theorem filter_bad (l : List Int) (n : Nat) : (if 1000 < (Config.tideFilter l).natAbs then n + 1 else 0) ≤ n + 1 := by split <;> omega

theorem witness_TideMeasures_heard : (tideS (measT 0 false 7 0 0 0)).tide.source ≠ 1 ∧ 0 = (tideS (measT 0 false 7 0 0 0)).tide.domain ∧ (tideS (measT 0 false 7 0 0 0)).est.linkUp = true ∧
    (tideS (measT 0 false 7 0 0 0)).jui.running = true ∧ (tideS (measT 0 false 7 0 0 0)).tide.master = some 7 ∧ (tideS (measT 0 false 7 0 0 0)).boot.waitLock = false ∧
    ({ measT 1 true 0 0 0 2 with syncSeq := some (4, 9) } : TideSt).syncSeq.map (fun x => x.1) = some 4 ∧ (tideS (measT 0 false 7 0 0 0)).boot.ready = false ∧
    (tideS (measT 0 false 7 0 0 1)).tide.source = 1 ∧ (tideS .zero).tide.ppsSeen = false ∧ State.reset.jui.running = false := by decide

theorem witness_TideMeasures_locked (o : Int) :
    ({ measT 1 true 8 0 2 0 with slewing := true } : TideSt).slewing = true ∧
    (let p := measT 1 true 8 0 2 0; p.st = 1 ∧ (if 1000 < (Config.tideFilter ((o :: p.offsets).take 8)).natAbs then p.bad + 1 else 0) < 4) ∧
    (∀ source ∈ [0, 2], let p := measT 1 true 8 0 3 source; p.st = 1 ∧ (1000 < (Config.tideFilter ((o :: p.offsets).take 8)).natAbs →
      4 ≤ (if 1000 < (Config.tideFilter ((o :: p.offsets).take 8)).natAbs then p.bad + 1 else 0))) ∧
    (measT 1 true 8 0 3 2).ptpOk = false ∧ (measT 1 true 8 0 3 2).ppsOk = true := by
  refine ⟨rfl, ⟨rfl, Nat.lt_of_le_of_lt (filter_bad _ _) (by decide)⟩, fun source _ => ⟨rfl, fun hb => ?_⟩, rfl, rfl⟩
  rw [if_pos hb]; exact Nat.le_refl 4

theorem witness_TideMeasures_cases :
    (let p := measT 0 false 6 0 0 0; p.st ≠ 1 ∧ p.stepped = false ∧ ((5 :: p.offsets).take 8).length < 8) ∧
    (let p := measT 0 false 7 0 0 0; p.st ≠ 1 ∧ p.stepped = false ∧ ((5 :: p.offsets).take 8).length = 8 ∧ p.count = 0 ∧ p.phaseNs = 0 ∧ p.periodUs = 100 ∧
      ((0 : Int) - 0) / 100000 = p.count ∧ (p.count : Int) < ((0 : Int) + 200000) / 100000 ∧ ((0 : Int) - 5) / 100000 < p.count ∧ (measT 0 false 7 0 0 1).source = 1) ∧
    (let p := measT 2 true 8 7 0 0; p.st ≠ 1 ∧ p.stepped = true ∧ 8 ≤ (if (100 : Int).natAbs ≤ 100 then p.good + 1 else 0)) ∧
    (let p := measT 2 true 8 7 0 2; p.st ≠ 1 ∧ (if (-101 : Int).natAbs ≤ 100 then p.good + 1 else 0) < 8 ∧ 100 < (-101 : Int).natAbs ∧ ((-101 :: p.offsets).take 8).length = 8 ∧
      p.slewing = false ∧ p.paused = false ∧ p.stepTo = none ∧ (-1000000 : Int).natAbs ≤ 1000000 ∧ (-1000001 : Int) < -1000000 ∧ (1000000 : Int) < 1000001) ∧
    (let p := measT 2 true 2 1 0 2; (if (3 : Int).natAbs ≤ 100 then p.good + 1 else 0) < 8 ∧ ((3 :: p.offsets).take 8).length < 8) ∧
    (let p := measT 2 true 8 7 0 2; p.source = 2 ∧ p.ppsOk = true ∧ p.everLocked = true ∧ (1000000 : Int).natAbs ≤ 1000000) := by decide

theorem test_sync_two_step : gives (.ptpSync 0 7 0 4 true 5 9) (tideS (measT 0 false 0 0 0 0)) (fun t => (t.tide.syncSeq.map (·.1), t.out) == (some 4, [.delayReq 4])) = true ∧
    gives (.ptpSync 0 8 0 4 true 5 9) (tideS (measT 0 false 0 0 0 0)) (fun t => t.out == []) = true := by
  decide +kernel

theorem test_follow_up : gives (.ptpFollowUp 0 7 4 5) (tideS { measT 0 false 0 0 0 0 with syncSeq := some (4, 9) }) (fun t => (t.tide.syncDelta, t.tide.offsets, t.tide.ptpOk) == (4, [4], true)) = true := by
  decide +kernel

theorem test_pps : gives (.tidePpsPulse 10001) (tideS { measT 0 true 0 0 0 1 with ppsSeen := true }) (fun t => t.tide.ppsReject == 1) = true ∧
    gives (.tidePpsPulse (-7)) (tideS { measT 0 true 0 0 0 1 with ppsSeen := true }) (fun t => t.tide.offsets == [-7]) = true ∧
    gives (.tidePpsPulse (-7)) (tideS { measT 0 true 0 0 0 0 with ppsOk := false }) (fun t => (t.tide.offsets, t.tide.ppsOk) == ([], true)) = true := by decide +kernel

/-- A COMMIT reached at mark 2 that acts at mark 3. -/
def dueS : State := { tideS { TideSt.zero with count := 2 } with train := { TrainSt.zero with token := some { queue := 0, seq := 5, reachMark := 2, tideMark := 3, acted := false } } }

theorem witness_TideMarks : (tideS .zero).train.token = none ∧ dueS.train.token = some { queue := 0, seq := 5, reachMark := 2, tideMark := 3, acted := false } ∧
    3 ≤ max (dueS.tide.count + 1) (dueS.tide.stepTo.getD 0) ∧ 2 < max (dueS.tide.count + 1) (dueS.tide.stepTo.getD 0) ∧ ({ dueS with tide := { TideSt.zero with rest := true } }).tide.rest = true ∧
    announceBeats (annOf 9 1) (annOf 7 2) = true ∧ announceBeats (annOf 9 2) (annOf 7 1) = false ∧ (masterOf 9 2).qualified 4000000000 = true ∧ (masterOf 9 2).qualified 4000000001 = false := by
  decide +kernel

theorem witness_TideMarks_masters : let s := tideS { TideSt.zero with masters := [masterOf 7 2], master := some 7 }
    s.tide.master = some 7 ∧ (∀ m ∈ s.tide.masters, s.tide.master = some m.sender ∨ m.qualified s.nowNs = false) ∧ (tideS (measT 1 true 1 0 0 2)).tide.ppsOk = true ∧
    (∀ a ∈ [masterOf 7 2, masterOf 9 1], ∀ b ∈ [masterOf 7 2, masterOf 9 1], a.data.grandmaster = b.data.grandmaster → a.data.priority1 = b.data.priority1) ∧
    (tideS { TideSt.zero with slewing := true, slewNs := 12 }).tide.slewNs = 12 ∧ (tideS .zero).boot.waitLock = false ∧ (tideS (measT 2 true 1 0 0 0)).tide.st = 2 := by decide +kernel

theorem test_mark_rests : gives .tideMark dueS (fun t => (t.tide.count, t.tide.rest) == (3, true)) = true ∧ gives .tideMark (tideS { TideSt.zero with stepTo := some 9, slewing := true, slewNs := 12 })
    (fun t => (t.tide.count, t.tide.slewNs, t.tide.rest) == (9, 2, false)) = true := by decide +kernel

theorem test_announce : gives (.ptpAnnounce 0 (annOf 9 1)) (tideS { TideSt.zero with masters := [masterOf 7 2, masterOf 9 1], master := some 7 }) (fun t => t.tide.master == some 9) = true ∧
    gives (.ptpAnnounce 0 (annOf 9 1)) (tideS { TideSt.zero with masters := [masterOf 7 2], master := some 7 }) (fun t => (t.tide.master, t.tide.masters.length) == (some 7, 2)) = true := by decide +kernel

theorem test_delay_resp : gives (.ptpDelayResp 0 7 4 30) (tideS { TideSt.zero with master := some 7, delayReq := some (4, 20), syncDelta := 6 }) (fun t => (t.tide.pathDelay, t.tide.delayReq) == (8, none)) = true := by
  decide +kernel

theorem test_tide_timeouts : gives .syncLossTimeout (tideS (measT 1 true 1 0 0 0)) (fun t => (t.tide.st, t.tide.offsets) == (2, [])) = true ∧
    gives .announceReceiptTimeout (tideS (measT 1 true 1 0 0 2)) (fun t => (t.tide.st, t.tide.masters, t.tide.master) == (1, [], none)) = true ∧
    gives .ppsAbsentTimeout (tideS (measT 1 true 1 0 0 1)) (fun t => (t.tide.st, t.tide.ppsOk) == (2, false)) = true ∧
    gives .holdoverTimeout (tideS (measT 2 true 1 0 0 0)) (fun t => t.tide.st == 3) = true ∧
    gives .tideLockTimeout { tideS .zero with boot := { BootSt.zero with waitLock := true, running := true, stage := 7 } }
      (fun t => (t.boot.stage, t.boot.waitLock, (tget [] t.boot.reports 7).length, t.gau.logPending.length) == (8, false, 128, 1)) = true := by decide +kernel

/-- The power controller as given, the gauge up. -/
def powS (x : SpwSt) : State := { State.reset with spw := x, gau := { GauSt.zero with up := true } }

theorem witness_PowerEvents : (powS .zero).spw.inFlight = none ∧ (powS { SpwSt.zero with inFlight := some (1000, 1050) }).spw.inFlight = some (1000, 1050) ∧ State.reset.gau.up = false ∧
    (powS .zero).gau.up = true ∧ (powS .zero).spw.stop ≠ 1 ∧ (powS { SpwSt.zero with stop := 1 }).spw.stop = 1 ∧ (powS { SpwSt.zero with stop := 1 }).spw.dead = false ∧
    (∃ v ∈ [(1361 : Int)].take 32, 1360 < v) ∧ 8 * 2800 * wattSample < (((8 * 2800 * wattSample + 1) :: (powS .zero).spw.samples).take 8).sum ∧
    ¬ 8 * 2800 * wattSample < (((8 * 2800 * wattSample) :: (powS .zero).spw.samples).take 8).sum ∧ (64 ≤ 64 ∧ 64 < 80 ∧ 1680 < lget (0 : Int) (List.replicate 64 0 ++ [1681]) 64) := by
  refine ⟨rfl, rfl, rfl, rfl, by decide, rfl, rfl, ⟨1361, by decide, by decide⟩, by decide +kernel, by decide +kernel, by decide⟩

theorem witness_DroopRelease : let others (x : SpwSt) := min x.lvPeak (min x.lvCurrent (min x.lvBucket (min x.lvSlow (min x.lvThermal x.lvCoolant))))
    (let x : SpwSt := { SpwSt.zero with lvDroop := 4 }; x.lvDroop + 1 < others x) ∧ (let x : SpwSt := { SpwSt.zero with lvDroop := 4, lvSlow := 5 }; others x ≤ x.lvDroop + 1) := by decide

theorem test_peak : gives (.meterSample (8 * 2800 * wattSample + 1) 0) (powS .zero) (fun t => (t.spw.lvPeak, t.spw.peakEvents) == (12, 1)) = true ∧
    gives (.meterSample (2400 * wattSample + 9) 0) (powS .zero) (fun t => (t.spw.bucket, t.spw.peakEvents) == (9, 0)) = true := by decide +kernel

theorem test_dvfs : gives .dvfsStepInForce (powS { SpwSt.zero with freq := 1000, target := 1100, inFlight := some (1000, 1050) }) (fun t => (t.spw.freq, t.spw.inFlight, t.spw.stepsUp) == (1050, none, 1)) = true := by
  decide +kernel

theorem test_droop : gives .droopDetect (powS { SpwSt.zero with freq := 1000, target := 1100, inFlight := some (1000, 1050) })
      (fun t => (t.spw.lvDroop, t.spw.inFlight, t.spw.target, t.spw.droopCancels) == (4, some (1000, 1000), 1000, 1)) = true ∧
    gives .droopRelease (powS { SpwSt.zero with lvDroop := 15 }) (fun t => t.spw.lvDroop == 16) = true ∧
    gives .droopRelease (powS { SpwSt.zero with lvDroop := 4, lvSlow := 9 }) (fun t => t.spw.lvDroop == 5) = true := by decide +kernel

theorem test_readings : gives (.railSample [(1, 2)]) (powS .zero) (fun t => (tget (0, 0) t.gau.rails 0, tget (0, 0) t.gau.rails 8) == ((1, 2), (0, 0))) = true ∧
    gives (.tempSample [5] [6]) (powS .zero) (fun t => (tget 0 t.gau.temps 0, tget 0 t.gau.memTemps 0, t.gau.tempsValid) == (5, 6, true)) = true ∧
    gives (.tempSample [] [1361]) (powS { SpwSt.zero with stop := 1 }) (fun t => t.spw.dead) = true ∧
    gives (.tempSample (List.replicate 64 0 ++ [1681]) []) (powS { SpwSt.zero with stop := 1 }) (fun t => t.spw.dead) = true := by decide +kernel

/-- A module after stage 8 with its flow as given. -/
def flowS (flow : Bool) (x : SpwSt) : State :=
  { State.reset with boot := { BootSt.zero with ready := true, stage := 8 }, spw := x, pins := { PinSt.zero with flowOk := flow, p3v3 := true, switchOn := true, pwrSense := true, enable := true },
                     cap := { CapSt.zero with activeCores := 16 }, gau := { GauSt.zero with up := true }, mem := [(1, 5), (shoalBase, 6)], weirs := [(1, { Weir.zero with gen := 2 })] }

theorem witness_StopEvents : (flowS true .zero).boot.ready = true ∧ (flowS true .zero).spw.stop = 0 ∧ (flowS true { SpwSt.zero with stop := 1 }).hottest ≤ 960 ∧ State.reset.boot.running = false ∧
    (∀ e ∈ [((3 : Nat), (8 : Nat))], e.2 ≤ 8) ∧ (flowS true { SpwSt.zero with slack := 3 }).spw.slack = 3 ∧ (flowS true { SpwSt.zero with slack := 1 }).spw.slack = 1 ∧
    (flowS true .zero).gau.up = true ∧ (flowS true .zero).pins.switchOn = true ∧ (flowS true .zero).boot.running = false := by decide +kernel

theorem witness_SlackEntry : (flowS true { SpwSt.zero with slack := 1 }).tablesOk ∧ (flowS true { SpwSt.zero with slack := 1 }).cacheOk :=
  ⟨by refine ⟨?_, ?_, ?_⟩ <;> decide, emptyCache_cacheOk _ rfl rfl (by decide) (deepEnd_none _ rfl) rfl⟩

theorem test_flow_lost : gives .flowOkDeassert (flowS true { SpwSt.zero with freq := 1000 })
    (fun t => (t.spw.stop, t.spw.freq, t.pins.flowOk, t.mem, t.weirs.length) == (1, 0, false, [(1, 5)], 1)) = true := by decide +kernel

theorem test_flow_back : gives .flowOkAssert { flowS false .zero with nowNs := 9 } (fun t => (t.pins.flowOk, t.spw.flowAt) == (true, 9)) = true := by decide +kernel

theorem test_hold_ends : gives .coolantHoldTimeout (flowS false { SpwSt.zero with stop := 1 }) (fun t => (t.spw.dead, t.mem, t.weirs, t.boot.ready) == (true, [], [], false)) = true := by decide +kernel

theorem test_resume : gives (.coolantResume 0 []) { flowS true { SpwSt.zero with stop := 1 } with rst := { active := [(2, 0)], parked := [], merged := 0 } }
    (fun t => (t.spw.stop, t.spw.freq, t.rst.active, t.weirs.length) == (0, 1000, [], 1)) = true := by decide +kernel

theorem test_slack : gives (.slackWakeEnd 0 []) (flowS true { SpwSt.zero with slack := 3, slackFreq := 950 }) (fun t => (t.spw.slack, t.spw.freq) == (0, 950)) = true ∧
    gives .slackEntryDone (flowS true { SpwSt.zero with slack := 1, freq := 950 }) (fun t => (t.spw.slack, t.spw.freq, t.peek shoalBase) == (2, 0, 6)) = true := by decide +kernel

theorem test_trip : gives (.thermalTrip 3) { flowS true .zero with gau := GauSt.zero } (fun t => (t.spw.stop, t.spw.dead) == (2, true)) = true ∧
    gives (.thermalTrip 3) (flowS true .zero) (fun t => (t.spw.stop, t.spw.dead, t.spw.trips, t.mem, t.boot.ready) == (2, true, 1, [], false)) = true := by decide +kernel

/-! ### Resets and bring-up -/

/-- A module after stage 8, or before, with a reset in progress or none, a command held on core 3, whose entry is `e`. -/
def scopeS (ready : Bool) (active : List (Nat × Nat)) (e : WakeEntry) : State :=
  { reached e with boot := { BootSt.zero with ready := ready }, rst := { active := active, parked := [], merged := 0 },
                   cores := [(3, { CoreSt.zero with holder := some (0, 5), scratch := [(1, 1)], mx := { MxSt.zero with busy := true, checkEn := false } })] }

/-- A GEMM that core 3 runs, replayed `n` times. -/
def runE (n : Nat) : WakeEntry := { entryOf { cmdOf 0x1000 0 5 [] with coreFirst := 3 } with started := true, phase := 1, replays := n }

theorem witness_ScopedResets : let s := scopeS true [] (runE 1)
    (scopeS false [] (runE 1)).boot.ready = false ∧ s.boot.ready = true ∧ (∃ r ∈ [((2 : Nat), (0 : Nat))], resetWithin 0 3 r.1 r.2 = true) ∧
    s.cap.activeCores ≤ 1024 ∧ 3 < s.cap.activeCores ∧ s.cap.activeCores ≤ 16 * 64 ∧ 16 * 63 < s.cap.activeCores ∧ s.cap.activeCores ≤ 512 * 2 ∧ 512 * 1 < s.cap.activeCores ∧
    s.entry 0 5 = some (runE 1) ∧ s.resetEnds 0 3 (runE 1) = true ∧ s.resetEnds 1 0 (runE 1) = true ∧ s.resetEnds 2 0 (runE 1) = true ∧ (runE 1).ended = false ∧
    (runE 1).mayReplay = true ∧ (runE 2).mayReplay = false ∧ inScope 0 3 3 = true ∧ inScope 1 0 15 = true ∧ inScope 2 0 511 = true := by
  refine ⟨rfl, rfl, ⟨(2, 0), by decide, by decide⟩, ?_⟩; decide +kernel

theorem witness_ScopedResets_tables : (scopeS true [] (runE 1)).tablesOk ∧ ∀ k, ((scopeS true [] (runE 1)).core k).dma = DmaSt.zero := by
  refine ⟨⟨by decide +kernel, by decide +kernel, by decide⟩, fun k => ?_⟩
  simp [State.core, scopeS, tget]; split <;> rfl

theorem witness_Subsystems : ([2, 3, 4, 5, 6, 7, 8, 9, 10].all ownReset, ownReset 11, ownReset 0) = (true, false, false) := by decide

theorem witness_ResetComplete : (scopeS true [(2, 0), (3, 770)] (runE 0)).rst.active.contains (2, 0) = true ∧ (scopeS true [] (runE 0)).rst.active.contains (2, 0) = false ∧
    (scopeS true [] (runE 0)).spw.stop = 0 ∧ ({ SpwSt.zero with stop := 1 } : SpwSt).stop ≠ 0 := by decide

/-- The same command, ended. -/
def endedE : WakeEntry := { runE 0 with ended := true, started := false, phase := 0 }

theorem witness_WakeLogReplay : (scopeS true [] endedE).entry 0 5 = some endedE ∧ (scopeS true [] endedE).canReplay endedE = true ∧ (scopeS true [(0, 3)] endedE).canReplay endedE = false ∧
    (scopeS true [] endedE).entry 0 6 = none ∧ (scopeS true [] endedE).jui.running = false := by decide +kernel

theorem test_core_reset : gives (.coreReset 3) (scopeS true [] (runE 1)) (fun t => (t.rst.active, (t.core 3).scratch, (t.core 3).mx.busy, (t.core 3).mx.checkEn, (t.entry 0 5).map (fun e => e.ended))
      == ([(0, 3)], [(1, 1)], false, false, some true)) = true ∧
    gives (.clusterReset 0) (scopeS true [] (runE 2)) (fun t => (t.rst.active, (t.entry 0 5).map (fun e => (e.ended, e.ran, e.code))) == ([(1, 0)], some (false, true, 0x11))) = true ∧
    gives (.partitionReset 0) (scopeS true [(0, 3)] (runE 1)) (fun t => t.rst.active == [(2, 0)]) = true ∧ gives (.coreReset 3) (scopeS true [(2, 0)] (runE 1)) (fun t => t.rst.merged == 1) = true ∧
    gives (.coreReset 3) (scopeS false [] (runE 1)) (fun t => (t.rst.active, t.gau.logPending.length) == ([], 1)) = true := by decide +kernel

theorem test_subsystem_reset : gives (.subsystemReset 2 0) (scopeS true [] (runE 1)) (fun t => t.rst.active == [(3, 512)]) = true ∧
    gives (.subsystemReset 10 0) { scopeS true [] (runE 1) with tide := { TideSt.zero with st := 1, ptpOk := true, masters := [masterOf 7 1], master := some 7 } }
      (fun t => (t.tide.st, t.tide.ptpOk, t.tide.masters, t.tide.master) == (2, false, [], none)) = true := by
  decide +kernel

theorem test_reset_complete : gives (.resetComplete 2 0) (scopeS true [(2, 0)] (runE 1)) (fun t => (t.rst.active, t.boot.resets) == ([], [0, 0, 1, 0, 0])) = true := by decide +kernel

theorem test_replay : gives (.wakeLogReplay 0 5) (scopeS true [] endedE) (fun t => (t.entry 0 5).map (fun e => (e.ended, e.replays)) == some (false, 1)) = true := by decide +kernel

/-- A module whose site 2 serves cluster 40. -/
def siteS (ready : Bool) (g : LaneGroup) : State :=
  { scopeS ready [] (runE 0) with oxb := { OxbSt.zero with sites := [(2, { SiteSt.zero with cluster := 40, linkOk := true })], lanes := tset LaneGroup.zero [] 11 g, pendingReset := [(1, 90, false)] },
                                  gau := { GauSt.zero with up := true }, pins := { PinSt.zero with enable := true } }

theorem witness_Faults : let s := siteS true .zero
    s.spw.asleep = false ∧ s.scopeOf 0 1 = .at 2 1 ∧ s.scopeInReset (s.scopeOf 0 1) = false ∧ s.scopeOf 7 4 = .warm ∧ s.warmAllowed = true ∧ (siteS false .zero).warmAllowed = false ∧
    tget LaneGroup.zero (siteS true { spares := 3, retired := false }).oxb.lanes (2 * 4 + 3) = { spares := 3, retired := false } ∧
    tget LaneGroup.zero (siteS true { spares := 4, retired := false }).oxb.lanes (2 * 4 + 3) = { spares := 4, retired := false } ∧ (tget SiteSt.zero s.oxb.sites 2).cluster = 40 ∧
    s.coldAllowed = true ∧ State.reset.coldAllowed = false := by decide +kernel

theorem test_watchdog : gives (.txnWatchdogExpire 0 1 0) (siteS true .zero) (fun t => (t.rst.active, t.gau.errRecords) == ([(2, 1)], 1)) = true ∧
    gives (.livenessTimeout 0 1) (siteS false .zero) (fun t => (t.rst.active, t.gau.errRecords) == ([], 1)) = true := by decide +kernel

theorem test_lanes : gives (.vlaneFail false 2 3 0) (siteS true { spares := 3, retired := false }) (fun t => tget LaneGroup.zero t.oxb.lanes 11 == { spares := 4, retired := false }) = true ∧
    gives (.vlaneFail false 2 3 0) (siteS true { spares := 4, retired := false }) (fun t => (tget LaneGroup.zero t.oxb.lanes 11).retired && t.oxb.pendingReset.any (fun r => r.1 == 1)) = true ∧
    gives (.oxbowResetDeadline 1) (siteS true .zero) (fun t => t.oxb.pendingReset == [(1, 0, false)]) = true := by decide +kernel

theorem test_warm_reset : gives .warmReset (siteS true .zero) (fun t => (t.boot.stage, t.boot.warm, t.boot.running, t.cores.length, t.oxb.sites.length, t.jui.bootCount) == (2, true, true, 0, 1, 1)) = true := by
  decide +kernel

theorem test_cold_reset : gives .coldReset (siteS true .zero) (fun t => (t.boot.stage, t.boot.running, t.oxb.sites.length, t.gau.up) == (0, true, 0, true)) = true ∧
    gives .coldReset State.reset (fun t => t.boot.running == false) = true := by decide +kernel

/-- A manifest with four images and no signature bytes. -/
def maniM : Manifest :=
  { hwMask := 1, images := List.replicate 4 { offset := 0, len := 0, version := 0, sha := [] }, coreLimit := 2048, portLimit := 1600, fp64Allowed := true, hormiAllowed := true, pairedAllowed := true,
    scaleHeadroom := 1, lrScaleMax := 6, calibration := [], config := [], configSig := [], operatorKey := [], mac := 0, ipv4 := 0, ipv4Len := 0, ipv6 := 0, pairKey := 0, side := false,
    mirrorBase := 0, raw := [], sig := [] }

/-- Its bank, which lists it as tested. -/
def bankI : BankImage := { manifest := maniM, imageSha := List.replicate 4 [], listVersion := 0, listEntries := [(bundleOf maniM, 1)], listRaw := [], listSig := [] }

/-- A flash with that bank twice. -/
def flashF : FlashImage := { hwRevision := 0, golden := .A, trial := none, tries := 0, bankA := bankI, bankB := bankI, licenceArea := [], oxbow := none }

/-- Whether a bank boots turns on the signature check, whose keys the manual does not give. -/
theorem witness_Headwater : (Config.keyVerify 0 [] [] [] = true → chooseBank flashF (fun b => !(false && decide (b ≠ flashF.golden))) = some (.A, 0, flashF)) ∧
    (Config.keyVerify 0 [] [] [] = false → chooseBank flashF (fun b => !(false && decide (b ≠ flashF.golden))) = none) := by
  constructor <;> intro h <;>
    simp [chooseBank, chooseBank.rest, bankCheck, bankOf, flashF, bankI, maniM, h, otherBank, bundleTested, flashTested, bankList, bitOf]

/-- Bring-up in a stage. -/
def stageS (n : Nat) (warm : Bool) : State :=
  { State.reset with boot := { BootSt.zero with running := true, stage := n, warm := warm }, pins := { PinSt.zero with flowOk := true },
                     oxb := { OxbSt.zero with sites := if warm then (List.range 32).map (fun k => (k, { SiteSt.zero with linkOk := true, pass := 3 })) else [] } }

theorem witness_BringUpToTheMap : (stageS 0 false).boot.running = true ∧ (stageS 0 false).boot.waitLock = false ∧ (stageS 1 false).pins.flowOk = true ∧ (stageS 0 false).boot.trialBoot = false ∧
    (stageS 4 true).boot.warm = true ∧ 32 ≤ (stageS 4 true).healthySites := by decide +kernel

theorem witness_SelfTest : 32 ≤ ((List.range 128).filter (fun k => !([0] : List Nat).contains k && decide (16 ≤ ((List.range 18).filter (fun i => !([] : List Nat).contains (k * 18 + i))).length))).length ∧
    ((List.range 128).filter (fun k => decide (96 < k) && decide (16 ≤ ((List.range 18).filter (fun i => !([] : List Nat).contains (k * 18 + i))).length))).length < 32 := by decide +kernel

theorem test_rails : gives (.railsAndClocks 256 0) (stageS 1 false) (fun t => (t.boot.stage, t.spw.freq, t.jui.running, t.jui.seq, (tget [] t.boot.reports 1).length) == (2, 0, true, 1, 128)) = true ∧
    gives (.railsAndClocks 1 0) (stageS 1 false) (fun t => (t.boot.stage, t.boot.failed, t.boot.running) == (1, true, false)) = true := by decide +kernel

theorem test_base_die : gives (.baseDie [(3, 5)] 0 none) (stageS 2 false) (fun t => ((t.slice 3).waysOff, t.boot.stage) == (5, 3)) = true ∧
    gives (.baseDie [] 0 (some 3)) (stageS 2 false) (fun t => t.boot.failed) = true := by decide +kernel

/-- Training of a lane group: failed lanes and failed spares. -/
def laneT (shoal : Bool) (inst group dead deadSpares : Nat) : LaneTraining := { shoal := shoal, inst := inst, group := group, dead := dead, deadSpares := deadSpares }

theorem witness_VerticalLinks : let gs := [laneT false 1 3 3 1, laneT false 2 0 1 4, laneT true 2303 7 5 0]
    (∀ g ∈ gs, g.deadSpares ≤ 4) ∧ (stageS 3 false).boot.running = true ∧ (stageS 3 false).boot.stage = 3 ∧ (stageS 3 false).boot.waitLock = false ∧ (stageS 4 false).boot.stage ≠ 3 := by decide

theorem test_vertical : gives (.verticalLinks [laneT false 1 3 3 1, laneT false 2 0 1 4, laneT true 2303 7 5 0]) (stageS 3 false)
    (fun t => (t.boot.shortSites, t.boot.shortCores, t.boot.stage, (tget LaneGroup.zero t.oxb.lanes 7).spares) == ([2], [2303], 4, 4)) = true := by decide +kernel

theorem test_map_kept : gives (.computeAndShoal []) (stageS 4 true) (fun t => (t.boot.stage, t.oxb == (stageS 4 true).oxb) == (5, true)) = true := by decide +kernel

theorem witness_BringUpToReady : (stageS 5 false).boot.trialBoot = false ∧ (stageS 6 true).healthySites ≠ 0 ∧ (stageS 6 true).passes 1 = true ∧ (stageS 6 true).passes 2 = false ∧
    (stageS 7 false).boot.licPort ≠ 1600 ∧ (stageS 7 false).boot.licPaired = false ∧ (stageS 8 false).boot.running = true ∧ (stageS 8 false).boot.waitLock = false := by decide +kernel

theorem test_memory : gives (.memoryStage (List.range 128) [0]) (stageS 5 false) (fun t => (t.cap.near.length, t.cap.deep.length, t.boot.stage, t.memKeys.length) == (128, 95, 6, 16)) = true ∧
    gives (.memoryStage (List.range 129) []) (stageS 5 false) (fun t => (t.boot.failed, t.boot.stage) == (true, 5)) = true := by decide +kernel

/-- A core that takes one chunk of one byte, 0x61. -/
def loadS (hash : List Byte) : State :=
  { stageS 6 true with boot := { (stageS 6 true).boot with cores := [(1, { FshCore.zero with chunks := 1, hash := hash })] } }

theorem test_freshet_begin : gives (.freshetBegin 1 3 [9]) (stageS 6 true) (fun t => (tget FshCore.zero t.boot.cores 1).chunks == 2) = true := by decide +kernel

theorem test_freshet_chunk : gives (.freshetChunk 1 0 0xC1D04330 [0x61]) (loadS (beBytes 32 0xCA978112CA1BBDCAFAC231B39A23DC4DA786EFF8147C4E72B9807785AFEE48BB))
      (fun t => ((tget FshCore.zero t.boot.cores 1).result, t.boot.hashFails) == (1, 0)) = true ∧
    gives (.freshetChunk 1 0 0 [0x61]) (loadS []) (fun t => t.boot.crcErrors == 1) = true := by decide +kernel

theorem test_ethernet : gives (.ethernetAndTide [] []) (stageS 7 false) (fun t => (t.est.linkUp, t.est.lanesInUse, t.boot.waitLock, t.frd.linkUp) == (true, [0, 1, 2, 3], true, false)) = true ∧
    gives (.ethernetAndTide [3] []) (stageS 7 false) (fun t => (t.est.linkUp, t.est.attempts.head?) == (false, some [0, 1, 2, 3])) = true ∧
    gives (.ethernetAndTide [] []) { stageS 7 false with boot := { BootSt.zero with running := true, stage := 7, licPaired := true } } (fun t => (t.frd.linkUp, t.frd.helloWait, t.frd.lanesInUse) == (false, true, 255)) = true := by
  decide +kernel

/-! ### The gauge and the pins -/

/-- A heard gauge with an update session or none, and a flash. -/
def sbS (x : Option Session) (bad : Bool) (f : Option FlashImage) : State :=
  { State.reset with gau := { GauSt.zero with up := true, session := x, badBank := bad, log := [(3, 1, [7]), (4, 1, [8])] }, pins := { PinSt.zero with p3v3 := true, switchOn := true },
                     boot := { BootSt.zero with ready := true, flash := f }, cap := { CapSt.zero with activeCores := 16 } }

/-- A session at a stage. -/
def sessX (n : Nat) : Session := { staging := false, stage := n, components := [1], current := 0, len := 0, sha := [], received := 0, failed := false }

theorem witness_SidebandReads : (sbS none false none).gau.up = true ∧ (sbS none false none).pins.p3v3 = true ∧ (sbS none false none).gau.sbMode = false ∧
    ({ GauSt.zero with sbMode := true } : GauSt).sbMode = true ∧ ¬ (State.reset.gau.up = true ∧ State.reset.pins.p3v3 = true) ∧ 63 ∈ [0, 2, 4, 5, 63] ∧ 1 ∉ [0, 2, 4, 5, 63] ∧
    (sbS none false none).gau.events ≠ [(sbS none false none).spw.reason] ∧ ({ GauSt.zero with events := [State.reset.spw.reason] } : GauSt).events = [State.reset.spw.reason] := by decide +kernel

/-- What a request is answered with. -/
def told (c : Instr) (s : State) : List OutMsg := (after c s).out

theorem test_sideband : told .getEndpointId (sbS none false none) = [.sideband (sbCode 64 2) [0]] ∧ told .getMessageTypeSupport (sbS none false none) = [.sideband (sbCode 64 5) [0, 1]] ∧
    told .getPldmTypes (sbS none false none) = [.sideband (sbCode 0 4) [0x35, 0, 0, 0, 0, 0, 0, 0x80]] ∧ told (.getPdr 138) (sbS none false none) = [.sideband (sbCode 2 0x51) [138, 0]] ∧
    told (.getPdr 139) (sbS none false none) = [.sidebandError (sbCode 2 0x51)] ∧ told .getPdrRepositoryInfo (sbS none false none) = [.sideband (sbCode 2 0x50) [139, 0, 0, 0]] ∧
    told (.getSensorReading 139) (sbS none false none) = [.sidebandError (sbCode 2 0x11)] ∧ told (.getSensorReading 136) (sbS none false none) = [.sideband (sbCode 2 0x11) [0, 0, 0, 0]] ∧
    told .getFruRecordTable (sbS none false none) = [.sideband (sbCode 4 2) fruRecord] ∧ told .getFruRecordTableMetadata (sbS none false none) = [.sideband (sbCode 4 1) [10, 0, 0, 0]] := by
  decide +kernel

theorem test_sideband_state : gives (.i3cDaa 0x185) (sbS none false none) (fun t => t.gau.dynAddr == 5) = true ∧ gives (.setEndpointId 9) (sbS none false none) (fun t => t.gau.eid == 9) = true ∧
    gives .pollForPlatformEventMessage (sbS none false none) (fun t => (t.gau.events, t.out) == ([0], [.sideband (sbCode 2 0x0B) [0]])) = true ∧
    told (.readLog 4) (sbS none false none) = [.sideband (sbCode 63 6) (entryBytes (4, 1, [8]))] ∧ told (.readStage 9) (sbS none false none) = [.sidebandError (sbCode 63 7)] ∧
    told (.readStage 8) (sbS none false none) = [.sideband (sbCode 63 7) []] ∧ told (.getPldmCommands 0) (sbS none false none) = [.sideband (sbCode 0 5) (0x3C :: List.replicate 31 0)] ∧
    told (.getPldmVersion 1) (sbS none false none) = [.sidebandError (sbCode 0 3)] ∧ (told (.getPldmVersion 0) (sbS none false none)).length = 1 ∧
    (told (.getMctpVersionSupport 1) (sbS none false none)).length = 1 ∧ (told .getEndpointUuid (sbS none false none)).length = 1 ∧ (told .getTid (sbS none false none)).length = 1 := by
  decide +kernel

theorem witness_FirmwareUpdate : (sbS (some (sessX 2)) false none).gau.session = some (sessX 2) ∧ (sessX 2).failed = false ∧ (sbS none false none).gau.updating = false ∧
    (sbS (some (sessX 2)) false none).gau.updating = true ∧ (sbS none false none).updateStage = 99 ∧ (sbS (some (sessX 5)) false none).updateStage = 5 ∧
    (sbS (some { sessX 2 with failed := true }) false none).gau.updating = false ∧ (sessX 1).components.contains 1 = true ∧ (sessX 1).components.contains 2 = false ∧
    134217728 < 134217729 ∧ (sbS (some (sessX 5)) false (some flashF)).boot.flash = some flashF ∧ ([] : List Byte).length ≠ 32 := by decide +kernel

/-- Whether a written bank is good, and a bundle tested, turns on the signature check. -/
theorem witness_FirmwareUpdate_signed : (Config.keyVerify 0 [] [] [] = true → Config.keyVerify 0 [] bankI.manifest.raw bankI.manifest.sig = true ∧
      bankI.imageSha = bankI.manifest.images.map (fun i => i.sha) ∧ bundleTested flashF (bundleOf (bankOf flashF .B).manifest) = true) ∧
    (Config.keyVerify 0 [] [] [] = false → bundleTested flashF (bundleOf (bankOf flashF .B).manifest) = false) := by
  constructor <;> intro h <;> simp [bundleTested, flashTested, bankList, bankOf, flashF, bankI, maniM, h, bitOf]

theorem test_update_stages : gives .requestUpdate (sbS none false none) (fun t => t.gau.session.map (fun x => x.stage) == some 0) = true ∧
    told .requestUpdate (sbS (some (sessX 0)) false none) = [.sideband (sbCode 5 0x10) [0x81]] ∧
    [(Instr.passComponentTable [4], 0, 1), (.updateComponent 1, 1, 2), (.transferComplete 0, 2, 3), (.verifyComplete 0, 3, 4), (.applyComplete 0, 4, 5), (.cancelUpdateComponent, 4, 1)].all (fun x =>
      gives x.1 (sbS (some (sessX x.2.1)) false none) (fun t => t.gau.session.map (fun y => y.stage) == some x.2.2)) = true ∧
    gives (.transferComplete 1) (sbS (some (sessX 2)) false none) (fun t => t.gau.session.map (fun y => y.failed) == some true && t.gau.badBank) = true ∧
    gives (.requestFirmwareData 5 [1, 2]) (sbS (some (sessX 2)) false none) (fun t => t.gau.session.map (fun y => y.received) == some 7) = true ∧
    gives .cancelUpdate (sbS (some (sessX 5)) false none) (fun t => t.gau.session == none) = true ∧ told .getStatus (sbS (some (sessX 3)) false none) = [.sideband (sbCode 5 0x1B) [3, 0, 0, 0, 0, 0]] ∧
    told (.verifyComplete 0) (sbS (some (sessX 2)) false none) = [.sidebandError (sbCode 5 0x17)] ∧ told .activateFirmware (sbS (some (sessX 4)) false (some flashF)) = [.sidebandError (sbCode 5 0x1A)] ∧
    gives (.updateFromStaging 134217728 (List.replicate 32 0)) (sbS none false (some { flashF with trial := some .B }))
      (fun t => (t.gau.session.map (fun x => (x.stage, x.staging)), t.gau.badBank, t.boot.flash.map (fun f => f.trial)) == (some (2, true), true, some none)) = true ∧
    told (.updateFromStaging 134217729 (List.replicate 32 0)) (sbS none false none) = [.sidebandError (sbCode 63 8)] := by decide +kernel

theorem test_program_done : gives (.updateProgramDone { bankI with listVersion := 9 } false) (sbS (some (sessX 2)) false (some flashF))
    (fun t => (t.boot.flash.map (fun f => (f.bankA.listVersion, f.bankB.listVersion)), t.gau.session.map (fun x => x.failed)) == (some (0, 9), some true)) = true := by decide +kernel

theorem witness_SecurityRequests : (sbS none false none).gau.debugOpen = false ∧ (List.replicate 32 (0 : Byte)).length = 32 ∧ (sbS none false none).resetAllowed 0 15 = true ∧
    (sbS none false none).resetAllowed 0 16 = false ∧ (sbS none false none).resetAllowed 4 0 = true ∧ (sbS none false none).resetAllowed 5 0 = false ∧
    ({ sbS none false none with pins := { PinSt.zero with p3v3 := true, switchOn := true, enable := true } }).resetAllowed 5 0 = true ∧ (sbS none false none).resetAllowed 3 513 = true ∧
    (sbS none false none).warmAllowed = true ∧ JtagOp.idcode ≠ JtagOp.other ∧ (sbS none false none).pins.switchOn = true ∧ State.reset.gau.up = false ∧
    ({ SpwSt.zero with slack := 2 } : SpwSt).slack = 2 := by decide +kernel

/-- A token of 128 bytes for this device and a challenge of zeros; whether it is good turns on the signature check. -/
def tokenT : List Byte := [1, 0, 7, 0, 0, 0, 0, 0] ++ (deviceId ++ (List.replicate 8 0 ++ List.replicate 96 0))

theorem token_of (d : List Byte) (h : d.length = 16) (t : List Byte) (ht : t = [1, 0, 7, 0, 0, 0, 0, 0] ++ (d ++ (List.replicate 8 0 ++ List.replicate 96 0))) :
    t.length = 128 ∧ fieldAt t 0 2 = 1 ∧ (t.drop 8).take 16 = d ∧ (t.drop 32).take 32 = List.replicate 32 0 := by
  subst ht
  refine ⟨by simp [h], by simp [fieldAt, leVal], by simp [h], ?_⟩
  have h0 : List.drop 24 d = [] := List.drop_eq_nil_of_le (by omega)
  simp only [List.drop_append, h]
  simp [h0]

theorem witness_DebugUnlock : tokenT.length = 128 ∧ fieldAt tokenT 0 2 = 1 ∧ (tokenT.drop 8).take 16 = deviceId ∧ (tokenT.drop 32).take 32 = List.replicate 32 0 :=
  token_of deviceId Laws.deviceId_length tokenT rfl

theorem test_attestation_refused : told (.getAttestation [1]) (sbS none false none) = [.sidebandError (sbCode 63 1)] := by decide +kernel

theorem test_challenge : gives .getChallenge (sbS none false none) (fun t => t.gau.challenge.map (fun c => c.length) == some 32) = true ∧
    gives .challengeExpire { sbS none false none with gau := { GauSt.zero with challenge := some [] } } (fun t => t.gau.challenge == none) = true ∧
    told (.debugUnlock []) (sbS none false none) = [.sidebandError (sbCode 63 3)] := by decide +kernel

theorem test_sb_reset : gives (.sbReset 0 15) (sbS none false none) (fun t => t.rst.active == [(0, 15)]) = true ∧ gives (.sbReset 4 0) (sbS none false none) (fun t => (t.boot.stage, t.boot.warm) == (2, true)) = true ∧
    told (.sbReset 0 16) (sbS none false none) = [.sidebandError (sbCode 63 4)] := by decide +kernel

theorem test_sb_slack : gives (.sbSlack false) (sbS none false none) (fun t => t.spw.slackReq) = true ∧
    gives (.sbSlack true) { sbS none false none with spw := { SpwSt.zero with slack := 2 } } (fun t => t.spw.slack == 3) = true := by decide +kernel

theorem test_jtag : gives (.jtagInstruction .other) { sbS none false none with mem := [(1, 1)], memKeys := [5] } (fun t => (t.mem, t.memKeys, t.gau.warmHeld, t.boot.ready) == ([], [], true, false)) = true ∧
    gives (.jtagInstruction .idcode) (sbS none false none) (fun t => t == sbS none false none) = true := by decide +kernel

theorem test_gauge_watchdog : gives .gaugeWdogExpire (sbS none false none) (fun t => (t.gau.up, t.gau.wdogRestarts) == (false, 1)) = true ∧
    gives .gaugeRestartDone { sbS none false none with gau := { GauSt.zero with bedQueue := [errR] } } (fun t => (t.gau.up, t.gau.ringQueue.length, t.gau.logPending.length) == (true, 1, 1)) = true := by
  decide +kernel

/-- Pins as given. -/
def pinS (p : PinSt) : State := { sbS none false none with pins := p, mem := [(1, 1)] }

/-- Every pin low but these. -/
def pinP (sense enable on latched : Bool) : PinSt := { PinSt.zero with pwrSense := sense, enable := enable, switchOn := on, latched := latched, p3v3 := true }

theorem witness_PinEvents : (pinS (pinP true true true false)).pins.switchOn = true ∧ (pinS (pinP true false false true)).pins.latched = true ∧ (pinS (pinP false false false false)).pins.pwrSense = false ∧
    (pinS (pinP true true false false)).pins.enable = true ∧ State.reset.pins.p3v3 = false ∧ (pinS (pinP true true true false)).boot.ready = true ∧ State.reset.boot.ready = false ∧
    (pinS (pinP true true true false)).pins.p3v3 = true := by decide +kernel

theorem test_insertion : gives .pwrSenseMake (pinS (pinP false false false false)) (fun t => (t.pins.switchOn, t.gau.up, t.boot.running) == (true, true, false)) = true ∧
    gives .pwrSenseMake (pinS (pinP false true false false)) (fun t => (t.pins.switchOn, t.boot.running, t.mem) == (true, true, [])) = true ∧
    gives .enableAssert (pinS (pinP true false true false)) (fun t => (t.pins.enable, t.boot.running) == (true, true)) = true := by decide +kernel

theorem test_removal : gives .pwrSenseBreak (pinS (pinP true true true false)) (fun t => (t.pins.switchOn, t.pins.pwrSense, t.mem, t.gau.up) == (false, false, [], false)) = true ∧
    gives .enableDeassert (pinS (pinP true true true false)) (fun t => (t.pins.removeRdy, t.pins.enable, t.mem, t.boot.ready) == (true, false, [], false)) = true ∧
    gives .p3v3AuxLoss (pinS (pinP true true true false)) (fun t => (t.pins.removeRdy, t.pins.p3v3) == (true, false)) = true := by decide +kernel

theorem test_input : gives .inputUndervoltage (pinS (pinP true true true false)) (fun t => (t.pins.switchOn, t.pins.latched) == (false, false)) = true ∧
    gives .inputOvervoltage (pinS (pinP true true true false)) (fun t => (t.pins.switchOn, t.pins.latched) == (false, false)) = true ∧
    gives .inputOvercurrent (pinS (pinP true true true false)) (fun t => (t.pins.switchOn, t.pins.latched) == (false, true)) = true ∧
    gives .inputRecovered (pinS (pinP true true false true)) (fun t => t.pins.switchOn == false) = true ∧
    gives .inputRecovered (pinS (pinP true true false false)) (fun t => (t.pins.switchOn, t.boot.running) == (true, true)) = true := by decide +kernel

/-! ### What the commands on tensors compute, and the basin -/

theorem one_group (g : OpenGroup) : ∀ k z, k ≠ 0 → lget none [some g, none, none, none] k = some z → False
  | 0, _, h, _ => h rfl
  | 1, _, _, h => by simp [lget] at h
  | 2, _, _, h => by simp [lget] at h
  | 3, _, _, h => by simp [lget] at h
  | k + 4, _, _, h => by simp [lget] at h

theorem witness_BasinSteps_rows : [groupG 0 1, groupG 1 1, { groupG 1 1 with mismatch := true }].all (fun g => let s := basinS { BsnSt.zero with groups := [some g, none, none, none] }
    decide (0 < gemmQ.unitPasses 0) && decide (gemmQ.unitPasses 0 = 2) && decide (gemmQ.unitRows 0 = 2) && decide (s.spw.level ≠ 0) && s.mayLand gemmQ gemmE 0 g && !gemmE.ended &&
    decide (gemmE.gemmP.map (fun p => p.onCore s 0) = some gemmQ) && decide (g.replays < 2)) = true ∧ ∀ k z, k ≠ 0 → lget none [some (groupG 1 1), none, none, none] k = some z → False :=
  ⟨by decide +kernel, one_group _⟩

theorem witness_GroupOpen_free : lget none ((basinS .zero).core 0).bsn.groups 0 = none ∧ 0 < ((basinS .zero).core 0).bsn.groups.length ∧ gemmQ.slotOf 0 gemmE.cmd.coreCount = 0 := by
  decide +kernel

/-- A binary32 tensor of `r` rows of `k` elements in slab 0, 4,096 bytes a place. -/
def rows32 (k r at' : Nat) : TDesc := { f32T at' with rank := 2, dims := [k, r, 1, 1], strides := [2048, 0, 0] }

/-- The GEMM with ROWMAX, its statistics in a fourth tensor. -/
def statE : WakeEntry := entryOf { cmdOf 0x1000 0 5 [0, 0, 0, 0, 0x10] with tensors := [bf16T 64 0, bf16T 64 1, bf16T 2 2, rows32 2 8 3] }

theorem shoal_cacheOk (e : WakeEntry) : (reached e).cacheOk := emptyCache_cacheOk _ rfl rfl (by simp [State.nearEnd, reached, CapSt.zero, deepBase]) (deepEnd_none _ rfl) rfl

theorem witness_TensorResults_gemm : [0x1000, 0x1001, 0x1002, 0x1003, 0x1004].all (fun op => let e := { statE with cmd := { statE.cmd with opcode := op } }
      ((reached e).matrixReady 0 5 op == some e) && e.tiles.isEmpty && e.planes.isEmpty) = true ∧
    (∀ k, ((reached statE).core k).bsn.open' 0 5 = [] ∧ ∀ d ∈ ((reached statE).core k).bsn.drain, ¬ (d.queue = 0 ∧ d.seq = 5)) ∧
    (gemmParams 0x1000 statE.cmd.tensors statE.cmd.params true).1.c = bf16T 2 2 ∧ (gemmParams 0x1000 statE.cmd.tensors statE.cmd.params true).1.e = rows32 2 8 3 ∧
    (gemmParams 0x1000 statE.cmd.tensors statE.cmd.params true).1.rowmax = true ∧ (gemmParams 0x1000 statE.cmd.tensors statE.cmd.params true).1.tiles = 1 ∧
    (reached statE).writable (bf16T 2 2) ∧ (bf16T 2 2).disjoint (rows32 2 8 3) :=
  ⟨by decide +kernel, fun _ => ⟨rfl, fun _ h => absurd h List.not_mem_nil⟩, by decide +kernel, by decide +kernel, by decide +kernel, by decide +kernel,
    writable_of (shoal_cacheOk _) (by decide) (by decide +kernel) (by decide) (by decide +kernel), disjoint_of (by decide) (by decide) (by decide) (by decide) (by decide +kernel)⟩

/-- An ATTN_BLOCK of two queries and two keys of two elements, its statistics in an extra tensor, or in mode 1. -/
def attnE (mode : Byte) : WakeEntry := entryOf { cmdOf 0x1010 0 5 [mode] with tensors := [bf16T 2 0, bf16T 2 1, bf16T 2 2, rows32 2 2 3], extras := [rows32 2 2 4] }

theorem witness_TensorResults_attn : [(0 : Byte), 1].all (fun m => let e := attnE m
      ((reached e).matrixReady 0 5 0x1010 == some e) && (attnParams (reached e) e.cmd.tensors (lget TDesc.null e.cmd.extras 0) e.cmd.params).1.live &&
      (attnParams (reached e) e.cmd.tensors (lget TDesc.null e.cmd.extras 0) e.cmd.params).1.o == rows32 2 2 3 &&
      (attnParams (reached e) e.cmd.tensors (lget TDesc.null e.cmd.extras 0) e.cmd.params).1.stats == rows32 2 2 4 &&
      (attnParams (reached e) e.cmd.tensors (lget TDesc.null e.cmd.extras 0) e.cmd.params).1.probs == decide (m = 1)) = true ∧
    (reached (attnE 0)).writable (rows32 2 2 3) ∧ (reached (attnE 1)).writable (rows32 2 2 3) ∧ (reached (attnE 0)).writable (rows32 2 2 4) ∧ (rows32 2 2 3).disjoint (rows32 2 2 4) :=
  ⟨by decide +kernel, writable_of (shoal_cacheOk _) (by decide) (by decide +kernel) (by decide) (by decide +kernel),
    writable_of (shoal_cacheOk _) (by decide) (by decide +kernel) (by decide) (by decide +kernel), writable_of (shoal_cacheOk _) (by decide) (by decide +kernel) (by decide) (by decide +kernel),
    disjoint_of (by decide) (by decide) (by decide) (by decide) (by decide +kernel)⟩

/-- A COPY of two by two elements to a tensor, or to a stream. -/
def copyE (stream : Bool) : WakeEntry := entryOf { cmdOf 0x3001 0 5 [] with tensors := [bf16T 2 0], extras := [{ rows32 2 2 1 with stream := stream }] }

theorem witness_TensorResults_copy : [true, false].all (fun b => let e := copyE b
      ((reached e).ready 0 5 0x3001 == some e) && ((reached e).shares e.cmd).all (fun sh => (((reached e).core sh.2).dma.placeShare 0 5).shareStarts 0 5) &&
      !(bf16T 2 0).isNull && !(bf16T 2 0).stream && (lget TDesc.null e.cmd.extras 0).stream == b && !(lget TDesc.null e.cmd.extras 0).isNull) = true ∧
    (let e := copyE false; (copyFields e.cmd.params (lget TDesc.null e.cmd.extras 0)).1.1 = 0 ∧
      0 < copyEnd 0 (copyFields e.cmd.params (lget TDesc.null e.cmd.extras 0)).1.2 (min (bf16T 2 0).count (lget TDesc.null e.cmd.extras 0).count)) ∧
    (reached (copyE false)).writable (rows32 2 2 1) :=
  ⟨by decide +kernel, by decide +kernel, writable_of (shoal_cacheOk _) (by decide) (by decide +kernel) (by decide) (by decide +kernel)⟩

/-- An INT32 tensor. -/
def rowsI (k r at' : Nat) : TDesc := { rows32 k r at' with fmt := 0x0B }

/-- A ROUTE of two tokens over four experts. -/
def routeE : WakeEntry := entryOf { cmdOf 0x4000 0 5 [] with tensors := [rows32 4 2 0, rowsI 4 4 2, rowsI 4 2 8, rowsI 4 3 10] }

theorem witness_TensorResults_route : (reached routeE).ready 0 5 0x4000 = some routeE ∧ (reached routeE).dlt.busyQueue = none ∧ (reached routeE).unitInReset 2 0 = false ∧
    (reached routeE).routeWaits routeE = false ∧ (let p := (routeParams (reached routeE) routeE.cmd.tensors TDesc.null []).1
      p.bad = false ∧ p.e = 4 ∧ p.ntok = 2 ∧ p.k = 2 ∧ 0 < p.c + p.spill ∧ p.disp = rowsI 4 4 2 ∧ p.comb = rowsI 4 2 8 ∧ p.cnt = rowsI 4 3 10) ∧
    (reached routeE).writable (rowsI 4 4 2) ∧ (reached routeE).writable (rowsI 4 2 8) ∧ (reached routeE).writable (rowsI 4 3 10) ∧
    (rowsI 4 4 2).disjoint (rowsI 4 2 8) ∧ (rowsI 4 4 2).disjoint (rowsI 4 3 10) ∧ (rowsI 4 2 8).disjoint (rowsI 4 3 10) :=
  ⟨by decide +kernel, rfl, by decide +kernel, by decide +kernel, by decide +kernel,
    writable_of (shoal_cacheOk _) (by decide) (by decide +kernel) (by decide) (by decide +kernel), writable_of (shoal_cacheOk _) (by decide) (by decide +kernel) (by decide) (by decide +kernel),
    writable_of (shoal_cacheOk _) (by decide) (by decide +kernel) (by decide) (by decide +kernel), disjoint_of (by decide) (by decide) (by decide) (by decide) (by decide +kernel),
    disjoint_of (by decide) (by decide) (by decide) (by decide) (by decide +kernel), disjoint_of (by decide) (by decide) (by decide) (by decide) (by decide +kernel)⟩

/-- A DISPATCH of two experts' slots of two tokens, or a COMBINE of two tokens. -/
def moveE (op : Nat) (params : List Byte) : WakeEntry := entryOf { cmdOf op 0 5 params with tensors := [bf16T 2 0, rowsI 4 2 1, rows32 2 2 2, rowsI 4 2 3] }

/-- Y of three dimensions: two slots of two elements for each of two experts. -/
def yT : TDesc := { rows32 2 2 2 with rank := 3, dims := [2, 2, 2, 1], strides := [2048, 4096, 0] }

theorem witness_TensorResults_moves : [(0x4001, [(0 : Byte)]), (0x4001, [1]), (0x4002, [0, 0]), (0x4002, [0, 1])].all (fun x => let e := moveE x.1 x.2
      ((reached e).ready 0 5 x.1 == some e) && !(lget TDesc.null e.cmd.tensors 2).isNull && !(listTensor (lget TDesc.null e.cmd.tensors 1)).1.isNull &&
      !(listTensor (lget TDesc.null e.cmd.tensors 3)).1.isNull) = true ∧
    (reached (moveE 0x4002 [])).writable (rows32 2 2 2) ∧ (reached (moveE 0x4001 [])).writable yT :=
  ⟨by decide +kernel, writable_of (shoal_cacheOk _) (by decide) (by decide +kernel) (by decide) (by decide +kernel), writable_of (shoal_cacheOk _) (by decide) (by decide +kernel) (by decide) (by decide +kernel)⟩

end Sys2Proof.Tests
end

section
/-! Where the control and status space puts the per-core blocks and the SEQ_ and UPD_ blocks, and what those blocks do when the active count
leaves their core or partition out (R28, R29). -/

namespace Sys2Proof.Proofs.Registers

open Sys2Proof Sys2Proof.Machine

/-! ### Addresses (R28) -/

/-- The address of the register at `off` in the blocks of logical core `c`. -/
def coreAddr (c off : Nat) : Nat := 0x0F0100000000 + 0x10000 * c + off

/-- The address of the register at `off` in bed-die block `b`, in the part of it that partition `p` has. -/
def partAddr (b p off : Nat) : Nat := csrBase + 0x1000000 * b + 0x100000 * p + off

/-- A core's address lies in the per-core space and gives back its core and its offset. -/
theorem coreAddr_decode {c off : Nat} (hc : c < 2048) (ho : off < 0x10000) :
    0x0F0100000000 ≤ coreAddr c off ∧ coreAddr c off < 0x0F0108000000 ∧ (coreAddr c off - 0x0F0100000000) / 0x10000 = c ∧
      coreAddr c off % 0x10000 = off := by
  unfold coreAddr
  omega

/-- A partition's address lies in the space of the bed-die blocks, below the per-core space, and gives back its block and its offset there. -/
theorem partAddr_decode {b p off : Nat} (hb : b < 16) (hp : p < 4) (ho : off < 0x100000) :
    csrBase ≤ partAddr b p off ∧ partAddr b p off < csrBase + 0x10000000 ∧ partAddr b p off < 0x0F0100000000 ∧
      (partAddr b p off - csrBase) / 0x1000000 = b ∧ partAddr b p off % 0x1000000 = 0x100000 * p + off := by
  unfold partAddr csrBase
  omega

/-- The offset in a block gives back the partition and the offset in that partition's part. -/
theorem partOffset_decode {p off : Nat} (ho : off < 0x100000) :
    (0x100000 * p + off) / 0x100000 = p ∧ (0x100000 * p + off) % 0x100000 = off := by
  omega

/-! ### Reads -/

theorem readReg_coreAddr (s : State) {c off : Nat} (hc : c < 2048) (ho : off < 0x10000) :
    s.readReg (coreAddr c off) = BitVec.ofNat 64 (s.readCoreBlock c off) := by
  obtain ⟨hlo, hhi, hcore, hoff⟩ := coreAddr_decode hc ho
  unfold State.readReg
  rw [if_pos ⟨hlo, hhi⟩, hcore, hoff]

/-- The two bed-die blocks that repeat for each partition are SEQ_, block 0, and UPD_, block 7. -/
theorem readReg_partAddr (s : State) {b p off : Nat} (hb : b = 0 ∨ b = 7) (hp : p < 4) (ho : off < 0x100000) :
    s.readReg (partAddr b p off) = BitVec.ofNat 64 (if b = 0 then s.readSeq p off else s.readUpd p off) := by
  obtain ⟨hlo, hhi, hcore, hblock, hoff⟩ := partAddr_decode (b := b) (by omega) hp ho
  obtain ⟨hpart, hinst⟩ := partOffset_decode (p := p) ho
  unfold State.readReg
  rw [if_neg (fun h => absurd hcore (Nat.not_lt.mpr h.1)), if_pos ⟨hlo, hhi⟩, hblock, hoff]
  rcases hb with rfl | rfl <;> simp [hpart, hinst, hp]

/-! ### Blocks that the active count leaves out (R29) -/

/-- A partition that starts at or beyond the active count has no active core. -/
theorem partCores_eq_zero {s : State} {p : Nat} (h : s.cap.activeCores ≤ 512 * p) : s.partCores p = 0 := by
  unfold State.partCores
  omega

theorem readCoreBlock_eq_zero {s : State} {c : Nat} (off : Nat) (h : s.cap.activeCores ≤ c) : s.readCoreBlock c off = 0 := by
  unfold State.readCoreBlock
  exact if_pos (.inl h)

theorem readSeq_eq_zero {s : State} {p : Nat} (off : Nat) (h : s.partCores p = 0) : s.readSeq p off = 0 := by
  unfold State.readSeq
  exact if_pos h

theorem readUpd_eq_zero {s : State} {p : Nat} (off : Nat) (h : s.partCores p = 0) : s.readUpd p off = 0 := by
  unfold State.readUpd
  exact if_pos h

theorem idlePartBlock_partAddr {s : State} {b p off : Nat} (hb : b = 0 ∨ b = 7) (hp : p < 4) (ho : off < 0x100000) (h : s.partCores p = 0) :
    s.idlePartBlock (partAddr b p off) = true := by
  obtain ⟨hlo, -, -, hblock, hoff⟩ := partAddr_decode (b := b) (by omega) hp ho
  obtain ⟨hpart, -⟩ := partOffset_decode (p := p) ho
  simp [State.idlePartBlock, hlo, hblock, hoff, hpart, hb, hp, h]

/-- A register write answers as its meaning does. -/
theorem exec_registerWrite (a : Nat) (v : BitVec 64) (s : State) : exec (.registerWrite a v) s = execRegisterWrite a v s := rfl

/-- A write to a block of a core beyond the active count changes nothing. -/
theorem execRegisterWrite_coreAddr {s : State} {c off : Nat} (v : BitVec 64) (hc : c < 2048) (ho : off < 0x10000) (h : s.cap.activeCores ≤ c) :
    execRegisterWrite (coreAddr c off) v s = .next s := by
  obtain ⟨hlo, hhi, hcore, -⟩ := coreAddr_decode hc ho
  exact if_pos (by simp [hlo, hhi, hcore, h])

/-- A write to the SEQ_ or UPD_ block of a partition without an active core changes nothing. -/
theorem execRegisterWrite_idlePartBlock {s : State} {a : Nat} (v : BitVec 64) (h : s.idlePartBlock a = true) :
    execRegisterWrite a v s = .next s :=
  if_pos (by simp [h])

theorem yields_self_of_exec_eq {c : Instr} {s : State} (h : exec c s = .next s) : Yields c s (fun t => t = s) := ⟨s, h, rfl⟩

/-! ### The obligation -/

theorem coreBeyond_reads_zero_and_ignores {s : State} {c off : Nat} (v : BitVec 64) (hc : c < 2048) (h : s.cap.activeCores ≤ c) (ho : off < 0x10000) :
    s.readReg (coreAddr c off) = 0 ∧ Yields (.registerWrite (coreAddr c off) v) s (fun t => t = s) := by
  constructor
  · rw [readReg_coreAddr s hc ho, readCoreBlock_eq_zero off h]
    rfl
  · exact yields_self_of_exec_eq ((exec_registerWrite _ v s).trans (execRegisterWrite_coreAddr v hc ho h))

theorem idlePart_reads_zero_and_ignores {s : State} {p off b : Nat} (v : BitVec 64) (hp : p < 4) (h : s.partCores p = 0) (ho : off < 0x100000)
    (hb : b = 0 ∨ b = 7) :
    s.readReg (partAddr b p off) = 0 ∧ Yields (.registerWrite (partAddr b p off) v) s (fun t => t = s) := by
  constructor
  · rw [readReg_partAddr s hb hp ho, readSeq_eq_zero off h, readUpd_eq_zero off h, ite_self]
    rfl
  · have hidle := idlePartBlock_partAddr hb hp ho h
    exact yields_self_of_exec_eq ((exec_registerWrite _ v s).trans (execRegisterWrite_idlePartBlock v hidle))

/-- Settles O45: an address of the per-core space decodes to its core, one of SEQ_ or UPD_ to its partition, and both the read and the write
test the active count before anything else. -/
theorem registersBeyondActiveCores : Obligations.RegistersBeyondActiveCores := by
  intro s v
  constructor
  · intro c off hc h ho
    exact coreBeyond_reads_zero_and_ignores v hc h ho
  · intro p off b hp h ho hb
    exact idlePart_reads_zero_and_ignores v hp (partCores_eq_zero h) ho hb

end Sys2Proof.Proofs.Registers
end

section
/-! What arrivals and arms leave in the weirs, and what ending a command's work leaves in the wake log (R50, R56). -/

namespace Sys2Proof.Proofs.Weirs

open Sys2Proof Sys2Proof.Machine Sys2Proof.Laws

/-! ### The wake log when one command is done (R46, R56) -/

/-- An entry is one command's only. -/
theorem isFor_unique {e : WakeEntry} {q n q' n' : Nat} (h : e.isFor q n = true) (h' : e.isFor q' n' = true) : (q', n') = (q, n) := by
  simp only [WakeEntry.isFor, Bool.and_eq_true, decide_eq_true_eq] at h h'
  rw [← h.1, ← h.2, ← h'.1, ← h'.2]

/-- A search passes over a map that keeps what it looks for and leaves every hit alone. -/
theorem findFirst_map_of_fixes_hits {α : Type} {p : α → Bool} {g : α → α} (hp : ∀ a, p (g a) = p a) (hg : ∀ a, p a = true → g a = a) (l : List α) :
    findFirst p (l.map g) = findFirst p l := by
  induction l with
  | nil => rfl
  | cons a l ih =>
    rw [List.map_cons, findFirst, findFirst, hp, ih]
    split
    · next hit => rw [hg a hit]
    · rfl

/-- Changing one command's entry leaves every other command's entry as it was. -/
theorem entry_modEntry_other (s : State) {q n q' n' : Nat} (f : WakeEntry → WakeEntry) (hf : ∀ e, (f e).cmd = e.cmd) (hne : (q', n') ≠ (q, n)) :
    (s.modEntry q n f).entry q' n' = s.entry q' n' := by
  simp only [State.entry, State.modEntry, seqr_modSeq]
  by_cases hpart : q' / 64 = q / 64
  · rw [if_pos hpart, hpart]
    refine findFirst_map_of_fixes_hits (fun e => ?_) (fun e hit => if_neg fun h => hne (isFor_unique h hit)) _
    split
    · simp only [WakeEntry.isFor, hf]
    · rfl
  · rw [if_neg hpart]

/-- The end of one command's work leaves every other command's entry as it was. -/
theorem entry_ran_other (s : State) {q n q' n' : Nat} (code : Nat) (result : List Byte) (effects : List RowEffect) (hne : (q', n') ≠ (q, n)) :
    (s.ran q n code result effects).entry q' n' = s.entry q' n' :=
  entry_modEntry_other s _ (fun _ => rfl) hne

/-- A command whose work is done with no row effects is finished, when what it did before left the wake log alone. -/
theorem finished_ran {s r : State} {q n code : Nat} {e : WakeEntry} {result : List Byte} (hlog : r.seqs = s.seqs) (he : s.entry q n = some e) :
    Finished s (r.ran q n code result []) q n e code result := by
  have hsame : ∀ q' n', r.entry q' n' = s.entry q' n' := fun q' n' => by rw [State.entry, State.entry, State.seqr, State.seqr, hlog]
  constructor
  · rw [entry_ran, hsame, he, Option.map_some, List.append_nil]
  · intro q' n' hne
    exact (entry_ran_other r code result [] hne).trans (hsame q' n')

/-! ### One arrival, one arm (R50) -/

/-- An arrival at weir `i` is one arrival there and none at any other weir. -/
theorem arriveWeir_weirs_read (s : State) (i : Nat) :
    (s.arriveWeir i).weir i = (s.weir i).arrive ∧ ∀ k, k ≠ i → (s.arriveWeir i).weir k = s.weir k :=
  ⟨(weir_arriveWeir s i i).trans (if_pos rfl), fun k hk => (weir_arriveWeir s i k).trans (if_neg hk)⟩

/-- An arm of weir `i`, the first operation of its cycle there, arms the weir as it stood, and arms no other weir. -/
theorem armWeir_weirs_read (s : State) (i target key : Nat) :
    ((tget WeirOps.zero s.weirOps i).at' ≠ s.nowNs + 1 → (s.armWeir i target key).weir i = (s.weir i).arm target) ∧
      ∀ k, k ≠ i → (s.armWeir i target key).weir k = s.weir k :=
  ⟨weir_armWeir_first s i target key, fun k hk => (weir_armWeir s i target key k).trans (if_neg hk)⟩

/-! ### What the two commands and the two register writes answer -/

theorem exec_weirArrive_of_ready {s : State} {q n : Nat} {e : WakeEntry} (h : s.ready q n 3 = some e) :
    exec (.weirArrive q n) s = .next ((s.arriveWeir (fieldAt e.cmd.params 0 2)).ran q n 0 [] []) := by
  change execWeirArrive q n s = _
  rw [execWeirArrive, h]

theorem exec_weirArm_of_ready {s : State} {q n : Nat} {e : WakeEntry} (h : s.ready q n 2 = some e) :
    exec (.weirArm q n) s = .next ((s.armWeir (fieldAt e.cmd.params 0 2) (fieldAt e.cmd.params 2 2) q).ran q n 0 [] []) := by
  change execWeirArm q n s = _
  rw [execWeirArm, h]

/-- INDEX is the low half of a register's low word. -/
theorem fld_index (v : BitVec 64) : fld v 15 0 = v.toNat % 65536 :=
  congrArg (· % 65536) (Nat.div_one v.toNat)

/-- TARGET is the high half of a register's low word. -/
theorem fld_target (v : BitVec 64) : fld v 31 16 = v.toNat / 65536 % 65536 := rfl

theorem exec_weirArriveWrite_of_served {s : State} {core : Nat} (v : BitVec 64) (h : s.servedCore core = true) :
    exec (.weirArriveWrite core v) s = .next (s.arriveWeir (v.toNat % 65536)) := by
  rw [← fld_index]
  exact if_pos h

theorem exec_weirArmWrite_of_served {s : State} {core : Nat} (v : BitVec 64) (h : s.servedCore core = true) :
    exec (.weirArmWrite core v) s = .next (s.armWeir (v.toNat % 65536) (v.toNat / 65536 % 65536) (256 + core)) := by
  rw [← fld_index, ← fld_target]
  exact if_pos h

/-! ### The obligation -/

/-- Settles O21: each command and each register write is one arrival or one arm of the weir it names; a command besides ends its own entry. -/
theorem weirArrivals : Obligations.WeirArrivals := by
  intro s q n e
  refine ⟨fun h => ?arrive, fun h => ?arm, fun core v h => ?arriveWrite, fun core v h => ?armWrite⟩
  case arrive =>
    obtain ⟨hentry, -⟩ := ready_entry h
    exact ⟨_, exec_weirArrive_of_ready h, arriveWeir_weirs_read s _, finished_ran rfl hentry, rfl⟩
  case arm =>
    obtain ⟨hentry, -⟩ := ready_entry h
    exact ⟨_, exec_weirArm_of_ready h, armWeir_weirs_read s _ _ q, finished_ran rfl hentry, rfl⟩
  case arriveWrite =>
    exact ⟨_, exec_weirArriveWrite_of_served v h, arriveWeir_weirs_read s _, rfl⟩
  case armWrite =>
    exact ⟨_, exec_weirArmWrite_of_served v h, armWeir_weirs_read s _ _ (256 + core), rfl⟩

end Sys2Proof.Proofs.Weirs
end

section
/-! SUPPORT. What leaves the ledger alone: writes to memory, cache and tensors, flits and packets. Each lemma reads the field `jui` after an operation, as
those of Laws/State do. -/

namespace Sys2Proof.Proofs.LedgerFrame

open Sys2Proof Sys2Proof.Machine Sys2Proof.Laws

/-! ### Folds -/

/-- What every step of a fold leaves alone, the fold leaves alone. -/
theorem foldl_reads {σ α β : Type} (p : σ → β) {f : σ → α → σ} (h : ∀ s x, p (f s x) = p s) (l : List α) (s : σ) : p (l.foldl f s) = p s := by
  induction l generalizing s with
  | nil => rfl
  | cons x t ih => exact (ih (f s x)).trans (h s x)

@[simp] theorem foldl_jui {α : Type} {f : State → α → State} (h : ∀ s x, (f s x).jui = s.jui) (l : List α) (s : State) : (l.foldl f s).jui = s.jui :=
  foldl_reads State.jui h l s

variable (s : State)

/-! ### Memory and cache -/

@[simp] theorem modCtl_jui (a : Nat) (f : MemCtl → MemCtl) : (s.modCtl a f).jui = s.jui := by
  unfold State.modCtl
  dsimp only
  split <;> rfl

@[simp] theorem memStore_jui (a : Nat) (bs : List Byte) : (s.memStore a bs).jui = s.jui := by
  induction bs generalizing s a with
  | nil => rfl
  | cons b t ih => exact (ih (s.memSet a b) (a + 1)).trans (memSet_jui s a b)

@[simp] theorem burstWrite_jui (a : Nat) (mask : Nat → Bool) (vals : Nat → Byte) (on : Bool) : (s.burstWrite a mask vals on).jui = s.jui := by
  dsimp only [State.burstWrite]
  split
  · rfl
  · simp [foldl_jui (fun (st : State) i => memSet_jui st (a + i) (vals i))]

@[simp] theorem writeBack_jui (p : Nat) : (s.writeBack p).jui = s.jui := by
  dsimp only [State.writeBack]
  split <;> simp

@[simp] theorem touch_jui (p : Nat) : (s.touch p).jui = s.jui := rfl

@[simp] theorem pinPlace_jui (p : Nat) : (s.pinPlace p).jui = s.jui := by
  simp [State.pinPlace, apply_ite State.jui]

@[simp] theorem countRa_jui (q : Nat) (used : Bool) : (s.countRa q used).jui = s.jui := rfl

@[simp] theorem dropProv_jui (p : Nat) : (s.dropProv p).jui = s.jui := by
  unfold State.dropProv
  split
  · rfl
  · simp

theorem allocate_jui {l : Nat} {s1 : State} {p : Option Nat} (h : s.allocate l = (s1, p)) : s1.jui = s.jui := by
  unfold State.allocate at h
  split at h
  · cases h; rfl
  · cases h; simp

@[simp] theorem lineWrite_jui (a : Nat) (bs : List Byte) (on pin : Bool) : (s.lineWrite a bs on pin).jui = s.jui := by
  unfold State.lineWrite
  extract_lets l si off s0 m v direct memP finish s1
  have hdirect (st : State) : (direct st).jui = st.jui := by simp [direct]
  have hfinish (st : State) (p : Nat) : (finish st p).jui = st.jui := by simp [finish, apply_ite State.jui]
  have hs1 : s1.jui = s.jui := by
    dsimp only [s1]
    split <;> simp [s0]
  split
  · simp [hdirect, s0]
  · split
    · rw [hfinish, hs1]
    · split
      next hv => rw [hfinish, allocate_jui s1 hv, hs1]
      next hv => rw [hdirect, allocate_jui s1 hv, hs1]

@[simp] theorem slabWrite_jui (a : Nat) (bs : List Byte) (on : Bool) : (s.slabWrite a bs on).jui = s.jui := by
  simp [State.slabWrite, apply_ite State.jui]

@[simp] theorem pokeP_jui (a : Nat) (bs : List Byte) (on pin : Bool) : (s.pokeP a bs on pin).jui = s.jui := by
  simp [State.pokeP, apply_ite State.jui]

@[simp] theorem noticeDescs_jui (s0 : State) (a n : Nat) : (s0.noticeDescs s a n).jui = s.jui := by
  simp [State.noticeDescs, apply_ite State.jui]

@[simp] theorem noticeRings_jui (s0 : State) (a n : Nat) : (s0.noticeRings s a n).jui = s.jui := by
  unfold State.noticeRings
  split <;> rfl

@[simp] theorem noticed_jui (s0 : State) (a n : Nat) : (s0.noticed s a n).jui = s.jui := by
  simp [State.noticed]

@[simp] theorem store_jui (a : Nat) (bs : List Byte) (on pin : Bool) : (s.store a bs on pin).jui = s.jui := by
  simp [State.store, apply_ite State.jui]

/-! ### Tensors -/

@[simp] theorem zbSet_jui (t : TDesc) (r j : Nat) (z : Bool) : (t.zbSet s r j z).jui = s.jui := by
  simp [TDesc.zbSet, apply_ite State.jui]

@[simp] theorem zbRefresh_jui (t : TDesc) (r j : Nat) : (t.zbRefresh s r j).jui = s.jui := by
  simp [TDesc.zbRefresh, apply_ite State.jui]

@[simp] theorem storeBelow_jui (t : TDesc) (r : Nat) (ws : List (Nat × Nat × Nat)) (a : Nat) (bs : List Byte) (on : Bool) :
    (t.storeBelow s r ws a bs on).jui = s.jui := by
  simp [TDesc.storeBelow, apply_ite State.jui]

@[simp] theorem writeRow_jui (t : TDesc) (r i0 : Nat) (bits : List Nat) (on : Bool) (ws : List (Nat × Nat × Nat)) :
    (t.writeRow s r i0 bits on ws).jui = s.jui := by
  simp [TDesc.writeRow, apply_ite State.jui]

@[simp] theorem writeMarked_jui (t : TDesc) (r i0 : Nat) (bits : List Nat) (marks : List Bool) (ws : List (Nat × Nat × Nat)) :
    (t.writeMarked s r i0 bits marks ws).jui = s.jui := by
  simp [TDesc.writeMarked, apply_ite State.jui]

@[simp] theorem writeLinear_jui (t : TDesc) (es : List (Nat × Bool)) : (t.writeLinear s es).jui = s.jui := by
  simp [TDesc.writeLinear]

@[simp] theorem putLinear_jui (t : TDesc) (a : Nat) (bits : List Nat) (on : Bool) : (t.putLinear s a bits on).jui = s.jui := by
  simp [TDesc.putLinear]

/-! ### Flits and packets -/

@[simp] theorem sendRoce_jui (m : OutMsg) : (s.sendRoce m).jui = s.jui := rfl

@[simp] theorem emitFlit_jui (f : Flit) : (s.emitFlit f).jui = s.jui := rfl

@[simp] theorem putFlit_jui (f : Flit) : (s.putFlit f).jui = s.jui := by
  simp [State.putFlit, apply_ite State.jui]

@[simp] theorem queueFlit_jui (f : Flit) : (s.queueFlit f).jui = s.jui := by
  simp [State.queueFlit, apply_ite State.jui]

@[simp] theorem sendFlit_jui (type vc : Nat) (payload : List Byte) : (s.sendFlit type vc payload).jui = s.jui := by
  simp [State.sendFlit, apply_ite State.jui]

@[simp] theorem sendFlits_jui (type vc : Nat) (bytes : List Byte) : (s.sendFlits type vc bytes).jui = s.jui := by
  simp [State.sendFlits]

@[simp] theorem countTx_jui (n : Nat) : (s.countTx n).jui = s.jui := rfl

@[simp] theorem qpRequest_jui (qpn n : Nat) (isRead : Bool) (data : List Byte) (row addr : Nat) :
    (s.qpRequest qpn n isRead data row addr).jui = s.jui := by
  simp [State.qpRequest]

end Sys2Proof.Proofs.LedgerFrame
end

section
/-! SUPPORT. Collectives leave the ledger alone (R317 to R333): what they send, read and write, and the windows that open at a mark. -/

namespace Sys2Proof.Proofs.LedgerColl

open Sys2Proof Sys2Proof.Machine Sys2Proof.Laws Sys2Proof.Proofs.LedgerFrame

variable (s : State) (p : CollP) (c : CollSt)

/-! ### Messages and reports -/

@[simp] theorem dropColl_jui (gid cs : Nat) : (s.dropColl gid cs).jui = s.jui := rfl

@[simp] theorem dropKept_jui (gid cs : Nat) : (s.dropKept gid cs).jui = s.jui := rfl

@[simp] theorem collSend1_jui (dest kind off : Nat) (data : List Byte) : (s.collSend1 p c dest kind off data).jui = s.jui := by
  simp [State.collSend1, apply_ite State.jui]

@[simp] theorem collSend_jui (dest kind off : Nat) (data : List Byte) : (s.collSend p c dest kind off data).jui = s.jui := by
  simp [State.collSend]

/-- One message to each of several ranks. By induction, not by `foldl_jui`: there the kernel would compare `collSend` with itself under a beta-redex, and unfold it. -/
theorem foldl_collSend_jui (kind off : Nat) (data : List Byte) (ranks : List Nat) :
    (ranks.foldl (fun st r => st.collSend p c r kind off data) s).jui = s.jui := by
  induction ranks generalizing s with
  | nil => rfl
  | cons r t ih => exact (ih (s.collSend p c r kind off data)).trans (collSend_jui s p c r kind off data)

@[simp] theorem sendResult_jui (r : Nat) : (s.sendResult p c r).jui = s.jui := by
  simp [State.sendResult, apply_ite State.jui]

@[simp] theorem nextSend_jui (o : Nat) (ws : List W32) : (s.nextSend p c o ws).jui = s.jui := by
  simp [State.nextSend, apply_ite State.jui]

@[simp] theorem ringSend_jui (o : Nat) (ws : List W32) : (s.ringSend p c o ws).jui = s.jui := by
  simp [State.ringSend, apply_ite State.jui]

@[simp] theorem collEnds_jui (code : Nat) (pass : Bool) : (s.collEnds p c code pass).jui = s.jui := by
  simp [State.collEnds, apply_ite State.jui]

@[simp] theorem collLost_jui : (s.collLost p c).jui = s.jui := by
  simp [State.collLost]

@[simp] theorem collFinish_jui : (s.collFinish p c).jui = s.jui := by
  simp [State.collFinish, apply_ite State.jui]

/-! ### Inputs read, outputs written -/

/-- Reading a rank's own input writes at most the carry tensor. -/
@[simp] theorem contrib_jui (a n : Nat) : (s.contrib p c a n).1.jui = s.jui := by
  dsimp only [State.contrib]
  split <;> simp

@[simp] theorem collNonfinite_jui (on : Bool) : (s.collNonfinite p c on).jui = s.jui := by
  simp [State.collNonfinite, apply_ite State.jui]

@[simp] theorem collWrite_jui (a : Nat) (ws : List W32) (pz : Bool) : (s.collWrite p c a ws pz).jui = s.jui := by
  simp [State.collWrite]

@[simp] theorem collWriteRaw_jui (a : Nat) (bits : List Nat) : (s.collWriteRaw p c a bits).jui = s.jui := by
  simp [State.collWriteRaw]

/-! ### Ring and broadcast -/

@[simp] theorem ringReduced_jui (j o : Nat) (ws : List W32) (pz : Bool) : (s.ringReduced p c j o ws pz).jui = s.jui := by
  simp [State.ringReduced, apply_ite State.jui]

@[simp] theorem broadcastData_jui (j : Nat) (last : Bool) (o : Nat) (ws : List W32) : (s.broadcastData p c j last o ws).jui = s.jui := by
  simp [State.broadcastData, apply_ite State.jui]

@[simp] theorem ringData_jui (j : Nat) (gather : Bool) (o : Nat) (ws : List W32) : (s.ringData p c j gather o ws).jui = s.jui := by
  dsimp only [State.ringData]
  split
  · simp
  · split
    · simp [apply_ite State.jui]
    · split <;> simp

@[simp] theorem broadcastStart_jui : (s.broadcastStart p c).jui = s.jui := by
  simp [State.broadcastStart]

@[simp] theorem ringStart_jui : (s.ringStart p c).jui = s.jui := by
  dsimp only [State.ringStart]
  split
  · simp [apply_ite State.jui]
  · split
    · simp
    · split <;> simp

/-! ### Halving and doubling -/

@[simp] theorem exchangeSend_jui : (s.exchangeSend p c).jui = s.jui := by
  dsimp only [State.exchangeSend]
  split
  · split <;> simp [apply_ite State.jui]
  · split
    · split <;> simp [apply_ite State.jui]
    · simp [apply_ite State.jui]

@[simp] theorem exchangeNext_jui (gid cs n : Nat) : (exchangeNext p gid cs n s).jui = s.jui := by
  induction n generalizing s with
  | zero => rfl
  | succ n ih =>
    dsimp only [exchangeNext]
    split
    · rfl
    · split
      · rw [ih]
        simp [apply_ite State.jui]
      · rfl

@[simp] theorem exchangeData_jui (h o : Nat) (ws : List W32) : (s.exchangeData p c h o ws).1.jui = s.jui := by
  dsimp only [State.exchangeData]
  split
  · rfl
  · simp [apply_ite State.jui, apply_ite Prod.fst]

/-! ### A collective from its window to its end -/

@[simp] theorem collBegin_jui (members : List Nat) (vote elems : Nat) (table : List RankInfo) :
    (s.collBegin p c members vote elems table).jui = s.jui := by
  simp [State.collBegin, apply_ite State.jui]

@[simp] theorem collExcluded_jui (members : List Nat) (vote elems : Nat) (table : List RankInfo) :
    (s.collExcluded p c members vote elems table).jui = s.jui := by
  simp [State.collExcluded, apply_ite State.jui]

@[simp] theorem fixSet_jui : (s.fixSet p c).jui = s.jui := by
  dsimp only [State.fixSet]
  rw [collBegin_jui, foldl_collSend_jui, modColl_jui, modEst_jui]

@[simp] theorem tryFix_jui (gid cs : Nat) : (s.tryFix p gid cs).jui = s.jui := by
  unfold State.tryFix
  split
  · rfl
  · simp [apply_ite State.jui]

@[simp] theorem recordArrive_jui (i : RankInfo) : (s.recordArrive p c i).jui = s.jui := by
  simp [State.recordArrive, apply_ite State.jui]

@[simp] theorem openWindow_jui : (s.openWindow p c).jui = s.jui := by
  simp [State.openWindow, apply_ite State.jui]

@[simp] theorem collDeliver_jui (i : Instr) : (s.collDeliver p c i).1.jui = s.jui := by
  unfold State.collDeliver
  split <;> simp [apply_ite Prod.fst, apply_ite State.jui]

theorem collFirst_jui {s1 : State} (l : List (Nat × Nat × Instr)) (h : s.collFirst p c l = some s1) : s1.jui = s.jui := by
  induction l with
  | nil => cases h
  | cons b t ih =>
    unfold State.collFirst at h
    split at h
    · dsimp only at h
      split at h
      · cases h
        exact collDeliver_jui s p c b.2.2
      · exact ih h
    · exact ih h

@[simp] theorem collPump_jui (gid cs n : Nat) : (collPump p gid cs n s).jui = s.jui := by
  induction n generalizing s with
  | zero => rfl
  | succ n ih =>
    unfold collPump
    split
    · rfl
    next c _ =>
      split
      next s1 h => rw [ih, collFirst_jui s p c _ h]
      · simp

theorem collRun_jui (gid cs : Nat) {f : CollP → CollSt → State → State} (hf : ∀ p c st, (f p c st).jui = st.jui) :
    (s.collRun gid cs f).jui = s.jui := by
  unfold State.collRun
  split
  · rfl
  · rw [collPump_jui, hf]

@[simp] theorem openWindows_jui : s.openWindows.jui = s.jui := by
  refine foldl_jui (fun st c => collRun_jui st _ _ (fun p1 c1 st1 => ?_)) _ s
  split <;> simp

end Sys2Proof.Proofs.LedgerColl
end

section
/-! SUPPORT. The meter's open sum and TOTAL_IN through what a mark brings besides the close of the interval (R77): the DMA chains that a partition reset
ends may book occupancy to requests, and power, windows and the mirror leave the ledger alone. -/

namespace Sys2Proof.Proofs.LedgerMark

open Sys2Proof Sys2Proof.Machine Sys2Proof.Laws Sys2Proof.Proofs.LedgerFrame Sys2Proof.Proofs.LedgerColl

/-- What the meter has given the ledger (R369): the open sum in units of 2^-16 nJ, and TOTAL_IN. -/
def meter (j : JuiSt) : Nat × Nat := (j.acc, j.totalIn)

@[simp] theorem foldl_meter {α : Type} {f : State → α → State} (h : ∀ s x, meter (f s x).jui = meter s.jui) (l : List α) (s : State) :
    meter (l.foldl f s).jui = meter s.jui :=
  foldl_reads (fun st => meter st.jui) h l s

variable (s : State)

/-! ### Bookings (R376) -/

/-- A change of a request or of the overflow account is none of the meter's. -/
@[simp] theorem modReq_meter (j : JuiSt) (q id : Nat) (f : Req → Req) : meter (j.modReq q id f) = meter j := by
  unfold JuiSt.modReq
  split <;> rfl

@[simp] theorem bookOcc_meter (q id n : Nat) : meter (s.bookOcc q id n).jui = meter s.jui := modReq_meter s.jui q id _

/-! ### DMA chains -/

@[simp] theorem dmaWrite_jui (core a : Nat) (bs : List Byte) (on : Bool) : (s.dmaWrite core a bs on).jui = s.jui := by
  simp [State.dmaWrite, apply_ite State.jui]

@[simp] theorem writeStatus_jui (core a state cause clamps bytes : Nat) : (s.writeStatus core a state cause clamps bytes).jui = s.jui := by
  simp [State.writeStatus]

@[simp] theorem fireTrigger_jui (core ch : Nat) : (s.fireTrigger core ch).jui = s.jui := rfl

@[simp] theorem firesDone_jui (core : Nat) : (s.firesDone core).jui = s.jui := rfl

@[simp] theorem fireWaiting_jui (core : Nat) (p : DmaDesc → Bool) : (s.fireWaiting core p).jui = s.jui := by
  rw [State.fireWaiting, firesDone_jui]
  refine foldl_jui (fun st ch => ?_) _ s
  split
  · split <;> simp
  · rfl

@[simp] theorem tallyDma_jui (core : Nat) (h : ChainHead) (n : Nat) : (s.tallyDma core h n).jui = s.jui := by
  unfold State.tallyDma
  split <;> simp

@[simp] theorem chainBad_jui (h : ChainHead) : (s.chainBad h).jui = s.jui := by
  unfold State.chainBad
  split
  · split <;> simp
  · rfl

@[simp] theorem loadDesc_jui (core ch : Nat) (h : ChainHead) (a : Nat) (inRun : Bool) : (s.loadDesc core ch h a inRun).1.jui = s.jui := by
  simp [State.loadDesc, apply_ite Prod.fst, apply_ite State.jui]

/-- The end of a detached chain books its time; nothing else of it reaches the ledger. -/
@[simp] theorem chainEnded_meter (h : ChainHead) : meter (s.chainEnded h).jui = meter s.jui := by
  unfold State.chainEnded
  extract_lets s1
  have hs1 : meter s1.jui = meter s.jui := by
    dsimp only [s1]
    split
    · split <;> simp
    · rfl
  split
  · split
    · exact hs1
    · split
      · split <;> simp [hs1]
      · exact hs1
  · exact hs1

@[simp] theorem nextChain_meter (core ch n : Nat) : meter (State.nextChain core ch n s).jui = meter s.jui := by
  induction n generalizing s with
  | zero => rfl
  | succ n ih =>
    dsimp only [State.nextChain]
    split
    · simp
    · split <;> simp [ih]

@[simp] theorem kickChannels_meter (core : Nat) : meter (s.kickChannels core).jui = meter s.jui := by
  refine foldl_meter (fun st ch => ?_) _ s
  split <;> simp

/-! ### Commands that end, and the reset of a partition (R433) -/

@[simp] theorem dropGroups_jui (c : Cmd) (core : Nat) : (s.dropGroups c core).jui = s.jui := rfl

@[simp] theorem abandonCore_meter (c : Cmd) (core : Nat) : meter (s.abandonCore c core).jui = meter s.jui := by
  simp [State.abandonCore]

@[simp] theorem endCommand_meter (fault : Bool) (e : WakeEntry) : meter (s.endCommand fault e).jui = meter s.jui := by
  simp [State.endCommand, apply_ite State.jui, apply_ite meter]

@[simp] theorem resetCores_jui (level inst : Nat) : (s.resetCores level inst).jui = s.jui := rfl

@[simp] theorem refuseReset_jui (level inst : Nat) : (s.refuseReset level inst).jui = s.jui := rfl

@[simp] theorem discardProv_jui (cond : Nat → State → Nat → Bool) : (s.discardProv cond).1.jui = s.jui := by
  refine foldl_reads (fun acc => acc.1.jui) (fun acc p => ?_) _ (s, 0)
  split
  · split <;> simp
  · rfl

theorem beginReset_partition_meter (p : Nat) (fault : Bool) : meter (s.beginReset 2 p fault).jui = meter s.jui := by
  simp [State.beginReset, apply_ite State.jui, apply_ite meter]

@[simp] theorem dueResets_meter : meter s.dueResets.jui = meter s.jui := by
  refine foldl_meter (fun st r => ?_) _ s
  split
  · split
    · rfl
    · exact beginReset_partition_meter st r.1 true
  · rfl

/-! ### Power, thrash interval and mirror at a mark -/

@[simp] theorem thermalMark_jui : s.thermalMark.jui = s.jui := rfl

@[simp] theorem decideMark_jui : s.decideMark.jui = s.jui := rfl

@[simp] theorem dvfsMark_jui : s.dvfsMark.jui = s.jui := by
  simp [State.dvfsMark, apply_ite State.jui]

@[simp] theorem noteThrottle_jui (m : Nat) : (s.noteThrottle m).jui = s.jui := rfl

@[simp] theorem slackMark_jui : s.slackMark.jui = s.jui := by
  simp [State.slackMark, apply_ite State.jui]

@[simp] theorem thrashMark_jui : s.thrashMark.jui = s.jui := rfl

@[simp] theorem mirrorCommit_jui (f vote : Nat) : (s.mirrorCommit f vote).jui = s.jui := by
  simp [State.mirrorCommit, apply_ite State.jui]

@[simp] theorem mirrorSet_jui (f : Nat) (b : List Byte) : (s.mirrorSet f b).jui = s.jui := rfl

@[simp] theorem mirrorFlip_jui (f : Nat) : (s.mirrorFlip f).jui = s.jui := by
  unfold State.mirrorFlip
  extract_lets due
  split
  · rfl
  · rw [modFrd_jui]
    split <;> simp

@[simp] theorem fireMarks_jui (m : Nat) : (s.fireMarks m).jui = s.jui := by
  simp [State.fireMarks]

/-- Steps 3 to 5 of R77 and what else a mark brings take no energy and lose none. -/
theorem markRest_meter : meter s.markRest.jui = meter s.jui := by
  simp [State.markRest]

end Sys2Proof.Proofs.LedgerMark
end

section
/-! The ledger's energy (R368, R369): what a meter sample adds to the open sum, and what a mark takes from it. -/

namespace Sys2Proof.Proofs.LedgerEnergy

open Sys2Proof Sys2Proof.Machine Sys2Proof.Laws Sys2Proof.Proofs.LedgerFrame Sys2Proof.Proofs.LedgerColl Sys2Proof.Proofs.LedgerMark

variable (s : State)

/-! ### The close of an interval (step 1 of R77) -/

@[simp] theorem bookInFlight_meter : meter s.bookInFlight.jui = meter s.jui := by
  unfold State.bookInFlight
  extract_lets s1 s2 bookHead s3
  have hbookHead (st : State) (h : ChainHead) : meter (bookHead st h).jui = meter st.jui := by
    dsimp only [bookHead]
    split
    · split <;> simp
    · rfl
  calc meter s3.jui
      _ = meter s1.jui := foldl_meter hbookHead _ s2
      _ = meter s.jui := foldl_meter (fun st e => bookOcc_meter st _ _ _) _ s

@[simp] theorem emitRequest_meter (r : Req) (queue id extra last : Nat) : meter (s.emitRequest r queue id extra last).jui = meter s.jui := rfl

@[simp] theorem emitSpan_meter (type last : Nat) : meter (s.emitSpan type last).jui = meter s.jui := rfl

@[simp] theorem closeRequest_meter (m : Nat) (beat : Bool) (place : Nat) (r : Req) : meter (s.closeRequest m beat place r).jui = meter s.jui := by
  dsimp only [State.closeRequest]
  split
  · rfl
  · split
    · rfl
    · split <;> rfl

@[simp] theorem closeOverflow_meter (m : Nat) : meter (s.closeOverflow m).jui = meter s.jui := by
  dsimp only [State.closeOverflow]
  split <;> rfl

/-- The interval's energy leaves the open sum for TOTAL_IN: its whole nanojoules, the fraction stays (R369). -/
theorem ledgerClose_meter (m : Nat) (h : s.jui.running = true) :
    meter (s.ledgerClose m).jui = (s.jui.acc % 65536, (s.jui.totalIn + s.jui.acc / 65536) % 2 ^ 64) := by
  unfold State.ledgerClose
  rw [if_neg (by simp [h])]
  extract_lets booked j e slk unsync mv all parts idle
  split
  extract_lets fl share s1 beat s2 s3 s4
  have hbooked : (booked.jui.acc, booked.jui.totalIn) = (s.jui.acc, s.jui.totalIn) := bookInFlight_meter s
  injection hbooked with hacc htotal
  have h1 : meter s1.jui = (booked.jui.acc % 65536, (booked.jui.totalIn + booked.jui.acc / 65536) % 2 ^ 64) := rfl
  have h2 : meter s2.jui = meter s1.jui := foldl_meter (fun st (p : Nat × Req) => closeRequest_meter st m beat p.1 p.2) _ s1
  have h3 : meter s3.jui = meter s2.jui := by
    dsimp only [s3]
    split
    · exact closeOverflow_meter s2 m
    · rfl
  have h4 : meter s4.jui = meter s3.jui := by
    dsimp only [s4]
    split
    · exact emitSpan_meter s3 2 m
    · rfl
  calc meter s4.jui
      _ = meter s1.jui := h4.trans (h3.trans h2)
      _ = _ := by rw [h1, hacc, htotal]

/-! ### The two operations -/

/-- What a mark does to the meter's sum and to TOTAL_IN, be there a COMMIT due at it or not. -/
theorem tideMark_yields_meter (hrun : s.jui.running = true) (hrest : s.tide.rest = false) :
    Yields .tideMark s (fun t => meter t.jui = (s.jui.acc % 65536, (s.jui.totalIn + s.jui.acc / 65536) % 2 ^ 64)) := by
  change ∃ t, execTideMark s = .next t ∧ _
  unfold execTideMark
  rw [if_neg (by simp [hrun, hrest])]
  extract_lets s1 s2
  have hclose : meter s2.jui = (s.jui.acc % 65536, (s.jui.totalIn + s.jui.acc / 65536) % 2 ^ 64) := ledgerClose_meter s1 s1.tide.count hrun
  split
  · exact ⟨_, rfl, (congrArg meter (modTide_jui s2 _)).trans hclose⟩
  · exact ⟨_, rfl, (markRest_meter s2).trans hclose⟩

theorem meterSample_yields (energy ma : Nat) (hrun : s.jui.running = true) :
    Yields (.meterSample energy ma) s (fun t => t.jui = { s.jui with acc := s.jui.acc + energy }) := by
  refine ⟨_, rfl, ?_⟩
  simp [hrun]

/-- Settles O48: a sample is added as it is; at a mark the open sum is divided by 65,536, the quotient to TOTAL_IN and the remainder left, and nothing else that the
mark brings touches either. -/
theorem energyIsExact : Obligations.EnergyIsExact := by
  intro s hrun
  constructor
  · intro energy ma
    exact meterSample_yields s energy ma hrun
  intro hrest
  obtain ⟨t, hexec, hmeter⟩ := tideMark_yields_meter s hrun hrest
  injection hmeter with hacc htotal
  refine ⟨t, hexec, s.jui.acc / 65536, ?_, ?_, htotal⟩
  · rw [hacc, Nat.div_add_mod]
  · rw [hacc]
    exact Nat.mod_lt _ (by decide)

end Sys2Proof.Proofs.LedgerEnergy
end
